-- ==== Sys2Proof/Word.lean ====
section
/-! DEFINITION. The byte and the counter types, and their plainest arithmetic. -/

namespace Sys2Proof

/-- One byte of a frame, a sentence or a payload. -/
abbrev Byte := BitVec 8

/-- An unsigned count from 0 to 2^32−1 that wraps to 0 (R11, R41, R60, R108, R150, R161, R171). -/
abbrev Count := BitVec 32

/-- A 16-bit sequence number that wraps from 65,535 to 0 (R52, R136). -/
abbrev Seq := BitVec 16

end Sys2Proof
end

