-- ==== Sys2Proof/Syntax.lean ====
section
/-! DEFINITION. The commands of the part: one constructor for each row of spec/opcode_table.json.
A command is one whole, indivisible step of a block (95_what_each_step_holds.md). Its operands are
what the outside world or the measuring hardware supplies at that step; a step that takes an event
another block handed on finds that event in the state. -/

namespace Sys2Proof

/-- Input unit IN1 (0) or IN2 (1); its source index is the same number (chapter 2). -/
abbrev InUnit := Fin 2

/-- Uplink unit UP1 (0) or UP2 (1); its source index is 2 more (chapter 3). -/
abbrev UpUnit := Fin 2

/-- External source index 0 to 3: IN1, IN2, UP1, UP2 (00_scope.md, Source indices). -/
abbrev Ext := Fin 4

/-- Source index 0 to 4; 4 is LOCAL (00_scope.md, Source indices). -/
abbrev Source := Fin 5

/-- Distribution port D1 (0) to D6 (5) (chapter 7). -/
abbrev Port := Fin 6

/-- Pulse output O1 (0) to O4 (3) (chapter 8). -/
abbrev PulseOut := Fin 4

/-- Coded-time output T1 (0) or T2 (1) (chapter 8). -/
abbrev CodedOut := Fin 2

/-- Management link A (0), B (1) or C (2) (chapter 10). -/
abbrev Link := Fin 3

/-- The elapsed part of the tick in whole fu, 0 to 127, as the reading unit's capture measures it (R4). -/
abbrev Elapsed := Fin 128

/-- The level of the override strap (R184). -/
inductive Level where
  | low
  | high
  deriving DecidableEq, Repr

/-- The state of a port's Ethernet link as the port reports it (chapter 7; U1 and U2 likewise). -/
inductive LinkLevel where
  | up
  | down
  deriving DecidableEq, Repr

/-- The six notice classes, highest priority first (chapter 11, 11.1). -/
inductive NoticeClass where
  | steeringState
  | sourceSelected
  | timeStepped
  | faultLogged
  | planActivated
  | cycle
  deriving DecidableEq, Repr

/-- The blocks that log faults (chapter 11, 11.4). -/
inductive FaultOrigin where
  | selector
  | steering
  | port (p : Port)
  deriving DecidableEq, Repr

/-- The blocks a service reset is handed to (R183). -/
inductive ResetBlock where
  | timebase
  | input (u : InUnit)
  | uplink (u : UpUnit)
  | selector
  | steering
  | planStore
  | port (p : Port)
  | outputs
  | notice
  deriving DecidableEq, Repr

/-- The commands, in the order of spec/opcode_table.json. -/
inductive Instr where
  | powerOnReset (strap : Level) (uplinks : Vector LinkLevel 2) (ports : Vector LinkLevel 6)
  | oscillatorTick
  | rateWordTaken
  | stepRequestApplied (x : Elapsed)
  | readTime (x : Elapsed)
  | stepTime (x : Elapsed)
  | rateLimitWrite
  | pulseEdge (u : InUnit) (x : Elapsed)
  | pulseWindowMiss (u : InUnit)
  | characterReceived (u : InUnit) (data : Byte) (parityBit : Bool) (x : Elapsed)
  | framingError (u : InUnit)
  | breakDetected (u : InUnit)
  | breakEnd (u : InUnit)
  | autoRateMeasurement (u : InUnit)
  | pairingWindowEnd (u : InUnit)
  | requestTimerExpiry (u : InUnit)
  | descriptorRequestDone (u : InUnit)
  | inputUnitStep (u : InUnit)
  | pairingModeWrite
  | autoRateArmWrite
  | uplinkMark (u : UpUnit) (bytes : List Byte) (x : Elapsed)
  | uplinkStateMark (u : UpUnit) (bytes : List Byte) (x : Elapsed)
  | uplinkReply (u : UpUnit) (bytes : List Byte)
  | uplinkUnexpectedFrame (u : UpUnit) (bytes : List Byte)
  | uplinkQuerySlot (u : UpUnit) (x : Elapsed)
  | uplinkCycleStart (u : UpUnit) (x : Elapsed)
  | queryLost (u : UpUnit) (x : Elapsed)
  | uplinkStep (u : UpUnit)
  | uplinkLinkDown (u : UpUnit)
  | uplinkLinkUp (u : UpUnit)
  | sourceEnable
  | sourceDisable
  | selectorPulseReport (e : Ext)
  | selectorPhaseEvent (e : Ext)
  | autoUpgradeWrite
  | excursionReport
  | selectorCycleStart
  | retryTimerExpiry (e : Ext)
  | selectorStep
  | switchSource
  | discardFallback
  | steeringPhaseEvent
  | steeringStepAnnouncement
  | steeringSelectExternal
  | steeringSelectLocal
  | steeringCycleStart
  | holdoverExpiry
  | steeringOptionsWrite
  | cycleStart
  | slotStart
  | cycleCut
  | armPlan
  | disarmPlan
  | portMapWrite
  | epochLengthWrite
  | portCycleStart (p : Port)
  | answerEntryExpiry (p : Port)
  | portSlotStart (p : Port)
  | markDeparture (p : Port) (x : Elapsed)
  | replyDeparture (p : Port) (n : Nat) (x : Elapsed)
  | queryReceived (p : Port) (bytes : List Byte) (x : Elapsed)
  | portUnexpectedFrame (p : Port) (bytes : List Byte)
  | portCut (p : Port)
  | portLinkDown (p : Port)
  | portLinkUp (p : Port)
  | portEnable
  | portDisable
  | clearPortFlags
  | pulseRiseTime (k : PulseOut)
  | pulseFall (k : PulseOut)
  | pulseOutputStep (k : PulseOut)
  | codedDueTime (m : CodedOut)
  | codedTransmissionDone (m : CodedOut)
  | codedOutputStep (m : CodedOut)
  | selectAsserted (l : Link)
  | responseDelivered (l : Link)
  | commandFrameReceived (l : Link) (bytes : List Byte)
  | selectReleased (l : Link)
  | commandGrant
  | readEntry (x : Elapsed)
  | writeEntry
  | accessTableWrite
  | guardEntryWrite
  | lockAccess
  | linkReset
  | serviceReset (blocks : List ResetBlock)
  | noticeLatch (c : NoticeClass)
  | noticeMaskWrite
  | nestModeWrite
  | takeNotice
  | endService
  | noticeCycleStart
  | portCompletionReport (p : Port)
  | noticeSlotStart
  | faultOffered (b : FaultOrigin)
  | peekFault
  | popFault
  | clearFaultOverflow
  | receiveFallingEdge (u : InUnit)
  | falseStart (u : InUnit)
  | measuredLeadEnd (u : InUnit)
  | programmedClassWrite
  deriving DecidableEq, Repr

end Sys2Proof
end

