-- ==== Sys2Proof/Decode.lean ====
section
/-! DEFINITION. The command that a word of the opcode table spells. -/

namespace Sys2Proof

/-- The command that a word spells by the table's bits. No row of the table gives bits (every row's
field list is empty), so no word spells a command. Command frames from the management links are read
by `Sys2Proof.Machine.readCommandFrame`. -/
def decodeTableWord (nbits w : Nat) : Option Instr :=
  match nbits, w with
  | _, _ => none

end Sys2Proof
end

