-- ==== Sys2Proof/Config.lean ====
section
/-! DEFINITION. The constants the manual fixes, and the values it leaves open (opaque: no proof can
see what they are). -/

namespace Sys2Proof.Config

/-- Station seconds count modulo 2^48 (R1). -/
def secondsModulus : Nat := 281474976710656

/-- Nanoseconds in a second (R1). -/
def nanosPerSecond : Nat := 1000000000

/-- Fine-fraction units in a nanosecond: 2^32 (R1). -/
def unitsPerNano : Nat := 4294967296

/-- Fine-fraction units in one fu: 2^28 (R10). -/
def unitsPerFu : Nat := 268435456

/-- fu in a nanosecond. -/
def fuPerNano : Nat := 16

/-- fu in a second. -/
def fuPerSecond : Nat := 16000000000

/-- What one tick adds at rate word 0, in fine-fraction units: 8 × 2^32 (R2). -/
def tickUnits : Nat := 34359738368

/-- One slot, in nanoseconds (R111). -/
def slotNanos : Nat := 25000000

/-- Slots in a cycle. -/
def slotsPerCycle : Nat := 40

/-- The upper end of the rate limit and of trim (R8, R9). -/
def rateMax : Int := 6871947

/-- The saturation bound of a carried phase error: 2^40−1 fu (R16). -/
def phaseBound : Int := 1099511627775

/-- Entries of the fallback stack at most (R75). -/
def stackDepth : Nat := 4

/-- Frames a command queue or a response queue holds at most (R170). -/
def queueDepth : Nat := 4

/-- Entries an answer queue holds at most (R141). -/
def answerDepth : Nat := 8

/-- Scheduled departures a departure queue holds at most (R134). -/
def departureDepth : Nat := 2

/-- Entries a fault queue holds at most (R191). -/
def faultDepth : Nat := 16

/-- Words the rate history ring holds at most (R96). -/
def ringDepth : Nat := 16

/-- Delays an uplink's delay window holds at most (R53). -/
def delayDepth : Nat := 8

/-- The 8-byte unit identity, fixed for each part (R181): each part has its own. -/
opaque unitIdentity : BitVec 64

/-- The eight bytes read for a signed field of unstated range whose value does not fit in eight
bytes (R163 gives the field eight bytes and says nothing of such a value). -/
opaque wideField : Int → BitVec 64

/-- What the count of pulse windows becomes when it is incremented at 2^32−1 (the state table of
Reference Inputs gives its range and no rule says whether it wraps). -/
opaque intervalsPastEnd : Count

/-- The Ethernet address of a distribution port, the source of the frames it sends (R166 gives no
value: each part has its own). -/
opaque portAddress : Fin 6 → BitVec 48

/-- The Ethernet address of an uplink's port, the source of the frames it sends (R166 gives no value:
each part has its own). -/
opaque uplinkAddress : Fin 2 → BitVec 48

/-- The priority read at SOURCES 129: R64 makes LOCAL's priority readable and gives it no value. -/
opaque localPriority : Fin 8

end Sys2Proof.Config
end

