-- ==== Sys2Proof/Machine/State.lean ====
section
/-! DEFINITION. Every piece of state the manual gives the part, the events in flight between its
blocks, the queue of waiting commands, and the state after power-on reset. -/

namespace Sys2Proof.Machine

/-! ### Times -/

/-- Station time: seconds, nanoseconds and fine fraction in units of 2^-32 ns (R1). -/
structure StationTime where
  sec : Nat
  ns : Nat
  frac : Nat
  deriving DecidableEq, Repr

/-- A stamp: seconds, nanoseconds and a fu remainder (R4). -/
structure Stamp where
  sec : Nat
  ns : Nat
  fu : Nat
  deriving DecidableEq, Repr

/-! ### Timebase (chapter 1) -/

/-- Who asked for a step (R11). -/
inductive StepOrigin where
  | steering
  | command
  deriving DecidableEq, Repr

/-- The step record: origin, offset in fu, stamp just after (R11). -/
structure StepRecord where
  origin : StepOrigin
  offset : Int
  after : Stamp
  deriving DecidableEq, Repr

/-- The timebase's state (chapter 1, state table; reset R17). -/
structure Timebase where
  time : StationTime
  rate : Int
  trim : Int
  rateLimit : Int
  record : Option StepRecord
  stepCount : Count
  deriving DecidableEq, Repr

/-! ### Phase events (R15) -/

/-- The cause of a BAD phase event (R15). -/
inductive BadCause where
  | unpaired
  | unlockedReceiver
  | secondsJump
  | badDelayAbsent
  deriving DecidableEq, Repr

/-- Validity: GOOD with the carried and the exact phase error (R16), or BAD with its cause. -/
inductive Validity where
  | good (carried exact : Int)
  | bad (cause : BadCause)
  deriving DecidableEq, Repr

/-- The phase event record (R15). -/
structure PhaseEvent where
  source : Ext
  validity : Validity
  reference : Option Stamp
  capture : Option Stamp
  compensation : Option Int
  deriving DecidableEq, Repr

/-- The kind of a pulse report (R23, R54). -/
inductive ReportKind where
  | accepted
  | stray
  | miss
  deriving DecidableEq, Repr

/-! ### Input units (chapter 2) -/

/-- The parity of a serial line (2.1, 8.1). -/
inductive Parity where
  | none
  | even
  | odd
  deriving DecidableEq, Repr

/-- Whether the sentence follows or precedes its pulse (2.1). -/
inductive PairingMode where
  | follows
  | precedes
  deriving DecidableEq, Repr

/-- The tracker: idle, seeking, or tracking with the expected time X and the half-width the window was
given when X was set (R19 to R22, R42). -/
inductive Tracker where
  | idle
  | seeking
  | tracking (x : Stamp) (halfWidth : Nat)
  deriving DecidableEq, Repr

/-- The fields of a time-of-day sentence (R29, R164). -/
structure TimeOfDay where
  seconds : Nat
  scale : Int
  locked : Bool
  cls : Nat
  deriving DecidableEq, Repr

/-- The half of a pair waiting for the other, with the end of its pairing window (R30, R31). -/
inductive Held where
  | nothing
  | pulse (capture windowEnd : Stamp)
  | sentence (tod : TimeOfDay) (windowEnd : Stamp)
  deriving DecidableEq, Repr

/-- The serial receiver. `lowIdle` is IDLE with the line low since a falling edge that no character
counts: a low of 11 bit times from it is a break all the same (R25). `character` holds the divisor and
parity of its start edge (R24). MEASURING is `measuring` until the falling edge and `counting` from it,
with the parity in effect at that edge and the ticks counted (R27, R42). `leadWait` is the rest of the
measured lead character, with the ticks left to its end and whether a falling edge has come in it
(R27). -/
inductive Receiver where
  | idle
  | lowIdle
  | character (divisor : Nat) (parity : Parity)
  | inBreak
  | measuring
  | counting (parity : Parity) (ticks : Nat)
  | leadWait (ticksLeft : Nat) (low : Bool)
  deriving DecidableEq, Repr

/-- The assembler and its buffer: kind, length, body so far (R28). -/
inductive Assembler where
  | waitBreak
  | lead
  | kind
  | length (kind : Byte)
  | body (kind : Byte) (len : Nat) (got : List Byte)
  | check (kind : Byte) (len : Nat) (got : List Byte)
  deriving DecidableEq, Repr

/-- The request transmitter: idle, or sending with the divisor and parity it began with, the
characters of the request and the oscillator ticks left (R35). -/
inductive Transmitter where
  | idle
  | sending (divisor : Nat) (parity : Parity) (bytes : List Byte) (ticksLeft : Nat)
  deriving DecidableEq, Repr

/-- The settings of an input unit (2.1). -/
structure InputSettings where
  halfWidth : Nat
  divisor : Nat
  parity : Parity
  armed : Bool
  mode : PairingMode
  window : Nat
  deriving DecidableEq, Repr

/-- The counters of an input unit (R41). -/
structure InputCounters where
  framing : Count
  parity : Count
  unframed : Count
  badSentences : Count
  orphans : Count
  badDescriptors : Count
  descriptors : Count
  requestsSent : Count
  requestsSkipped : Count
  measurements : Count
  deriving DecidableEq, Repr

/-- An input unit (chapter 2, state table; reset R43). -/
structure InputUnit where
  tracker : Tracker
  anchor : Option Nat
  intervals : Count
  held : Held
  receiver : Receiver
  assembler : Assembler
  requestTimer : Option Nat
  transmitter : Transmitter
  lastScale : Int
  settings : InputSettings
  counters : InputCounters
  deriving DecidableEq, Repr

/-! ### Exchange frames (chapter 9) -/

/-- A cycle word: plan ID and the low 24 bits of the cycle number (R124, R166). -/
structure CycleWord where
  plan : BitVec 8
  cycle : BitVec 24
  deriving DecidableEq, Repr

/-- The body of a MARK, and the first part of a STATE (R166). -/
structure MarkFields where
  seconds : Nat
  nanos : Nat
  correction : Nat
  seq : Seq
  opening : Bool
  closing : Bool
  holdover : Bool
  untraceable : Bool
  cls : Nat
  word : CycleWord
  deriving DecidableEq, Repr

/-- The trailer of a STATE, as the bytes carry it (R138, R166). -/
structure Trailer where
  steering : Nat
  kind : Nat
  age : Nat
  scale : Int
  plan : Nat
  slot : Nat
  deriving DecidableEq, Repr

/-- A frame of the station time exchange (R166). -/
inductive Frame where
  | mark (m : MarkFields)
  | state (m : MarkFields) (t : Trailer)
  | query (requester : Nat) (seq : Seq)
  | reply (requester : Nat) (seq : Seq) (seconds nanos correction cls : Nat)
  deriving DecidableEq, Repr

/-- An Ethernet frame as it leaves a port (R166). -/
structure EtherFrame where
  destination : BitVec 48
  source : BitVec 48
  etherType : BitVec 16
  data : Frame
  deriving DecidableEq, Repr

/-! ### Uplink units (chapter 3) -/

/-- The held sample (chapter 3, state table). -/
structure Sample where
  t1 : Stamp
  t2 : Stamp
  word : CycleWord
  deriving DecidableEq, Repr

/-- The outstanding query (R52). -/
structure Outstanding where
  seq : Seq
  requester : Nat
  t3 : Stamp
  seen : Nat
  deriving DecidableEq, Repr

/-- The settings of an uplink unit (3.1). -/
structure UplinkSettings where
  ingress : Nat
  egress : Nat
  requester : Nat
  slot : Nat
  interval : Nat
  maxDelay : Nat
  deriving DecidableEq, Repr

/-- The counters of an uplink unit (R60). -/
structure UplinkCounters where
  marks : Count
  badFrames : Count
  unexpected : Count
  incomplete : Count
  mismatch : Count
  unopened : Count
  released : Count
  queriesSent : Count
  queriesSkipped : Count
  queriesLost : Count
  queriesAbandoned : Count
  repliesMatched : Count
  repliesDropped : Count
  repliesNoForward : Count
  badDelays : Count
  delaysAccepted : Count
  deriving DecidableEq, Repr

/-- An uplink unit (chapter 3, state table; reset R61). `link` is the port's link state (R57), `cut`
says that the current cycle has been cut by a step at this unit (R51, R56), and `sent` lists the
frames the port has sent since power-on reset, oldest first (the model's record of the wire). -/
structure UplinkUnit where
  running : Bool
  link : LinkLevel
  sample : Option Sample
  forward : Option Int
  outstanding : Option Outstanding
  seq : Seq
  window : List Int
  released : Bool
  judging : Bool
  cut : Bool
  lastClass : Option Nat
  lastScale : Int
  settings : UplinkSettings
  counters : UplinkCounters
  sent : List EtherFrame
  deriving DecidableEq, Repr

/-! ### Source selector (chapter 4) -/

/-- The state of a source entry (4.3). -/
inductive SourceState where
  | disabled
  | absent
  | trial
  | usable
  | faulted
  deriving DecidableEq, Repr

/-- A descriptor record (R36, R62). -/
structure Descriptor where
  deviceDelay : Option Int
  cls : Option Nat
  identity : List Byte
  deriving DecidableEq, Repr

/-- Why a source was left (R75); the first five are also why a source is faulted (R72). -/
inductive Cause where
  | loss
  | secondsJump
  | unlockedReceiver
  | excursion
  | excursionHard
  | manual
  deriving DecidableEq, Repr

/-- An external source entry (R62). The enabled field is the state being other than DISABLED. -/
structure SourceEntry where
  state : SourceState
  priority : Nat
  cls : Nat
  cableDelay : Nat
  deviceDelay : Int
  descriptor : Option Descriptor
  goodRun : Nat
  missRun : Nat
  learned : Int
  learnedCount : Nat
  retry : Option Nat
  restore : Option Nat
  good : Count
  bad : Count
  misses : Count
  strays : Count
  deriving DecidableEq, Repr

/-- The steering options, a subset of three (5.2). -/
structure StepOptions where
  stepPermit : Bool
  fastAcquire : Bool
  squelch : Bool
  deriving DecidableEq, Repr

/-- A fallback stack entry (R75). -/
structure StackEntry where
  source : Ext
  cause : Cause
  second : Nat
  learned : Int
  learnedCount : Nat
  options : StepOptions
  deriving DecidableEq, Repr

/-- The selector settings (4.1). -/
structure SelectorSettings where
  qualify : Nat
  retryTime : Nat
  missLimit : Nat
  disagreement : Int
  waitToRestore : Nat
  revertive : Bool
  autoUpgrade : Bool
  deriving DecidableEq, Repr

/-- The source selector (chapter 4, state table; reset R87). -/
structure Selector where
  entries : Vector SourceEntry 4
  selected : Source
  stack : List StackEntry
  settings : SelectorSettings
  deriving DecidableEq, Repr

/-! ### Steering unit (chapter 5) -/

/-- The steering state (5.1). -/
inductive SteeringState where
  | free
  | acquire
  | locked
  | holdover
  deriving DecidableEq, Repr

/-- The source left and its class c0 when HOLDOVER began (R100). -/
structure HoldoverOrigin where
  source : Ext
  cls : Nat
  deriving DecidableEq, Repr

/-- An automatic step requested and not yet announced back (R91). -/
structure PendingStep where
  offset : Int
  source : Ext
  deriving DecidableEq, Repr

/-- The steering settings (5.2). -/
structure SteeringSettings where
  ts : Int
  tl : Int
  lockCount : Nat
  tx : Int
  excursionCount : Nat
  pa : Nat
  ia : Nat
  pt : Nat
  it : Nat
  holdoverStep : Nat
  holdoverLimit : Nat
  deriving DecidableEq, Repr

/-- The steering counters (R108). -/
structure SteeringCounters where
  processed : Count
  setAside : Count
  stepsRequested : Count
  clamped : Count
  hardExcursions : Count
  excursions : Count
  locks : Count
  holdoverEntries : Count
  holdoverExpiries : Count
  deriving DecidableEq, Repr

/-- The steering unit (chapter 5, state table; reset R109). -/
structure Steering where
  state : SteeringState
  integral : Int
  lockCount : Nat
  excursionCount : Nat
  ring : List Int
  age : Nat
  steered : Option Ext
  steeredClass : Option Nat
  origin : Option HoldoverOrigin
  pendingStep : Option PendingStep
  scale : Int
  options : StepOptions
  mask : StepOptions
  settings : SteeringSettings
  counters : SteeringCounters
  deriving DecidableEq, Repr

/-! ### Cycle timer and plan store (chapter 6) -/

/-- A slot entry (R114). -/
inductive SlotEntry where
  | idle
  | mark
  | state
  | answer
  deriving DecidableEq, Repr

/-- A bank's role (R114). -/
inductive Role where
  | inactive
  | pending
  | active
  deriving DecidableEq, Repr

/-- Bank A or bank B (R114). -/
inductive BankName where
  | a
  | b
  deriving DecidableEq, Repr

/-- A plan bank (R114). -/
structure Bank where
  planId : Nat
  role : Role
  maps : Vector (List SlotEntry) 6
  deriving DecidableEq, Repr

/-- The cycle timer (chapter 6, state table; reset R127). -/
structure CycleTimer where
  cycle : Option Nat
  slot : Option Nat
  cut : Bool
  resume : Bool
  epoch : Nat
  deriving DecidableEq, Repr

/-- The plan store (chapter 6, state table; reset R127). -/
structure PlanStore where
  a : Bank
  b : Bank
  relabel : Option Nat
  deriving DecidableEq, Repr

/-! ### Distribution ports (chapter 7) -/

/-- The port state (7.2). -/
inductive PortState where
  | off
  | armed
  | serving
  | down
  deriving DecidableEq, Repr

/-- An answer queue entry (chapter 7). -/
structure Answer where
  requester : Nat
  seq : Seq
  arrival : Stamp
  remaining : Nat
  deriving DecidableEq, Repr

/-- What departs: the mark or the STATE mark of a slot, or a reply group, which holds, once taken, the
replies not yet begun (R134, R145). -/
inductive Departing where
  | mark (slot : Nat)
  | state (slot : Nat)
  | reply (taken : Option (List Answer))
  deriving DecidableEq, Repr

/-- A scheduled departure, its departure instant, and whether that instant is known to have come, by a
tick's end, by a step within the tick, or by the first reply of a group having left (R134, R135, R145: a
departure whose instant has come before a backward step may still leave after it; log entry 20). -/
structure Departure where
  due : Stamp
  came : Bool
  what : Departing
  deriving DecidableEq, Repr

/-- The settings of a port (7.1), less enabled, which is the port state being other than OFF. -/
structure PortSettings where
  budget : Nat
  stagger : Nat
  mute : Nat
  ingress : Nat
  egress : Nat
  deriving DecidableEq, Repr

/-- The counters of a port (R150). -/
structure PortCounters where
  marks : Count
  states : Count
  muted : Count
  replies : Count
  cancelled : Count
  taken : Count
  duplicates : Count
  overruns : Count
  expired : Count
  dropped : Count
  badFrames : Count
  unexpected : Count
  linkLosses : Count
  deriving DecidableEq, Repr

/-- A distribution port (chapters 6 and 7, state tables; reset R151). `stagger` is the stagger of the
cycle in hand (R149), `cycle` its cycle number (R189: reports name it), and `sent` lists the frames
sent since power-on reset, oldest first (the model's record of the wire). -/
structure PortUnit where
  state : PortState
  link : LinkLevel
  map : Option (List SlotEntry)
  word : Option CycleWord
  trimmed : Bool
  openingSent : Bool
  stagger : Nat
  cycle : Nat
  departures : List Departure
  seq : Seq
  answers : List Answer
  overrun : Bool
  settings : PortSettings
  counters : PortCounters
  sent : List EtherFrame
  deriving DecidableEq, Repr

/-! ### Outputs (chapter 8) -/

/-- A rise or due time that the advance has carried station time across and the output has not yet
decided (R152, R157): its fu position within its tick, the units of 2^-32 ns that station time has
advanced since, and whether the line was HIGH, or SENDING, at that instant. -/
structure Passing where
  part : Elapsed
  since : Nat
  busy : Bool
  deriving DecidableEq, Repr

/-- A pulse output (chapter 8, state table; reset R162). `risePart` is the fu position within its tick
of the pulse in progress (R154), and `passed` a rise time that has passed and is not yet decided
(R152). -/
structure PulseUnit where
  high : Bool
  fall : Nat
  risePart : Elapsed
  next : Stamp
  passed : Option Passing
  offset : Int
  width : Nat
  squelch : Nat
  sent : Count
  squelched : Count
  overlapped : Count
  deriving DecidableEq, Repr

/-- The coded line: idle, or sending with the divisor and parity it began with, the characters, and the
oscillator ticks left (R158). -/
inductive CodedLine where
  | idle
  | sending (divisor : Nat) (parity : Parity) (bytes : List Byte) (ticksLeft : Nat)
  deriving DecidableEq, Repr

/-- A coded-time output (chapter 8, state table; reset R162). `beginPart` is the fu position within its
tick of the transmission in progress, at which its last stop bit ends too (R158), and `passed` a due
time that has passed and is not yet decided (R157). -/
structure CodedUnit where
  line : CodedLine
  beginPart : Elapsed
  next : Stamp
  names : Nat
  passed : Option Passing
  lead : Nat
  divisor : Nat
  parity : Parity
  sent : Count
  skipped : Count
  deriving DecidableEq, Repr

/-! ### Management links, executor and access unit (chapter 10) -/

/-- A transaction in progress: the status byte sampled at its start, the bytes of the command frame in
reception, whether its frame has ended, and the bytes clocked out so far (R167, R169, R170). -/
structure Transaction where
  status : Byte
  received : List Byte
  ended : Bool
  out : List Byte
  deriving DecidableEq, Repr

/-- The link counters (R171). -/
structure LinkCounters where
  taken : Count
  empty : Count
  dropped : Count
  part : Count
  bad : Count
  delivered : Count
  deriving DecidableEq, Repr

/-- A management link (chapter 10, state table; reset R184). -/
structure LinkUnit where
  commands : List (List Byte)
  responses : List (List Byte)
  dropped : Bool
  transaction : Option Transaction
  delivery : Option (List Byte)
  escalated : Bool
  counters : LinkCounters
  deriving DecidableEq, Repr

/-- A command taken by the executor, its payload read by the layouts of R168. -/
inductive Command where
  | readEntry (sect index : Nat)
  | writeEntry (sect index : Nat) (value : List Byte)
  | readTime
  | stepTime (seconds nanos : Int)
  | switchSource (target : Nat)
  | discardFallback
  | armPlan (bank planId : Nat)
  | disarmPlan
  | clearPortFlags (ports : List Nat)
  | takeNotice
  | endService
  | peekFault
  | popFault
  | clearFaultOverflow
  | lockAccess
  | serviceReset
  | linkReset
  deriving DecidableEq, Repr

/-- A running command: its link, its tag, the command, and, for SERVICE RESET, the blocks that have
taken the reset (R173, R183). -/
structure Running where
  link : Link
  tag : Byte
  command : Command
  resetTaken : List ResetBlock
  deriving DecidableEq, Repr

/-- The command executor: IDLE (`none`) or RUNNING, last served, service reset count (chapter 10). -/
structure Executor where
  running : Option Running
  lastServed : Link
  resetCount : Count
  deriving DecidableEq, Repr

/-- A guard entry (R179). -/
structure Guard where
  inUse : Bool
  sect : Nat
  first : Nat
  last : Nat
  deriving DecidableEq, Repr

/-- One link's access table entry: bit n of a set stands for section n (R168, R175, R179). -/
structure Rights where
  read : BitVec 9
  write : BitVec 9
  deriving DecidableEq, Repr

/-- The access unit (chapter 10, state table; reset R184). -/
structure Access where
  rights : Vector Rights 3
  guards : Vector Guard 4
  lock : Bool
  strap : Level
  deriving DecidableEq, Repr

/-! ### Notice unit (chapter 11) -/

/-- The cycle-notice mode (11.3). -/
inductive CycleMode where
  | delay
  | complete
  | either
  | both
  deriving DecidableEq, Repr

/-- A fault queue entry: code, subject, detail (11.4). -/
structure FaultEntry where
  code : Nat
  subject : Nat
  detail : Nat
  deriving DecidableEq, Repr

/-- One link's notice and fault state (chapter 11, state table; reset R195). Bit i of `latch` and
`mask` stands for the class of priority i + 1, bit i of `admitMask` for the groups in order (R194).
`modeNow` and `delayNow` are the mode and d read at the cycle start (R190). -/
structure NoticeLink where
  latch : BitVec 6
  mask : BitVec 6
  nest : Bool
  stack : List NoticeClass
  mode : CycleMode
  delay : Nat
  modeNow : CycleMode
  delayNow : Nat
  done : Bool
  delayMet : Bool
  faults : List FaultEntry
  overflow : Bool
  admitMask : BitVec 4
  deriving DecidableEq, Repr

/-- A port's report in the completion record (R189). -/
inductive Report where
  | notServing
  | noneDue
  | marksDue
  | closed
  deriving DecidableEq, Repr

/-- The completion record: cycle number and a report, or none yet, of each port (R189). -/
structure CompletionRecord where
  cycle : Nat
  reports : Vector (Option Report) 6
  deriving DecidableEq, Repr

/-- A report a port hands to the notice unit, naming its cycle number (R189). -/
structure PortReport where
  cycle : Nat
  report : Report
  deriving DecidableEq, Repr

/-- The notice unit: the three links' state, the completion record, whether the complete condition has been
met in the current cycle (R190), the early reports in the order they were taken (R189). -/
structure NoticeUnit where
  links : Vector NoticeLink 3
  completion : Option CompletionRecord
  completeMet : Bool
  early : List (Port × PortReport)
  deriving DecidableEq, Repr

/-! ### Events in flight between blocks -/

/-- A step announcement: origin and offset (R11), and station time just after the step, from which an
output places its next time (R155, R159). -/
structure StepAnnouncement where
  origin : StepOrigin
  offset : Int
  after : StationTime
  deriving DecidableEq, Repr

/-- What the timebase hands to the cycle timer, in order: a second boundary with its seconds value
(R3), a crossing of k × 25 ms (R111), a step announcement (R112). `instant` is the reading at the
crossing, resolved within its tick (R3, R4). -/
inductive TimebaseEvent where
  | boundary (seconds : Nat) (instant : Stamp)
  | slot (k : Nat) (instant : Stamp)
  | step (ann : StepAnnouncement)
  deriving DecidableEq, Repr

/-- What the cycle timer hands to the uplink units and the notice unit (R110, R111). `resume` is the mark of
a resume start (R110). `instant` is the reading at the slot's start, at which a query departs (R52). -/
inductive CycleEvent where
  | start (cycle : Nat) (resume : Bool) (instant : Stamp)
  | slot (k cycle : Nat) (cut : Bool) (instant : Stamp)
  deriving DecidableEq, Repr

/-- What the plan store and the cycle timer hand to a port: a cycle start naming the ACTIVE bank and its
plan ID, or none (R121); a slot start (R111); the cut (R135). -/
inductive PortEvent where
  | start (cycle : Nat) (named : Option (BankName × Nat))
  | slot (k cycle : Nat) (cut : Bool)
  | cut
  deriving DecidableEq, Repr

/-- What an input or uplink unit hands to the selector, in order (R23). -/
inductive UnitEvent where
  | report (k : ReportKind)
  | phase (e : PhaseEvent)
  deriving DecidableEq, Repr

/-- An EXCURSION (`hard = false`) or EXCURSION_HARD report for a source (R95). -/
structure Excursion where
  source : Ext
  hard : Bool
  deriving DecidableEq, Repr

/-- The events one block has handed to another and the other has not yet taken. Each list is one
channel, oldest first. -/
structure Flight where
  rateWords : List Int
  stepRequests : List Int
  toCycleTimer : List TimebaseEvent
  stepsToInput : Vector (List StepAnnouncement) 2
  stepsToUplink : Vector (List StepAnnouncement) 2
  stepsToSelector : List StepAnnouncement
  stepsToSteering : List StepAnnouncement
  stepsToPulse : Vector (List StepAnnouncement) 4
  stepsToCoded : Vector (List StepAnnouncement) 2
  cyclesToUplink : Vector (List CycleEvent) 2
  cyclesToSelector : List Nat
  cyclesToSteering : List Nat
  toPort : Vector (List PortEvent) 6
  cyclesToNotice : List CycleEvent
  toSelector : Vector (List UnitEvent) 4
  excursions : List Excursion
  goodEvents : List PhaseEvent
  selections : List Source
  latches : List NoticeClass
  faults : List (FaultOrigin × FaultEntry)
  reports : Vector (List PortReport) 6
  deriving DecidableEq, Repr

/-! ### The whole machine -/

/-- Everything the manual gives the part, the events in flight, and the commands that wait, first in,
first out. -/
structure State where
  timebase : Timebase
  inputs : Vector InputUnit 2
  uplinks : Vector UplinkUnit 2
  selector : Selector
  steering : Steering
  cycleTimer : CycleTimer
  plans : PlanStore
  ports : Vector PortUnit 6
  pulses : Vector PulseUnit 4
  coded : Vector CodedUnit 2
  links : Vector LinkUnit 3
  executor : Executor
  access : Access
  notice : NoticeUnit
  flight : Flight
  pending : List Instr
  deriving DecidableEq, Repr

/-- No rule of the manual stops the part, and the model has no fault: no constructor. -/
inductive Fault where
  deriving DecidableEq, Repr

/-- Why the model has no meaning for a command. -/
inductive Refusal where
  /-- An arm of `exec` without a meaning; safe. No arm raises it now. -/
  | notModelled (mnemonic : String)
  deriving DecidableEq, Repr

/-! ### Power-on values -/

namespace PowerOn

/-- Timebase at power-on reset (R17). -/
def timebase : Timebase :=
  ⟨⟨0, 0, 0⟩, 0, 0, 1717986, none, 0⟩

/-- Input unit at power-on reset (R43). -/
def input : InputUnit :=
  ⟨.idle, none, 0, .nothing, .idle, .waitBreak, none, .idle, 0,
   ⟨100000, 406, .none, false, .follows, 800⟩, ⟨0, 0, 0, 0, 0, 0, 0, 0, 0, 0⟩⟩

/-- Uplink unit at power-on reset with its link as reported and its requester address (R61). -/
def uplink (link : LinkLevel) (requester : Nat) : UplinkUnit :=
  ⟨false, link, none, none, none, 0, [], false, false, false, none, 0,
   ⟨0, 0, requester, 20, 1, 1600000⟩, ⟨0, 0, 0, 0, 0, 0, 0, 0, 0, 0, 0, 0, 0, 0, 0, 0⟩, []⟩

/-- External source entry at power-on reset (R87). -/
def sourceEntry : SourceEntry :=
  ⟨.disabled, 0, 6, 0, 0, none, 0, 0, 0, 0, none, none, 0, 0, 0, 0⟩

/-- Selector at power-on reset (R87, defaults of 4.1). -/
def selector : Selector :=
  ⟨Vector.replicate 4 sourceEntry, 4, [], ⟨10, 30, 3, 16000, 60, true, false⟩⟩

/-- Steering unit at power-on reset (R109, defaults of 5.2). -/
def steering : Steering :=
  ⟨.free, 0, 0, 0, [], 0, none, none, none, none, 0, ⟨true, true, true⟩, ⟨true, false, false⟩,
   ⟨16000000, 1600, 8, 16000, 3, 1, 3, 3, 7, 3600, 86400⟩, ⟨0, 0, 0, 0, 0, 0, 0, 0, 0⟩⟩

/-- Cycle timer at power-on reset (R127). -/
def cycleTimer : CycleTimer :=
  ⟨none, none, false, false, 10⟩

/-- Plan bank at power-on reset (R127). -/
def bank : Bank :=
  ⟨0, .inactive, Vector.replicate 6 (List.replicate 40 .idle)⟩

/-- Port at power-on reset with its link as reported (R151). -/
def port (link : LinkLevel) : PortUnit :=
  ⟨.off, link, none, none, false, false, 0, 0, [], 0, [], false, ⟨40, 0, 8, 0, 0⟩,
   ⟨0, 0, 0, 0, 0, 0, 0, 0, 0, 0, 0, 0, 0⟩, []⟩

/-- Pulse output at power-on reset: the next rise is placed from 0.0.0 with offset 0 (R152, R162). -/
def pulse : PulseUnit :=
  ⟨false, 0, 0, ⟨1, 0, 0⟩, none, 0, 100000, 8, 0, 0, 0⟩

/-- Coded-time output at power-on reset: the next due time is placed from 0.0.0 (R157, R162). -/
def codedUnit : CodedUnit :=
  ⟨.idle, 0, ⟨1, 0, 0⟩, 1, none, 0, 406, .none, 0, 0⟩

/-- Link at power-on reset (R184). -/
def link : LinkUnit :=
  ⟨[], [], false, none, none, false, ⟨0, 0, 0, 0, 0, 0⟩⟩

/-- Access unit at power-on reset with the strap's level (R175, R184). -/
def access (strap : Level) : Access :=
  ⟨#v[⟨0x1FF#9, 0x1FE#9⟩, ⟨0x1FF#9, 0#9⟩, ⟨0x1FF#9, 0#9⟩], Vector.replicate 4 ⟨false, 0, 0, 0⟩, false,
   strap⟩

/-- A link's notice state at power-on reset (R195). -/
def noticeLink : NoticeLink :=
  ⟨0#6, 0#6, true, [], .delay, 0, .delay, 0, false, false, [], false, 15#4⟩

/-- Nothing in flight. -/
def flight : Flight where
  rateWords := []
  stepRequests := []
  toCycleTimer := []
  stepsToInput := Vector.replicate 2 []
  stepsToUplink := Vector.replicate 2 []
  stepsToSelector := []
  stepsToSteering := []
  stepsToPulse := Vector.replicate 4 []
  stepsToCoded := Vector.replicate 2 []
  cyclesToUplink := Vector.replicate 2 []
  cyclesToSelector := []
  cyclesToSteering := []
  toPort := Vector.replicate 6 []
  cyclesToNotice := []
  toSelector := Vector.replicate 4 []
  excursions := []
  goodEvents := []
  selections := []
  latches := []
  faults := []
  reports := Vector.replicate 6 []

end PowerOn

/-- The part after power-on reset with the strap's level and the Ethernet links' states as given, and
the queue of waiting commands `pending` (R17, R43, R61, R87, R109, R127, R151, R162, R184, R195). The
complete condition is not met and the early reports held beside the completion record are empty (DESIGN
CHOICE: R195's table does not name them; log entry 27). -/
def State.powerOn (strap : Level) (uplinks : Vector LinkLevel 2) (ports : Vector LinkLevel 6)
    (pending : List Instr) : State where
  timebase := PowerOn.timebase
  inputs := Vector.replicate 2 PowerOn.input
  uplinks := #v[PowerOn.uplink uplinks[0] 1, PowerOn.uplink uplinks[1] 2]
  selector := PowerOn.selector
  steering := PowerOn.steering
  cycleTimer := PowerOn.cycleTimer
  plans := ⟨PowerOn.bank, PowerOn.bank, none⟩
  ports := ports.map PowerOn.port
  pulses := Vector.replicate 4 PowerOn.pulse
  coded := Vector.replicate 2 PowerOn.codedUnit
  links := Vector.replicate 3 PowerOn.link
  executor := ⟨none, 2, 0⟩
  access := PowerOn.access strap
  notice := ⟨Vector.replicate 3 PowerOn.noticeLink, none, false, []⟩
  flight := PowerOn.flight
  pending := pending

/-- The part right after power-on reset, with the override strap low, every Ethernet link down and no
command waiting (the two levels: DESIGN CHOICE, they are the outside world's; log entry 1). -/
def State.reset : State :=
  State.powerOn .low (Vector.replicate 2 .down) (Vector.replicate 6 .down) []

end Sys2Proof.Machine
end

