-- ==== Sys2Proof/Machine/Ops.lean ====
section
/-! DEFINITION. The named operations: station-time arithmetic, rounding, the accessors that update one
block's state, and the handing of an event from one block to another. -/

namespace Sys2Proof.Machine

open Sys2Proof.Config

/-! ### Rounding and narrowing (R6) -/

/-- `v` clamped to `lo` to `hi` (R6). -/
def clamp (lo hi v : Int) : Int :=
  if v < lo then lo else if hi < v then hi else v

/-- `v` saturated to ±`m` (R6). -/
def saturate (m v : Int) : Int :=
  clamp (-m) m v

/-- A quotient rounded toward zero; a shift by p is `towardZero v (2 ^ p)` (R6). -/
def towardZero (num den : Int) : Int :=
  num.tdiv den

/-- A quotient rounded half away from zero, for a positive divisor (R6). -/
def halfAway (num : Int) (den : Nat) : Int :=
  let m : Int := ((2 * num.natAbs + den) / (2 * den) : Nat)
  if num < 0 then -m else m

/-! ### Station time and stamps (R1, R4, R5) -/

/-- Units of 2^-32 ns before station time repeats. -/
def timeModulus : Nat :=
  secondsModulus * (nanosPerSecond * unitsPerNano)

/-- fu before a stamp repeats. -/
def fuModulus : Nat :=
  secondsModulus * fuPerSecond

/-- Station time as a count of 2^-32 ns. -/
def StationTime.units (t : StationTime) : Nat :=
  (t.sec * nanosPerSecond + t.ns) * unitsPerNano + t.frac

/-- The normalized station time of a count of 2^-32 ns, seconds modulo 2^48 (R1). -/
def StationTime.ofUnits (z : Int) : StationTime :=
  let n := (z % (timeModulus : Int)).toNat
  ⟨n / (nanosPerSecond * unitsPerNano), n / unitsPerNano % nanosPerSecond, n % unitsPerNano⟩

/-- Whether the three parts lie in their ranges (R1). -/
def StationTime.normal (t : StationTime) : Bool :=
  decide (t.sec < secondsModulus) && decide (t.ns < nanosPerSecond) && decide (t.frac < unitsPerNano)

/-- The stamp of a station time, truncated toward lower time (R4). -/
def StationTime.stamp (t : StationTime) : Stamp :=
  ⟨t.sec, t.ns, t.frac / unitsPerFu⟩

/-- A stamp as a count of fu (R4). -/
def Stamp.fuCount (a : Stamp) : Nat :=
  (a.sec * nanosPerSecond + a.ns) * fuPerNano + a.fu

/-- The normalized stamp of a count of fu, seconds modulo 2^48. -/
def Stamp.ofFu (z : Int) : Stamp :=
  let n := (z % (fuModulus : Int)).toNat
  ⟨n / fuPerSecond, n / fuPerNano % nanosPerSecond, n % fuPerNano⟩

/-- Whether the three parts of a stamp lie in their ranges (R4). -/
def Stamp.normal (a : Stamp) : Bool :=
  decide (a.sec < secondsModulus) && decide (a.ns < nanosPerSecond) && decide (a.fu < fuPerNano)

/-- A stamp moved by a signed number of fu (R5). -/
def Stamp.plus (a : Stamp) (d : Int) : Stamp :=
  Stamp.ofFu (a.fuCount + d)

/-- A difference of seconds modulo 2^48, in −2^47 to 2^47−1 (R5). -/
def secondsDiff (a b : Nat) : Int :=
  let m := ((a : Int) - b) % (secondsModulus : Int)
  if 2 * m < secondsModulus then m else m - secondsModulus

/-- The exact difference a − b of two stamps, in fu (R5). -/
def Stamp.diff (a b : Stamp) : Int :=
  secondsDiff a.sec b.sec * fuPerSecond + ((a.ns : Int) - b.ns) * fuPerNano + ((a.fu : Int) - b.fu)

/-- A reading of station time `x` fu into the tick (R4). -/
def StationTime.reading (t : StationTime) (x : Elapsed) : Stamp :=
  (StationTime.ofUnits ((t.units + x.val * unitsPerFu : Nat) : Int)).stamp

/-- Units of 2^-32 ns from a station time of `start` units forward to a target, modulo the wrap of
seconds. -/
def unitsTo (start : Nat) (target : Stamp) : Nat :=
  (((target.fuCount * unitsPerFu : Nat) - (start : Int)) % (timeModulus : Int)).toNat

/-- The position within the tick, in whole fu 0 to 127, of an instant that lies `past` units before the
tick's end: worked back at the nominal rate and rounded toward zero (R3, R152). An instant that lies
further back than a tick at the nominal rate is placed at the tick's start, and one at the tick's very end at
127 (log entry 14). -/
def partOfTick (past : Nat) : Elapsed :=
  ⟨min 127 ((tickUnits - past) / unitsPerFu), by omega⟩

/-- The units of 2^-32 ns of a station time moved back by a step's offset (R10). -/
def StepAnnouncement.before (a : StepAnnouncement) : Int :=
  a.after.units - a.offset * unitsPerFu

/-- How far the advance has carried station time since a step left it at `start` units, up to the next
step announcement on its way, or to the present (R152, R155). -/
def advanceSince (start : Nat) (later : List StepAnnouncement) (now : StationTime) : Nat :=
  let stop : Int :=
    match later with
    | b :: _ => b.before
    | [] => now.units
  ((stop - start) % (timeModulus : Int)).toNat

/-- Whether an advance of `adv` units from `start` carries station time across `next`, which it reaches
from strictly below; if so its place in its tick, the units since, and the line at that place (R152,
R157). -/
def passedBy (start adv : Nat) (next : Stamp) (busy : Elapsed → Bool) : Option Passing :=
  let d := unitsTo start next
  if 0 < d ∧ d ≤ adv then
    let part := partOfTick (adv - d)
    some ⟨part, adv - d, busy part⟩
  else none

/-- What an output holds as passed after a tick: a passed time not yet decided ages by the advance, else
the next time is tested against it. While a step announcement waits for the output, neither happens:
the time that the step places is tested against the advance since the step (R152, R155; log
entry 12). -/
def passedOver (passed : Option Passing) (stepWaits : Bool) (start adv : Nat) (next : Stamp)
    (busy : Elapsed → Bool) : Option Passing :=
  if stepWaits then passed
  else
    match passed with
    | some p => some { p with since := p.since + adv }
    | none => passedBy start adv next busy

/-- The first station time s seconds + `offset` ns, for a whole s, strictly after `start` units, with s
modulo 2^48 (R152, R157). -/
def placeAfter (start : Nat) (offset : Int) : Nat × Stamp :=
  let s := ((start : Int) - offset * unitsPerNano) / ((nanosPerSecond * unitsPerNano : Nat) : Int) + 1
  ((s % (secondsModulus : Int)).toNat, Stamp.ofFu ((s * nanosPerSecond + offset) * fuPerNano))

/-- The low 24 bits of a number (R72, R124). -/
def low24 (n : Nat) : Nat :=
  n % 16777216

/-! ### Updating one block -/

/-- IN1's or IN2's state changed. -/
def State.modInput (s : State) (u : InUnit) (f : InputUnit → InputUnit) : State :=
  { s with inputs := s.inputs.set u (f s.inputs[u]) }

/-- UP1's or UP2's state changed. -/
def State.modUplink (s : State) (u : UpUnit) (f : UplinkUnit → UplinkUnit) : State :=
  { s with uplinks := s.uplinks.set u (f s.uplinks[u]) }

/-- An external source entry changed. -/
def State.modEntry (s : State) (e : Ext) (f : SourceEntry → SourceEntry) : State :=
  { s with selector := { s.selector with entries := s.selector.entries.set e (f s.selector.entries[e]) } }

/-- The steering unit's state changed. -/
def State.modSteering (s : State) (f : Steering → Steering) : State :=
  { s with steering := f s.steering }

/-- The selector's state changed. -/
def State.modSelector (s : State) (f : Selector → Selector) : State :=
  { s with selector := f s.selector }

/-- A distribution port's state changed. -/
def State.modPort (s : State) (p : Port) (f : PortUnit → PortUnit) : State :=
  { s with ports := s.ports.set p (f s.ports[p]) }

/-- A pulse output's state changed. -/
def State.modPulse (s : State) (k : PulseOut) (f : PulseUnit → PulseUnit) : State :=
  { s with pulses := s.pulses.set k (f s.pulses[k]) }

/-- A coded-time output's state changed. -/
def State.modCoded (s : State) (m : CodedOut) (f : CodedUnit → CodedUnit) : State :=
  { s with coded := s.coded.set m (f s.coded[m]) }

/-- A management link's state changed. -/
def State.modLink (s : State) (l : Link) (f : LinkUnit → LinkUnit) : State :=
  { s with links := s.links.set l (f s.links[l]) }

/-- A link's notice state changed. -/
def State.modNotice (s : State) (l : Link) (f : NoticeLink → NoticeLink) : State :=
  { s with notice := { s.notice with links := s.notice.links.set l (f s.notice.links[l]) } }

/-- The events in flight changed. -/
def State.modFlight (s : State) (f : Flight → Flight) : State :=
  { s with flight := f s.flight }

/-- An input unit's counters changed. -/
def InputUnit.count (i : InputUnit) (f : InputCounters → InputCounters) : InputUnit :=
  { i with counters := f i.counters }

/-- An uplink unit's counters changed. -/
def UplinkUnit.count (i : UplinkUnit) (f : UplinkCounters → UplinkCounters) : UplinkUnit :=
  { i with counters := f i.counters }

/-- A port's counters changed. -/
def PortUnit.count (i : PortUnit) (f : PortCounters → PortCounters) : PortUnit :=
  { i with counters := f i.counters }

/-- The steering counters changed. -/
def Steering.count (i : Steering) (f : SteeringCounters → SteeringCounters) : Steering :=
  { i with counters := f i.counters }

/-- A link's counters changed. -/
def LinkUnit.count (i : LinkUnit) (f : LinkCounters → LinkCounters) : LinkUnit :=
  { i with counters := f i.counters }

/-- The bank of a name (R114). -/
def PlanStore.bank (p : PlanStore) : BankName → Bank
  | .a => p.a
  | .b => p.b

/-- A bank changed. -/
def PlanStore.modBank (p : PlanStore) (name : BankName) (f : Bank → Bank) : PlanStore :=
  match name with
  | .a => { p with a := f p.a }
  | .b => { p with b := f p.b }

/-- The other bank. -/
def BankName.other : BankName → BankName
  | .a => .b
  | .b => .a

/-! ### Source indices -/

/-- The source index of an input unit (R15). -/
def inSource (u : InUnit) : Ext := ⟨u.val, by omega⟩

/-- The source index of an uplink unit (R15). -/
def upSource (u : UpUnit) : Ext := ⟨u.val + 2, by omega⟩

/-- The input unit of a source, when it is IN1 or IN2. -/
def inputOf (e : Ext) : Option InUnit :=
  if h : e.val < 2 then some ⟨e.val, h⟩ else none

/-- The uplink unit of a source, when it is UP1 or UP2. -/
def uplinkOf (e : Ext) : Option UpUnit :=
  if h : 2 ≤ e.val then some ⟨e.val - 2, by omega⟩ else none

/-- An external source as a source index. -/
def toSource (e : Ext) : Source := ⟨e.val, by omega⟩

/-- The external source of a source index; none for LOCAL. -/
def extOf (i : Source) : Option Ext :=
  if h : i.val < 4 then some ⟨i.val, h⟩ else none

/-- LOCAL, source index 4. -/
def localSource : Source := 4

/-- The four external sources in index order. -/
def allExt : List Ext := [0, 1, 2, 3]

/-! ### Reading station time -/

/-- A reading of the part's station time (R4). -/
def State.reading (s : State) (x : Elapsed) : Stamp :=
  s.timebase.time.reading x

/-- The low 24 bits of the current cycle number, 0 before the first cycle start (11.4). -/
def State.cycleDetail (s : State) : Nat :=
  low24 (s.cycleTimer.cycle.getD 0)

/-! ### Handing events on -/

/-- A fault logged by a block, on its way to the notice unit (R191). -/
def State.logFault (s : State) (b : FaultOrigin) (code subject detail : Nat) : State :=
  s.modFlight fun f => { f with faults := f.faults ++ [(b, ⟨code, subject, detail⟩)] }

/-- An event that latches a class in every link's latch, on its way to the notice unit (R185). -/
def State.latch (s : State) (c : NoticeClass) : State :=
  s.modFlight fun f => { f with latches := f.latches ++ [c] }

/-- A report or phase event of a unit, on its way to the selector (R15, R23). -/
def State.toSelector (s : State) (e : Ext) (v : UnitEvent) : State :=
  s.modFlight fun f => { f with toSelector := f.toSelector.set e (f.toSelector[e] ++ [v]) }

/-- A rate word handed to the timebase (R7, R93, R101). -/
def State.handRate (s : State) (w : Int) : State :=
  s.modFlight fun f => { f with rateWords := f.rateWords ++ [w] }

/-- A port's report, on its way to the notice unit (R189). -/
def State.portReport (s : State) (p : Port) (r : PortReport) : State :=
  s.modFlight fun f => { f with reports := f.reports.set p (f.reports[p] ++ [r]) }

/-- One step announcement, issued to each of its takers (R11). -/
def State.announce (s : State) (a : StepAnnouncement) : State :=
  (s.modFlight fun f =>
    { f with
      toCycleTimer := f.toCycleTimer ++ [.step a]
      stepsToInput := f.stepsToInput.map (· ++ [a])
      stepsToUplink := f.stepsToUplink.map (· ++ [a])
      stepsToSelector := f.stepsToSelector ++ [a]
      stepsToSteering := f.stepsToSteering ++ [a]
      stepsToPulse := f.stepsToPulse.map (· ++ [a])
      stepsToCoded := f.stepsToCoded.map (· ++ [a]) }).latch .timeStepped

/-! ### Lists kept as queues -/

/-- A list without its first element that equals `a`. -/
def dropFirst {α : Type} [DecidableEq α] (a : α) : List α → List α
  | [] => []
  | b :: bs => if b = a then bs else b :: dropFirst a bs

/-- The first element of `l` that passes `p`, and the list without it. -/
def takeFirst {α : Type} (p : α → Bool) : List α → Option (α × List α)
  | [] => none
  | b :: bs =>
    if p b then some (b, bs)
    else (takeFirst p bs).map fun r => (r.1, b :: r.2)

/-- Append, dropping the oldest when the list already holds `depth` items (R53, R96). -/
def pushBounded {α : Type} (depth : Nat) (l : List α) (a : α) : List α :=
  (if l.length < depth then l else l.drop 1) ++ [a]

end Sys2Proof.Machine
end

