-- ==== Sys2Proof/Machine/Flags.lean ====
section
/-! DEFINITION. The values the part derives whenever they are read: effective classes and
compensation, the station status, deliverability, the attention line, the status byte. -/

namespace Sys2Proof.Machine

open Sys2Proof.Config

/-! ### Derived values of the sources (R63) -/

/-- The mean of an uplink's delay window, absent when it is empty (chapter 3, R53). -/
def UplinkUnit.mean (i : UplinkUnit) : Option Int :=
  if i.window.isEmpty then none else some (towardZero i.window.sum i.window.length)

/-- The class a source advertises: its descriptor's, or its uplink's last upstream class (R63). -/
def State.advertisedClass (s : State) (e : Ext) : Option Nat :=
  match uplinkOf e with
  | some u => s.uplinks[u].lastClass
  | none => s.selector.entries[e].descriptor.bind (·.cls)

/-- The effective class of an external source (R63). -/
def State.effectiveClass (s : State) (e : Ext) : Nat :=
  (s.advertisedClass e).getD s.selector.entries[e].cls

/-- The effective class of any source; LOCAL's is 7 (R62). -/
def State.classOf (s : State) (i : Source) : Nat :=
  match extOf i with
  | some e => s.effectiveClass e
  | none => 7

/-- The effective compensation of an external source, absent for an uplink that has not been ranged
(R63). -/
def State.compensation (s : State) (e : Ext) : Option Int :=
  let entry := s.selector.entries[e]
  match uplinkOf e with
  | some u => s.uplinks[u].mean.map (· + entry.deviceDelay)
  | none => some (entry.cableDelay + ((entry.descriptor.bind (·.deviceDelay)).getD entry.deviceDelay))

/-- The last scale offset of an external source's unit (R105). -/
def State.unitScale (s : State) (e : Ext) : Int :=
  match inputOf e, uplinkOf e with
  | some u, _ => s.inputs[u].lastScale
  | none, some u => s.uplinks[u].lastScale
  | none, none => 0

/-! ### The station status (R103 to R105) -/

/-- The holdover class, absent while there is no holdover origin (R103). -/
def State.holdoverClass (s : State) : Option Nat :=
  s.steering.origin.map fun o => min 7 (o.cls + 1 + s.steering.age / s.steering.settings.holdoverStep)

/-- The class of the source being steered by. Between a selection, or a reset of the selector, and the
steering unit's taking of it, this is still the source left (DESIGN CHOICE: R104 says the selected
source's class, R88 that the change is at once; log entry 40). -/
def State.steeredSourceClass (s : State) : Nat :=
  match s.steering.steered with
  | some e => s.effectiveClass e
  | none => 7

/-- The effective output class (R104). -/
def State.outputClass (s : State) : Nat :=
  match s.steering.state with
  | .locked => s.steeredSourceClass
  | .acquire => max 6 s.steeredSourceClass
  | .holdover => s.holdoverClass.getD 7
  | .free => 7

/-- The kind of the selected source: IN 0, UP 1, LOCAL 2 (R105). It follows the selection itself, before
the steering unit has taken it (DESIGN CHOICE; log entry 40). -/
def State.selectedKind (s : State) : Nat :=
  if s.selector.selected.val < 2 then 0 else if s.selector.selected.val < 4 then 1 else 2

/-- The holdover age presented: 0 outside HOLDOVER (R105). -/
def State.presentedAge (s : State) : Nat :=
  if s.steering.state = .holdover then s.steering.age else 0

/-- The acquisition squelch (R105). -/
def State.acquisitionSquelch (s : State) : Bool :=
  decide (s.steering.state = .acquire) && s.steering.options.squelch

/-- A steering state's number in frames and entries (R166). -/
def SteeringState.code : SteeringState → Nat
  | .free => 0
  | .acquire => 1
  | .locked => 2
  | .holdover => 3

/-! ### Notices (R185, R186) -/

/-- A class's bit in a set of classes (R194). -/
def classBit : NoticeClass → Fin 6
  | .steeringState => 0
  | .sourceSelected => 1
  | .timeStepped => 2
  | .faultLogged => 3
  | .planActivated => 4
  | .cycle => 5

/-- A class's number in a response (R187). -/
def classCode (c : NoticeClass) : Nat :=
  (classBit c).val + 1

/-- The six classes, highest priority first. -/
def allClasses : List NoticeClass :=
  [.steeringState, .sourceSelected, .timeStepped, .faultLogged, .planActivated, .cycle]

/-- Whether a set of classes holds a class. -/
def holds (m : BitVec 6) (c : NoticeClass) : Bool :=
  m.getLsbD (classBit c).val

/-- A set of classes with a class added. -/
def insertClass (m : BitVec 6) (c : NoticeClass) : BitVec 6 :=
  m ||| (1#6 <<< (classBit c).val)

/-- A set of classes with a class taken out. -/
def removeClass (m : BitVec 6) (c : NoticeClass) : BitVec 6 :=
  m &&& ~~~(1#6 <<< (classBit c).val)

/-- Whether the in-service stack lets a class through (R186). -/
def NoticeLink.admits (n : NoticeLink) (c : NoticeClass) : Bool :=
  match n.stack with
  | [] => true
  | t :: _ => n.nest && decide ((classBit c).val < (classBit t).val)

/-- Whether a class is deliverable on a link (R186). -/
def NoticeLink.deliverable (n : NoticeLink) (c : NoticeClass) : Bool :=
  holds n.latch c && !holds n.mask c && n.admits c

/-- The highest-priority deliverable class (R187). -/
def NoticeLink.best (n : NoticeLink) : Option NoticeClass :=
  allClasses.find? n.deliverable

/-- The attention line of a link (R186). -/
def State.attention (s : State) (l : Link) : Bool :=
  !s.links[l].responses.isEmpty || (s.notice.links[l].best).isSome

/-- The status byte a link samples when its select line is asserted (R167, R169). -/
def State.statusByte (s : State) (l : Link) : Byte :=
  let k := s.links[l]
  (if queueDepth ≤ k.commands.length then 1#8 else 0#8) |||
  (if k.responses.isEmpty then 0#8 else 2#8) |||
  (if s.attention l then 4#8 else 0#8) |||
  (if k.dropped then 8#8 else 0#8)

/-- The escalated flag after the command queue's depth has changed (R172). -/
def LinkUnit.judge (k : LinkUnit) : LinkUnit :=
  { k with escalated :=
      if queueDepth ≤ k.commands.length then true
      else if k.commands.length ≤ 2 then false else k.escalated }

/-- A link is eligible for a grant (R172). -/
def LinkUnit.eligible (k : LinkUnit) : Bool :=
  !k.commands.isEmpty && decide (k.responses.length < queueDepth)

/-! ### Rights and guards (R175, R176) -/

/-- A link holds the read right to a section (R175). -/
def Access.canRead (a : Access) (l : Link) (sect : Nat) : Bool :=
  decide (sect = 0) || decide (a.strap = .high) || a.rights[l].read.getLsbD sect

/-- A link holds the write right to a section (R175). -/
def Access.canWrite (a : Access) (l : Link) (sect : Nat) : Bool :=
  decide (sect ≠ 0) && (decide (a.strap = .high) || a.rights[l].write.getLsbD sect)

/-- A guard covers an index of a section (R176). -/
def Guard.covers (g : Guard) (sect index : Nat) : Bool :=
  g.inUse && decide (g.sect = sect) && decide (g.first ≤ index) && decide (index ≤ g.last)

/-- A write of an index of a section falls inside a guard (R176). -/
def Access.guarded (a : Access) (sect index : Nat) : Bool :=
  a.guards.toList.any fun g => g.covers sect index

end Sys2Proof.Machine
end

