-- ==== Sys2Proof/Machine/Operands.lean ====
section
/-! DEFINITION. The byte formats of chapter 9: fields, serial sentences, exchange frames, management
frames and the commands they carry. -/

namespace Sys2Proof.Machine

open Sys2Proof.Config

/-! ### Fields (R163) -/

/-- A byte from a number, modulo 256. -/
def byte (n : Nat) : Byte :=
  BitVec.ofNat 8 n

/-- The low `n` bytes of a number, most significant first (R163). -/
def beBytes : Nat → Nat → List Byte
  | 0, _ => []
  | n + 1, v => byte (v / 256 ^ n) :: beBytes n v

/-- The number that bytes carry, most significant first (R163). -/
def ofBytes (bs : List Byte) : Nat :=
  bs.foldl (fun acc b => acc * 256 + b.toNat) 0

/-- The low `n` bytes of an integer in two's complement, most significant first (R163). -/
def beInt (n : Nat) (v : Int) : List Byte :=
  beBytes n (v % ((256 ^ n : Nat) : Int)).toNat

/-- The integer that bytes carry in two's complement (R163). -/
def intOfBytes (bs : List Byte) : Int :=
  let m := ofBytes bs
  if 2 * m < 256 ^ bs.length then m else (m : Int) - (256 ^ bs.length : Nat)

/-- Whether `n` bytes hold the whole range `lo` to `hi`: signed when it holds negative values (R163). -/
def fitsBytes (lo hi : Int) (n : Nat) : Bool :=
  let full : Int := (256 ^ n : Nat)
  if lo < 0 then decide (-full ≤ 2 * lo) && decide (2 * hi < full) else decide (hi < full)

/-- The bytes a field of range `lo` to `hi` takes: the smallest of 1, 2, 4, 6 or 8 (R163). -/
def fieldWidth (lo hi : Int) : Nat :=
  ([1, 2, 4, 6, 8].find? (fitsBytes lo hi)).getD 8

/-- A field of range `lo` to `hi` encoded (R163). -/
def encField (lo hi v : Int) : List Byte :=
  beInt (fieldWidth lo hi) v

/-- A field of range `lo` to `hi` read from bytes; none when the byte count is another (R168). -/
def decField (lo hi : Int) (bs : List Byte) : Option Int :=
  if bs.length = fieldWidth lo hi then some (if lo < 0 then intOfBytes bs else (ofBytes bs : Int))
  else none

/-- A signed field whose range is not stated: eight bytes (R163). A value that does not fit is read as
eight free bytes (log entry 8). -/
def encWide (v : Int) : List Byte :=
  if -9223372036854775808 ≤ v ∧ v < 9223372036854775808 then beInt 8 v
  else beBytes 8 (wideField v).toNat

/-- A flag, or a two-valued enumeration, as one byte (R163). -/
def encBool (b : Bool) : List Byte :=
  [if b then 1#8 else 0#8]

/-- A counter (R163). -/
def encCount (c : Count) : List Byte :=
  beBytes 4 c.toNat

/-- A stamp: seconds, nanoseconds, fu remainder (R168). -/
def encStamp (a : Stamp) : List Byte :=
  beBytes 6 a.sec ++ beBytes 4 a.ns ++ beBytes 1 a.fu

/-- An optional part: a presence byte, then the part when present (R168). -/
def encOption {α : Type} (f : α → List Byte) : Option α → List Byte
  | none => [0#8]
  | some a => 1#8 :: f a

/-- A list: a count byte, then the items (R168). -/
def encList {α : Type} (f : α → List Byte) (l : List α) : List Byte :=
  byte l.length :: l.flatMap f

/-- `n` bytes from offset `at` of a body. -/
def slice (bs : List Byte) (off n : Nat) : List Byte :=
  (bs.drop off).take n

/-- The sum of bytes modulo 256 (R164, R167). -/
def byteSum (bs : List Byte) : Byte :=
  bs.foldl (· + ·) 0#8

/-! ### Serial sentences (R164, R165) -/

/-- The length a received kind requires; a descriptor's follows its own flags byte (R164, R165). -/
def requiredLength (kind : Byte) (body : List Byte) : Option Nat :=
  if kind = 0x31#8 then some 8
  else if kind = 0x44#8 then
    (body[3]?).map fun fl => 12 + (if fl.getLsbD 0 then 4 else 0) + (if fl.getLsbD 1 then 1 else 0)
  else none

/-- The format checks of a complete sentence: check sum, kind, length, version (R29, R164). -/
def sentenceOk (kind : Byte) (len : Nat) (body : List Byte) (check : Byte) : Bool :=
  decide (byteSum (kind :: byte len :: (body ++ [check])) = 0#8) &&
  (decide (kind = 0x31#8) || decide (kind = 0x44#8)) &&
  decide (requiredLength kind body = some len) &&
  (decide (kind = 0x31#8) || decide (body[2]? = some 1#8))

/-- The fields of a time-of-day body (R164). -/
def readTimeOfDay (body : List Byte) : TimeOfDay :=
  let status := (body[7]?).getD 0#8
  ⟨ofBytes (slice body 0 6), intOfBytes (slice body 6 1), status.getLsbD 7, status.toNat % 8⟩

/-- The descriptor of a body with a right signature and its fields in range; none otherwise (R36,
R165). -/
def readDescriptor (body : List Byte) : Option Descriptor :=
  let fl := (body[3]?).getD 0#8
  let rest := body.drop 4
  let delay := if fl.getLsbD 0 then some (intOfBytes (rest.take 4)) else none
  let rest1 := if fl.getLsbD 0 then rest.drop 4 else rest
  let cls := if fl.getLsbD 1 then some (ofBytes (rest1.take 1)) else none
  let rest2 := if fl.getLsbD 1 then rest1.drop 1 else rest1
  if slice body 0 2 = [0xD5#8, 0x2B#8] ∧ (∀ d ∈ delay, -16000000 ≤ d ∧ d ≤ 16000000) ∧ (∀ c ∈ cls, c ≤ 7)
  then some ⟨delay, cls, rest2.take 8⟩ else none

/-- The characters of a descriptor request: lead, kind, length, check (R35, R164). -/
def requestBytes : List Byte :=
  [0xF0#8, 0x3F#8, 0x00#8, 0xC1#8]

/-- The twelve characters of a time-of-day sentence (R158, R164). -/
def todSentence (t : TimeOfDay) : List Byte :=
  let status := byte ((if t.locked then 128 else 0) + t.cls)
  let inner := 0x31#8 :: 8#8 :: (beBytes 6 t.seconds ++ beInt 1 t.scale ++ [status])
  0xF0#8 :: (inner ++ [0#8 - byteSum inner])

/-- The bit times of one character: start, eight data bits, parity when used, stop (R24, R158). -/
def characterBits : Parity → Nat
  | .none => 10
  | _ => 11

/-- The oscillator ticks of one bit time (R24, R158). -/
def bitTicks (divisor : Nat) : Nat :=
  16 * (divisor + 1)

/-- The ticks of a break of 13 bit times, one bit time high and `n` characters (R35, R158). -/
def transmissionTicks (divisor : Nat) (parity : Parity) (n : Nat) : Nat :=
  (14 + n * characterBits parity) * bitTicks divisor

/-- The number of ones in a character's data bits. -/
def onesIn (b : Byte) : Nat :=
  ((List.range 8).filter fun i => b.getLsbD i).length

/-- The parity bit sent with a character, when one is used (R24, R158). -/
def parityLevels (p : Parity) (c : Byte) : List Bool :=
  match p with
  | .none => []
  | .even => [decide (onesIn c % 2 = 1)]
  | .odd => [decide (onesIn c % 2 = 0)]

/-- The levels of one character on the wire, a bit time each, true for high: start bit, eight data bits
least significant first, parity bit when used, stop bit (R24, R158). -/
def characterLevels (p : Parity) (c : Byte) : List Bool :=
  false :: ((List.range 8).map (fun i => c.getLsbD i) ++ (parityLevels p c ++ [true]))

/-- The levels of a whole transmission: a break of 13 bit times, one bit time high, the characters (R35,
R158). -/
def wireLevels (p : Parity) (chars : List Byte) : List Bool :=
  List.replicate 13 false ++ (true :: chars.flatMap (characterLevels p))

/-- The level of a transmit wire with `ticksLeft` ticks of the transmission left; the wire idles high
(R35, R158). -/
def wireLevel (divisor : Nat) (p : Parity) (chars : List Byte) (ticksLeft : Nat) : Bool :=
  ((wireLevels p chars)[(transmissionTicks divisor p chars.length - ticksLeft) / bitTicks divisor]?).getD true

/-- The level of an input unit's transmit wire (R35). -/
def Transmitter.wire : Transmitter → Bool
  | .idle => true
  | .sending d p chars n => wireLevel d p chars n

/-- The level of a coded-time output's wire (R158). -/
def CodedLine.wire : CodedLine → Bool
  | .idle => true
  | .sending d p chars n => wireLevel d p chars n

/-- The parity verdict of a character: good when the parity bit is right (R24). -/
def parityGood (p : Parity) (data : Byte) (bit : Bool) : Bool :=
  let ones := onesIn data + (if bit then 1 else 0)
  match p with
  | .none => true
  | .even => decide (ones % 2 = 0)
  | .odd => decide (ones % 2 = 1)

/-! ### Exchange frames (R166) -/

/-- The bytes of a cycle word (R166). -/
def encWord (w : CycleWord) : List Byte :=
  w.plan :: beBytes 3 w.cycle.toNat

/-- The flags byte of a mark (R166). -/
def markFlags (m : MarkFields) : Byte :=
  (if m.opening then 1#8 else 0#8) ||| (if m.closing then 2#8 else 0#8) |||
  (if m.holdover then 4#8 else 0#8) ||| (if m.untraceable then 8#8 else 0#8)

/-- The 22 bytes common to MARK and STATE (R166). -/
def encMark (m : MarkFields) : List Byte :=
  beBytes 6 m.seconds ++ beBytes 4 m.nanos ++ beBytes 4 m.correction ++ beBytes 2 m.seq.toNat ++
  [markFlags m, byte m.cls] ++ encWord m.word

/-- The nine bytes of a STATE trailer (R166). -/
def encTrailer (t : Trailer) : List Byte :=
  [byte t.steering, byte t.kind] ++ beBytes 4 t.age ++ beInt 1 t.scale ++ [byte t.plan, byte t.slot]

/-- The exchange data of a frame: version, kind, length, body (R166). -/
def Frame.encode : Frame → List Byte
  | .mark m => [1#8, 1#8, 22#8] ++ encMark m
  | .state m t => [1#8, 2#8, 31#8] ++ (encMark m ++ encTrailer t)
  | .query r q => [1#8, 3#8, 8#8] ++ (beBytes 6 r ++ beBytes 2 q.toNat)
  | .reply r q sec ns c cls =>
    [1#8, 4#8, 20#8] ++
    (beBytes 6 r ++ beBytes 2 q.toNat ++ beBytes 6 sec ++ beBytes 4 ns ++ [byte c, byte cls])

/-- A frame of the exchange as a port of Ethernet address `source` sends it: to the broadcast address,
of Ethernet type 0x9C5A (R166). -/
def etherFrame (source : BitVec 48) (f : Frame) : EtherFrame :=
  ⟨BitVec.allOnes 48, source, 0x9C5A#16, f⟩

/-- The bytes of a sent frame from the destination address to the end of the exchange data (R166). -/
def EtherFrame.bytes (e : EtherFrame) : List Byte :=
  beBytes 6 e.destination.toNat ++ (beBytes 6 e.source.toNat ++
    (beBytes 2 e.etherType.toNat ++ e.data.encode))

/-- The fields of a MARK body; bits the layout does not define are ignored (R163, R166). -/
def decMark (body : List Byte) : MarkFields :=
  let fl := (body[16]?).getD 0#8
  { seconds := ofBytes (slice body 0 6)
    nanos := ofBytes (slice body 6 4)
    correction := ofBytes (slice body 10 4)
    seq := BitVec.ofNat 16 (ofBytes (slice body 14 2))
    opening := fl.getLsbD 0
    closing := fl.getLsbD 1
    holdover := fl.getLsbD 2
    untraceable := fl.getLsbD 3
    cls := ofBytes (slice body 17 1)
    word := ⟨(body[18]?).getD 0#8, BitVec.ofNat 24 (ofBytes (slice body 19 3))⟩ }

/-- The trailer of a STATE body (R166). -/
def decTrailer (body : List Byte) : Trailer :=
  { steering := ofBytes (slice body 22 1)
    kind := ofBytes (slice body 23 1)
    age := ofBytes (slice body 24 4)
    scale := intOfBytes (slice body 28 1)
    plan := ofBytes (slice body 29 1)
    slot := ofBytes (slice body 30 1) }

/-- The body length a kind requires (R166). -/
def kindLength (kind : Byte) : Option Nat :=
  if kind = 1#8 then some 22
  else if kind = 2#8 then some 31
  else if kind = 3#8 then some 8
  else if kind = 4#8 then some 20
  else none

/-- The frame that exchange data carries, or none when it fails the format checks: version, kind,
length, size. Bytes after the body are padding (R166). -/
def readFrame (bytes : List Byte) : Option Frame :=
  match bytes with
  | version :: kind :: len :: body =>
    if version = 1#8 ∧ kindLength kind = some len.toNat ∧ len.toNat ≤ body.length then
      if kind = 1#8 then some (.mark (decMark body))
      else if kind = 2#8 then some (.state (decMark body) (decTrailer body))
      else if kind = 3#8 then some (.query (ofBytes (slice body 0 6)) (BitVec.ofNat 16 (ofBytes (slice body 6 2))))
      else some (.reply (ofBytes (slice body 0 6)) (BitVec.ofNat 16 (ofBytes (slice body 6 2)))
        (ofBytes (slice body 8 6)) (ofBytes (slice body 14 4)) (ofBytes (slice body 18 1))
        (ofBytes (slice body 19 1)))
    else none
  | _ => none

/-- Whether a frame passes the content checks of an uplink unit (R44). -/
def contentOk : Frame → Bool
  | .mark m => decide (m.nanos < nanosPerSecond)
  | .state m _ => decide (m.nanos < nanosPerSecond) && decide (m.cls ≤ 7)
  | .query _ _ => true
  | .reply _ _ _ ns _ _ => decide (ns < nanosPerSecond)

/-- The frame an uplink unit takes: one that passes the format and the content checks (R44). -/
def uplinkFrame (bytes : List Byte) : Option Frame :=
  (readFrame bytes).filter contentOk

/-! ### Management frames (R167, R168) -/

/-- The status codes (R167). -/
inductive Status where
  | ok
  | okClamped
  | denied
  | guarded
  | locked
  | roleLocked
  | pendingExists
  | badValue
  | badIndex
  | badCommand
  | badCheck
  | refused
  | empty
  deriving DecidableEq, Repr

/-- A status code's byte (R167). -/
def statusCode : Status → Byte
  | .ok => 0x00#8
  | .okClamped => 0x01#8
  | .denied => 0x10#8
  | .guarded => 0x11#8
  | .locked => 0x12#8
  | .roleLocked => 0x13#8
  | .pendingExists => 0x14#8
  | .badValue => 0x20#8
  | .badIndex => 0x21#8
  | .badCommand => 0x22#8
  | .badCheck => 0x23#8
  | .refused => 0x30#8
  | .empty => 0x31#8

/-- A response frame: tag, status, payload length, payload, check (R167). -/
def responseFrame (tag : Byte) (st : Status) (payload : List Byte) : List Byte :=
  let head := tag :: statusCode st :: byte payload.length :: payload
  head ++ [0#8 - byteSum head]

/-- The tag of a command frame: its second byte (R167). -/
def frameTag (frame : List Byte) : Byte :=
  (frame[1]?).getD 0#8

/-- The payload of a command frame (R167). -/
def framePayload (frame : List Byte) : List Byte :=
  slice frame 3 ((frame[2]?).getD 0#8).toNat

/-- A command frame passes its format checks: its length byte is at most 64 and its bytes sum to 0
(R167, R174). -/
def frameOk (frame : List Byte) : Bool :=
  decide (((frame[2]?).getD 0#8).toNat ≤ 64) && decide (byteSum frame = 0#8)

/-- A payload of exactly `n` bytes read by `f`, or BAD_VALUE (R174). -/
def withLength (n : Nat) (payload : List Byte) (c : Command) : Except Status Command :=
  if payload.length = n then .ok c else .error .badValue

/-- The command a code and payload stand for: BAD_COMMAND for a code not listed, BAD_VALUE for a
payload that does not hold the fields of its layout (R167, R168, R174). -/
def readCommand (code : Byte) (payload : List Byte) : Except Status Command :=
  let sect := ofBytes (slice payload 0 1)
  let index := ofBytes (slice payload 1 2)
  match code.toNat with
  | 0x01 => withLength 3 payload (.readEntry sect index)
  | 0x02 => if 3 ≤ payload.length then .ok (.writeEntry sect index (payload.drop 3)) else .error .badValue
  | 0x10 => .ok .readTime
  | 0x11 => withLength 8 payload (.stepTime (intOfBytes (slice payload 0 4)) (intOfBytes (slice payload 4 4)))
  | 0x20 => withLength 1 payload (.switchSource sect)
  | 0x21 => withLength 0 payload .discardFallback
  | 0x30 => withLength 3 payload (.armPlan sect index)
  | 0x31 => withLength 0 payload .disarmPlan
  | 0x40 => .ok (.clearPortFlags (payload.map (·.toNat)))
  | 0x50 => withLength 0 payload .takeNotice
  | 0x51 => withLength 0 payload .endService
  | 0x52 => withLength 0 payload .peekFault
  | 0x53 => withLength 0 payload .popFault
  | 0x54 => withLength 0 payload .clearFaultOverflow
  | 0x60 => withLength 0 payload .lockAccess
  | 0x61 => withLength 0 payload .serviceReset
  | 0x62 => withLength 0 payload .linkReset
  | _ => .error .badCommand

/-- What the executor finds in a command frame it takes (R174). -/
def readCommandFrame (frame : List Byte) : Except Status Command :=
  if frameOk frame then readCommand ((frame[0]?).getD 0#8) (framePayload frame) else .error .badCheck

end Sys2Proof.Machine
end

