-- ==== Sys2Proof/Machine/Executor.lean ====
section
/-! DEFINITION. How a running command ends: its response placed and the executor IDLE (R173), and the
checks every write passes first (R175, R176). -/

namespace Sys2Proof.Machine

/-- The response of the running command joins its link's response queue and the executor becomes IDLE
(R173). -/
def State.respond (s : State) (r : Running) (st : Status) (payload : List Byte) : State :=
  { s.modLink r.link (fun k => { k with responses := k.responses ++ [responseFrame r.tag st payload] }) with
    executor := { s.executor with running := none } }

/-- A response with no payload. -/
def State.answer (s : State) (r : Running) (st : Status) : State :=
  s.respond r st []

/-- A command that writes `index` of `sect`: DENIED without the write right, GUARDED inside a guard,
otherwise `k` (R175, R176). -/
def State.checkedWrite (s : State) (r : Running) (sect index : Nat) (k : State) : State :=
  if !s.access.canWrite r.link sect then s.answer r .denied
  else if s.access.guarded sect index then s.answer r .guarded
  else k

/-- What a step answers when the executor runs a command that `f` accepts; nothing otherwise. -/
def State.onCommand (s : State) (f : Running → Command → Option State) : State :=
  match s.executor.running with
  | some r => (f r r.command).getD s
  | none => s

end Sys2Proof.Machine
end

