-- ==== Sys2Proof/Machine/InputUnits.lean ====
section
/-! DEFINITION. Chapter 2 without the serial line: the pulse tracker, pairing, phase events, descriptor
requests, and what a step, an enable and a disable do to an input unit. -/

namespace Sys2Proof.Machine

open Sys2Proof.Config

/-- fu in a millisecond. -/
def fuPerMilli : Int := 16000000

/-- The intervals count incremented; past 2^32−1 it is a free value (log entry 9). -/
def bumpIntervals (n : Count) : Count :=
  if n = BitVec.allOnes 32 then intervalsPastEnd else n + 1

/-- A new pulse sequence: SEEKING, X cleared, anchor absent, intervals 0, nothing held (R19, R38, R40). -/
def InputUnit.startSequence (i : InputUnit) : InputUnit :=
  { i with tracker := .seeking, anchor := none, intervals := 0, held := .nothing }

/-- The unit starts when its entry leaves DISABLED (R40). -/
def InputUnit.start (i : InputUnit) : InputUnit :=
  { i.startSequence with receiver := .idle, assembler := .waitBreak }

/-- The unit stops when its entry becomes DISABLED; its descriptor is cleared by the selector (R39). -/
def InputUnit.stop (i : InputUnit) : InputUnit :=
  { i with
    tracker := .idle, anchor := none, intervals := 0, held := .nothing
    receiver := .idle, assembler := .waitBreak, requestTimer := none, lastScale := 0 }

/-- The unit's source entry is enabled (chapter 2). -/
def State.inputEnabled (s : State) (u : InUnit) : Bool :=
  decide (s.selector.entries[inSource u].state ≠ .disabled)

/-! ### Descriptor requests (R34, R35) -/

/-- A descriptor request begun at the divisor and parity in effect, or skipped while one is in
transmission (R35). -/
def InputUnit.sendRequest (i : InputUnit) : InputUnit :=
  match i.transmitter with
  | .idle =>
    { i.count (fun c => { c with requestsSent := c.requestsSent + 1 }) with
      transmitter := .sending i.settings.divisor i.settings.parity requestBytes
        (transmissionTicks i.settings.divisor i.settings.parity 4) }
  | .sending _ _ _ _ => i.count fun c => { c with requestsSkipped := c.requestsSkipped + 1 }

/-- The selector has moved the unit's entry into TRIAL: a request, the timer at 10, and from FAULTED a
new pulse sequence (R19, R34, R66). -/
def InputUnit.enterTrial (i : InputUnit) (fromFaulted : Bool) : InputUnit :=
  let j := if fromFaulted then i.startSequence else i
  { j.sendRequest with requestTimer := some 10 }

/-- At a cycle start in TRIAL the request timer is decremented (R34). -/
def InputUnit.countRequest (i : InputUnit) : InputUnit :=
  { i with requestTimer := i.requestTimer.map (· - 1) }

/-! ### Phase events (R15, R16, R32, R33) -/

/-- The presented scale offset follows the unit of the source being steered by; R105 has it follow the
selected source's, which differs between a selection and the steering unit's taking it (DESIGN CHOICE; log
entry 40). -/
def State.followScale (s : State) (e : Ext) : State :=
  if s.steering.steered = some e then s.modSteering fun t => { t with scale := s.unitScale e } else s

/-- A GOOD event's validity: e = capture − reference − compensation, carried saturated (R16). -/
def goodValidity (capture reference : Stamp) (compensation : Int) : Validity :=
  let e := capture.diff reference - compensation
  .good (saturate phaseBound e) e

/-- The validity of a formed pair, decided in the order of R32. -/
def InputUnit.judgePair (i : InputUnit) (tod : TimeOfDay) (capture : Stamp) (compensation : Int) :
    Validity :=
  if !tod.locked then .bad .unlockedReceiver
  else if (match i.anchor with
      | some a => decide (tod.seconds ≠ (a + i.intervals.toNat) % secondsModulus)
      | none => false) then .bad .secondsJump
  else goodValidity capture ⟨tod.seconds, 0, 0⟩ compensation

/-- A validity is GOOD. -/
def Validity.isGood : Validity → Bool
  | .good _ _ => true
  | .bad _ => false

/-- A pair formed: its event goes to the selector, the anchor moves to its seconds, intervals becomes 0,
and on a GOOD event the last scale offset is the sentence's (R32). -/
def State.formPair (s : State) (u : InUnit) (tod : TimeOfDay) (capture : Stamp) : State :=
  let comp := (s.compensation (inSource u)).getD 0
  let v := s.inputs[u].judgePair tod capture comp
  let s1 := s.modInput u fun i =>
    { i with
      anchor := some tod.seconds, intervals := 0
      lastScale := if v.isGood then tod.scale else i.lastScale }
  let s2 := if v.isGood then s1.followScale (inSource u) else s1
  s2.toSelector (inSource u) (.phase ⟨inSource u, v, some ⟨tod.seconds, 0, 0⟩, some capture, some comp⟩)

/-- The held half emitted as a BAD event with cause UNPAIRED (R33); nothing when nothing is held. -/
def State.emitUnpaired (s : State) (u : InUnit) : State :=
  let comp := s.compensation (inSource u)
  let drop := s.modInput u fun i => { i with held := .nothing }
  match s.inputs[u].held with
  | .nothing => s
  | .pulse c _ => drop.toSelector (inSource u) (.phase ⟨inSource u, .bad .unpaired, none, some c, comp⟩)
  | .sentence t _ =>
    drop.toSelector (inSource u) (.phase ⟨inSource u, .bad .unpaired, some ⟨t.seconds, 0, 0⟩, none, comp⟩)

/-- The pairing window of a held item has ended before an instant. -/
def Held.endedBefore (h : Held) (now : Stamp) : Bool :=
  match h with
  | .nothing => false
  | .pulse _ w => decide (0 < now.diff w)
  | .sentence _ w => decide (0 < now.diff w)

/-- A window end that precedes an instant is taken first (R30, R31); so is one that only a forward step has
put before the instant, when the unit has not yet taken its announcement (DESIGN CHOICE: R38 drops the held
item when the announcement is taken, and no rule speaks of an end passed over before; log entry 45). -/
def State.settleHeld (s : State) (u : InUnit) (now : Stamp) : State :=
  if s.inputs[u].held.endedBefore now then s.emitUnpaired u else s

/-- The end of a pairing window that starts at an instant (R30, R31). -/
def InputUnit.windowEnd (i : InputUnit) (start : Stamp) : Stamp :=
  start.plus (i.settings.window * fuPerMilli)

/-- An orphan counted (R30, R31). -/
def State.orphan (s : State) (u : InUnit) : State :=
  s.modInput u fun i => i.count fun c => { c with orphans := c.orphans + 1 }

/-- An accepted pulse goes to pairing (R30, R31). -/
def State.pairPulse (s : State) (u : InUnit) (capture : Stamp) : State :=
  match s.inputs[u].settings.mode with
  | .follows => s.modInput u fun i => { i with held := .pulse capture (i.windowEnd capture) }
  | .precedes =>
    match s.inputs[u].held with
    | .sentence tod _ => (s.modInput u fun i => { i with held := .nothing }).formPair u tod capture
    | _ => s.orphan u

/-- A time-of-day sentence that completes at `now` goes to pairing (R30, R31). -/
def State.pairSentence (s0 : State) (u : InUnit) (tod : TimeOfDay) (now : Stamp) : State :=
  let s := s0.settleHeld u now
  match s.inputs[u].settings.mode with
  | .follows =>
    match s.inputs[u].held with
    | .pulse c _ => (s.modInput u fun i => { i with held := .nothing }).formPair u tod c
    | _ => s.orphan u
  | .precedes =>
    (s.emitUnpaired u).modInput u fun i => { i with held := .sentence tod (i.windowEnd now) }

/-! ### The pulse tracker (R18 to R23) -/

/-- A pulse lies in the window X − W to X + W inclusive (R20). -/
def inWindow (capture x : Stamp) (halfWidth : Nat) : Bool :=
  decide ((capture.diff x).natAbs ≤ halfWidth * fuPerNano)

/-- A pulse accepted: the new window is centred one second after it with the half-width in force, the
pulse is reported and goes to pairing (R19, R20). -/
def State.acceptPulse (s : State) (u : InUnit) (capture : Stamp) (intervals : Count) : State :=
  ((s.modInput u fun i =>
      { i with
        tracker := .tracking (capture.plus fuPerSecond) i.settings.halfWidth
        intervals := intervals }).toSelector (inSource u) (.report .accepted)).pairPulse u capture

/-- A rising edge captured and classified (R18 to R21); a window end before it is taken first (R31). -/
def State.pulse (s0 : State) (u : InUnit) (capture : Stamp) : State :=
  let s := s0.settleHeld u capture
  match s.inputs[u].tracker with
  | .idle => s
  | .seeking => s.acceptPulse u capture 0
  | .tracking x w =>
    if inWindow capture x w then s.acceptPulse u capture (bumpIntervals s.inputs[u].intervals)
    else s.toSelector (inSource u) (.report .stray)

/-- Station time has passed X + W with no pulse accepted (R22), as it stands at the end of a tick. A pulse
captured past X + W within the very tick in which station time passes it is therefore classified, and
reported STRAY, before the MISS (DESIGN CHOICE: R22 and R23 do not say which of the two is first; log entry
45). Station time carried past X + W by a forward step alone counts as passing it, so that the miss may be
declared from the old X until the unit takes the announcement (DESIGN CHOICE: R22 and R38 do not say whether
it may; log entry 45). -/
def State.windowPassed (s : State) (u : InUnit) : Bool :=
  match s.inputs[u].tracker with
  | .tracking x w => decide (0 < s.timebase.time.stamp.diff (x.plus (w * fuPerNano)))
  | _ => false

/-- A miss: X flywheels one second, intervals is incremented, the miss is reported (R22). -/
def State.miss (s : State) (u : InUnit) : State :=
  (s.modInput u fun i =>
    { i with
      tracker := match i.tracker with
        | .tracking x _ => .tracking (x.plus fuPerSecond) i.settings.halfWidth
        | t => t
      intervals := bumpIntervals i.intervals }).toSelector (inSource u) (.report .miss)

/-! ### Settings whose write does more than store (R42) -/

/-- A write of the pairing mode: at once, dropping a held item (R42). -/
def InputUnit.setMode (i : InputUnit) (m : PairingMode) : InputUnit :=
  { i with settings := { i.settings with mode := m }, held := .nothing }

/-- A write of auto-rate arm; CLEAR during MEASURING abandons the measurement, and the line stays low
when its low has begun (R25, R42). -/
def InputUnit.setArm (i : InputUnit) (armed : Bool) : InputUnit :=
  let j := { i with settings := { i.settings with armed := armed } }
  match armed, i.receiver with
  | false, .measuring => { j with receiver := .idle, assembler := .waitBreak }
  | false, .counting _ _ => { j with receiver := .lowIdle, assembler := .waitBreak }
  | _, _ => j

/-! ### The commands -/

/-- PULSE_EDGE (R18). -/
def execPulseEdge (u : InUnit) (x : Elapsed) (s : State) : Host.Outcome State Fault Refusal :=
  .next (s.pulse u (s.reading x))

/-- PULSE_WINDOW_MISS (R22): nothing while the window has not been passed. -/
def execPulseWindowMiss (u : InUnit) (s : State) : Host.Outcome State Fault Refusal :=
  .next (if s.windowPassed u then s.miss u else s)

/-- PAIRING_WINDOW_END (R33): nothing while no held item's window has ended by a tick's end (log entry
45). -/
def execPairingWindowEnd (u : InUnit) (s : State) : Host.Outcome State Fault Refusal :=
  .next (s.settleHeld u s.timebase.time.stamp)

/-- REQUEST_TIMER_EXPIRY (R34): nothing while the timer is not at 0. -/
def execRequestTimerExpiry (u : InUnit) (s : State) : Host.Outcome State Fault Refusal :=
  .next (if s.inputs[u].requestTimer = some 0 then
      if s.selector.entries[inSource u].descriptor.isNone then
        s.modInput u fun i => { i.sendRequest with requestTimer := some 10 }
      else s.modInput u fun i => { i with requestTimer := none }
    else s)

/-- DESCRIPTOR_REQUEST_DONE (R35): nothing until the last bit has been sent. -/
def execDescriptorRequestDone (u : InUnit) (s : State) : Host.Outcome State Fault Refusal :=
  .next (match s.inputs[u].transmitter with
    | .sending _ _ _ 0 => s.modInput u fun i => { i with transmitter := .idle }
    | _ => s)

/-- INPUT_UNIT_STEP (R38): the oldest step announcement on its way is taken; a disabled unit changes
nothing. -/
def execInputUnitStep (u : InUnit) (s : State) : Host.Outcome State Fault Refusal :=
  .next (match s.flight.stepsToInput[u] with
    | [] => s
    | _ :: rest =>
      let t := s.modFlight fun f => { f with stepsToInput := f.stepsToInput.set u rest }
      if s.inputEnabled u then t.modInput u InputUnit.startSequence else t)

end Sys2Proof.Machine
end

