-- ==== Sys2Proof/Machine/SourceSelector.lean ====
section
/-! DEFINITION. Chapter 4: the source table, qualification, ranking, selection, the fallback stack, and
the selector's commands. -/

namespace Sys2Proof.Machine

open Sys2Proof.Config

/-! ### What an uplink unit does when its entry is disabled or enabled (R58) -/

/-- The uplink unit stops: IDLE, path state cleared, nothing counted (R58). -/
def UplinkUnit.stop (i : UplinkUnit) : UplinkUnit :=
  { i with
    running := false, sample := none, forward := none, outstanding := none, window := []
    released := false, judging := false, cut := false, lastClass := none, lastScale := 0 }

/-- The uplink unit starts RUNNING with the state the disable left (R58). -/
def UplinkUnit.start (i : UplinkUnit) : UplinkUnit :=
  { i with running := true }

/-- The input unit of an entry changed; an UP entry has none. -/
def State.modInputOf (s : State) (e : Ext) (f : InputUnit → InputUnit) : State :=
  match inputOf e with
  | some u => s.modInput u f
  | none => s

/-- The uplink unit of an entry changed; an IN entry has none. -/
def State.modUplinkOf (s : State) (e : Ext) (f : UplinkUnit → UplinkUnit) : State :=
  match uplinkOf e with
  | some u => s.modUplink u f
  | none => s

/-! ### Ranking (R73) -/

/-- An entry is USABLE. -/
def State.isUsable (s : State) (e : Ext) : Bool :=
  decide (s.selector.entries[e].state = .usable)

/-- `a` ranks before `b` on class, then priority; equal keys keep index order (R73). -/
def State.outranks (s : State) (a b : Ext) : Bool :=
  decide (s.effectiveClass a < s.effectiveClass b) ||
  (decide (s.effectiveClass a = s.effectiveClass b) &&
    decide (s.selector.entries[a].priority < s.selector.entries[b].priority))

/-- The better-ranked of the best so far and a USABLE source met after it (R73). -/
def State.better (s : State) (best : Option Ext) (e : Ext) : Option Ext :=
  if s.isUsable e then
    match best with
    | none => some e
    | some b => if s.outranks e b then some e else some b
  else best

/-- The best-ranked USABLE external source, none when none is USABLE (R73). -/
def State.bestUsable (s : State) : Option Ext :=
  allExt.foldl s.better none

/-! ### Selection (R74 to R76) -/

/-- A source becomes selected; the source already selected takes no action (R74). -/
def State.selectSource (s : State) (target : Source) : State :=
  if target = s.selector.selected then s
  else
    let restored : StepOptions :=
      match s.selector.stack with
      | t :: _ => if toSource t.source = target then t.options else s.steering.options
      | [] => s.steering.options
    let s1 := s.modSteering fun t => { t with options := restored }
    let s2 := s1.modSelector fun q =>
      { q with
        stack := q.stack.filter fun t => decide (toSource t.source ≠ target)
        selected := target }
    (s2.modFlight fun f => { f with selections := f.selections ++ [target] }).latch .sourceSelected

/-- A source pushed onto the fallback stack with the options as they stand; a source pushed while
USABLE restarts its restore timer (R75, R78). -/
def State.push (s : State) (e : Ext) (cause : Cause) : State :=
  let entry := s.selector.entries[e]
  let top : StackEntry :=
    ⟨e, cause, s.timebase.time.sec, entry.learned, entry.learnedCount, s.steering.options⟩
  (s.modSelector fun q =>
    { q with stack := top :: q.stack.filter fun t => decide (t.source ≠ e) }).modEntry e fun n =>
      { n with restore := if n.state = .usable then some 0 else n.restore }

/-- Options without the members of a mask (R76). -/
def StepOptions.without (o m : StepOptions) : StepOptions :=
  ⟨o.stepPermit && !m.stepPermit, o.fastAcquire && !m.fastAcquire, o.squelch && !m.squelch⟩

/-- The fallback mask withdrawn from the steering options (R76). -/
def State.maskOptions (s : State) : State :=
  s.modSteering fun t => { t with options := t.options.without t.mask }

/-- The failure switch after any push: the mask is withdrawn, and the best-ranked USABLE source is
selected, or LOCAL (R76). -/
def State.failureSwitch (s : State) : State :=
  let m := s.maskOptions
  m.selectSource ((m.bestUsable.map toSource).getD localSource)

/-- The fault code a cause logs (R72, 11.4). -/
def causeCode : Cause → Nat
  | .loss => 1
  | .secondsJump => 2
  | .unlockedReceiver => 3
  | .excursion => 4
  | .excursionHard => 4
  | .manual => 0

/-- The unit of an entry that leaves TRIAL stops its request timer (R34). -/
def State.leaveTrial (s : State) (e : Ext) : State :=
  s.modInputOf e fun i => { i with requestTimer := none }

/-- An entry faulted: FAULTED with the retry timer running and the fault logged, and, when it was
selected, pushed and left by the failure switch (R72, R76). -/
def State.faultEntry (s : State) (e : Ext) (cause : Cause) : State :=
  let s1 := (s.modEntry e fun n =>
    { n with
      state := .faulted, retry := some s.selector.settings.retryTime, goodRun := 0, missRun := 0
      restore := none }).leaveTrial e
  let s2 := s1.logFault .selector (causeCode cause) e.val s1.cycleDetail
  if s2.selector.selected = toSource e then (s2.push e cause).failureSwitch else s2

/-! ### Revert and upgrade (R78, R80) -/

/-- The stored and the current learned offsets disagree, with both counts at least 8 (R78). -/
def State.revertRefused (s : State) (t : StackEntry) : Bool :=
  let n := s.selector.entries[t.source]
  decide (8 ≤ t.learnedCount) && decide (8 ≤ n.learnedCount) &&
  decide (s.selector.settings.disagreement < ((t.learned - n.learned).natAbs : Int))

/-- A stack entry's source is USABLE and has been for the wait-to-restore (R78). -/
def State.revertDue (s : State) (t : StackEntry) : Bool :=
  s.isUsable t.source &&
  decide (s.selector.settings.waitToRestore ≤ s.selector.entries[t.source].restore.getD 0)

/-- The revert test on the stack top; a refused entry is removed and the new top tested at once, at
most `n` times (R78). -/
def State.revertTest (s : State) : Nat → State
  | 0 => s
  | n + 1 =>
    match s.selector.stack with
    | [] => s
    | t :: rest =>
      if s.selector.settings.revertive && s.revertDue t then
        if s.revertRefused t then
          ((s.modSelector fun q => { q with stack := rest }).logFault .selector 5 t.source.val
            s.cycleDetail).revertTest n
        else s.selectSource (toSource t.source)
      else s

/-- The revert test, for as many entries as the stack holds (R78). -/
def State.revert (s : State) : State :=
  s.revertTest s.selector.stack.length

/-- The upgrade test: with auto-upgrade ON and an external source selected, a USABLE source of
strictly lower effective class is selected, without push or mask (R80). -/
def State.upgradeTest (s : State) : State :=
  if s.selector.settings.autoUpgrade && (extOf s.selector.selected).isSome then
    match s.bestUsable with
    | some b => if s.effectiveClass b < s.classOf s.selector.selected then s.selectSource (toSource b) else s
    | none => s
  else s

/-- A change `f` that may move an entry's effective class; when it does, and the entry was USABLE or
selected, the upgrade test follows (R63, R80). A disable is such a change too: what counts is the entry as
the change finds it (log entry 17). -/
def State.withClassChange (s : State) (e : Ext) (f : State → State) : State :=
  let t := f s
  if t.effectiveClass e ≠ s.effectiveClass e ∧
      (s.isUsable e = true ∨ s.selector.selected = toSource e)
  then t.upgradeTest else t

/-! ### Source states (R65 to R70) -/

/-- An entry enters TRIAL, and its unit is told (R66, R72). -/
def State.enterTrial (s : State) (e : Ext) (fromFaulted : Bool) : State :=
  (s.modEntry e fun n =>
    { n with state := .trial, goodRun := 0, missRun := 0, retry := none, restore := none }).modInputOf e
      fun i => i.enterTrial fromFaulted

/-- The source at the top of the fallback stack. -/
def State.stackTop (s : State) : Option Ext :=
  s.selector.stack.head?.map (·.source)

/-- An entry enters USABLE: recovery from LOCAL, the upgrade test, and the revert test when it is the
stack top. One that becomes the top by that recovery or upgrade is tested at the next cycle start (R69,
R78, R79, R80). -/
def State.becomeUsable (s : State) (e : Ext) : State :=
  let s1 := (s.modEntry e fun n => { n with state := .usable, restore := some 0 }).leaveTrial e
  let s2 :=
    if s1.selector.selected = localSource then
      s1.selectSource ((s1.bestUsable.map toSource).getD localSource)
    else s1.upgradeTest
  if s1.stackTop = some e ∧ s2.stackTop = some e then s2.revert else s2

/-- A pulse report of a TRIAL, USABLE or FAULTED entry (R67). -/
def State.heardReport (s : State) (e : Ext) (k : ReportKind) : State :=
  match k with
  | .accepted => s.modEntry e fun n => { n with missRun := 0 }
  | .stray => s.modEntry e fun n => { n with strays := n.strays + 1 }
  | .miss =>
    let counted := s.modEntry e fun n => { n with misses := n.misses + 1 }
    if s.selector.entries[e].state = .faulted then counted
    else
      let run := min 10 (s.selector.entries[e].missRun + 1)
      let t := counted.modEntry e fun n => { n with missRun := run }
      if s.selector.settings.missLimit ≤ run then t.faultEntry e .loss else t

/-- A pulse report taken (R66, R67). -/
def State.takeReport (s : State) (e : Ext) (k : ReportKind) : State :=
  match s.selector.entries[e].state, k with
  | .disabled, _ => s
  | .absent, .miss => s.modEntry e fun n => { n with misses := n.misses + 1 }
  | .absent, _ => (s.enterTrial e false).heardReport e k
  | _, _ => s.heardReport e k

/-- The learned offset and count after a GOOD event of carried error `c` (R68). -/
def SourceEntry.learn (n : SourceEntry) (c : Int) : SourceEntry :=
  { n with
    learned := n.learned + towardZero (c - n.learned) 8
    learnedCount := min 255 (n.learnedCount + 1) }

/-- A GOOD event of the entry is held in disagreement, its learned offset already updated (R69). Between a
selection and the steering unit's taking it the unit still stands in the state before, so after a LOCKED
source has been left it still reads LOCKED here (DESIGN CHOICE: R88 says that the state changes at once; log
entry 40). -/
def State.disagrees (s : State) (e : Ext) : Bool :=
  let n := s.selector.entries[e]
  decide (s.steering.state = .locked) && decide (s.selector.selected ≠ toSource e) &&
  decide (8 ≤ n.learnedCount) && decide (s.selector.settings.disagreement < (n.learned.natAbs : Int))

/-- A GOOD event handled by the entry's state (R68, R69, R70). -/
def State.takeGood (s : State) (e : Ext) (carried : Int) : State :=
  let t := s.modEntry e fun n => n.learn carried
  match t.selector.entries[e].state with
  | .trial =>
    if t.disagrees e then t.modEntry e fun n => { n with bad := n.bad + 1, goodRun := 0 }
    else
      let v := t.modEntry e fun n => { n with good := n.good + 1, goodRun := n.goodRun + 1 }
      if v.selector.settings.qualify ≤ v.selector.entries[e].goodRun then v.becomeUsable e else v
  | _ => t.modEntry e fun n => { n with good := n.good + 1 }

/-- A BAD event handled by the entry's state (R68, R69, R70). -/
def State.takeBad (s : State) (e : Ext) (cause : BadCause) : State :=
  let t := s.modEntry e fun n => { n with bad := n.bad + 1 }
  match t.selector.entries[e].state, cause with
  | .trial, _ => t.modEntry e fun n => { n with goodRun := 0 }
  | .usable, .secondsJump => t.faultEntry e .secondsJump
  | .usable, .unlockedReceiver => t.faultEntry e .unlockedReceiver
  | _, _ => t

/-- A phase event of an enabled entry taken; a GOOD event of the selected source is handed to the
steering unit (R66, R68). -/
def State.takePhase (s0 : State) (e : Ext) (ev : PhaseEvent) : State :=
  match s0.selector.entries[e].state with
  | .disabled => s0
  | st =>
    let s := if st = .absent then s0.enterTrial e false else s0
    match ev.validity with
    | .bad cause => s.takeBad e cause
    | .good carried _ =>
      let t := s.takeGood e carried
      if t.selector.selected = toSource e ∧ t.isUsable e = true then
        t.modFlight fun f => { f with goodEvents := f.goodEvents ++ [ev] }
      else t

/-- Enabled written YES: a DISABLED entry becomes ABSENT and its unit starts (R65). -/
def State.enableSource (s : State) (e : Ext) : State :=
  if s.selector.entries[e].state = .disabled then
    (((s.modEntry e fun n =>
      { n with
        state := .absent, goodRun := 0, missRun := 0, learned := 0, learnedCount := 0
        retry := none, restore := none }).modInputOf e InputUnit.start).modUplinkOf e UplinkUnit.start)
  else s

/-- An enabled entry becomes DISABLED and its unit stops, which clears its descriptor or upstream class; its
stack entry is removed, and a selected source is left by the failure switch without a push (R37, R39, R58,
R65, R76). -/
def State.switchOff (s : State) (e : Ext) : State :=
  let s1 := s.modEntry e fun n =>
    { n with
      state := .disabled, goodRun := 0, missRun := 0, learned := 0, learnedCount := 0
      retry := none, restore := none, descriptor := none }
  let s2 := s1.modSelector fun q => { q with stack := q.stack.filter fun t => decide (t.source ≠ e) }
  let s3 := (s2.modInputOf e InputUnit.stop).modUplinkOf e UplinkUnit.stop
  if s3.selector.selected = toSource e then s3.failureSwitch else s3

/-- Enabled written NO: an enabled entry is switched off. When that moves the effective class of an entry
that was USABLE or selected, the upgrade test follows (R80), and when the removed entry was the stack top,
the new top is tested for revert; one that becomes the top by that upgrade is tested at the next cycle start
(R65, R78). The failure switch comes before the upgrade test, which then finds nothing to do for a source
that was selected, and the upgrade test before the revert test (DEDUCED; log entry 17). -/
def State.disableSource (s : State) (e : Ext) : State :=
  if s.selector.entries[e].state = .disabled then s
  else
    let off := s.switchOff e
    let judged := s.withClassChange e fun t => t.switchOff e
    if s.stackTop = some e ∧ judged.stackTop = off.stackTop then judged.revert else judged

/-! ### Cycle starts and steps (R84, R85) -/

/-- One entry's timers at a cycle start: the retry timer of a FAULTED entry, the restore timer of a
USABLE one (R72, R84). -/
def State.countTimers (s : State) (e : Ext) : State :=
  let n := s.selector.entries[e]
  match n.state with
  | .faulted =>
    match n.retry with
    | some k =>
      if k ≤ 1 then s.enterTrial e true else s.modEntry e fun m => { m with retry := some (k - 1) }
    | none => s
  | .usable => s.modEntry e fun m => { m with restore := m.restore.map fun k => min 3600 (k + 1) }
  | _ => s

/-- The selector's handling of a cycle start: the timers, then the revert test (R84). -/
def State.selectorCycle (s : State) : State :=
  match s.flight.cyclesToSelector with
  | [] => s
  | _ :: rest =>
    let t := s.modFlight fun f => { f with cyclesToSelector := rest }
    (allExt.foldl State.countTimers t).revert

/-- A cycle start on its way to the selector brings an entry's retry timer to 0 (R72, R84). -/
def State.retryDue (s : State) (e : Ext) : Bool :=
  !s.flight.cyclesToSelector.isEmpty &&
  decide (s.selector.entries[e].state = .faulted) &&
  decide (s.selector.entries[e].retry = some 1)

/-- The selector takes a step announcement (R85). -/
def Selector.stepped (q : Selector) : Selector :=
  { q with
    entries := q.entries.map fun n => { n with learned := 0, learnedCount := 0 }
    stack := q.stack.map fun t => { t with learnedCount := 0 } }

/-! ### Commands of the selector (R81, R82) -/

/-- SWITCH SOURCE made: push and mask from an external source, then the selection (R81). -/
def State.manualSwitch (s : State) (target : Source) : State :=
  match extOf s.selector.selected with
  | some e => ((s.push e .manual).maskOptions).selectSource target
  | none => s.selectSource target

/-- The response payload of SWITCH SOURCE: selected source and stack depth (R81, R168). -/
def switchPayload (s : State) : List Byte :=
  [byte s.selector.selected.val, byte s.selector.stack.length]

/-- SWITCH SOURCE run for `r` (R81). -/
def State.runSwitchSource (s : State) (r : Running) (target : Nat) : State :=
  s.checkedWrite r 2 167 <|
    if h : target < 5 then
      let i : Source := ⟨target, h⟩
      match extOf i with
      | none => s.answer r .refused
      | some e =>
        if !s.isUsable e then s.answer r .refused
        else if i = s.selector.selected then s.respond r .ok (switchPayload s)
        else
          let t := s.manualSwitch i
          t.respond r .ok (switchPayload t)
    else s.answer r .badIndex

/-- DISCARD FALLBACK run for `r` (R82). -/
def State.runDiscardFallback (s : State) (r : Running) : State :=
  s.checkedWrite r 2 168 <|
    match s.selector.stack with
    | [] => s.answer r .empty
    | t :: rest =>
      let gone := s.modSelector fun q => { q with stack := rest }
      gone.revert.respond r .ok [byte t.source.val, byte rest.length]

/-! ### The commands -/

/-- SELECTOR_PULSE_REPORT (R67): the oldest event of the unit, when it is a report. -/
def execSelectorPulseReport (e : Ext) (s : State) : Host.Outcome State Fault Refusal :=
  .next (match s.flight.toSelector[e] with
    | .report k :: rest =>
      (s.modFlight fun f => { f with toSelector := f.toSelector.set e rest }).takeReport e k
    | _ => s)

/-- SELECTOR_PHASE_EVENT (R68): the oldest event of the unit, when it is a phase event. -/
def execSelectorPhaseEvent (e : Ext) (s : State) : Host.Outcome State Fault Refusal :=
  .next (match s.flight.toSelector[e] with
    | .phase ev :: rest =>
      (s.modFlight fun f => { f with toSelector := f.toSelector.set e rest }).takePhase e ev
    | _ => s)

/-- EXCURSION_REPORT (R71): the oldest report on its way; discarded when the source is not USABLE. -/
def execExcursionReport (s : State) : Host.Outcome State Fault Refusal :=
  .next (match s.flight.excursions with
    | [] => s
    | x :: rest =>
      let t := s.modFlight fun f => { f with excursions := rest }
      if t.isUsable x.source then
        t.faultEntry x.source (if x.hard then .excursionHard else .excursion)
      else t)

/-- SELECTOR_CYCLE_START (R84). -/
def execSelectorCycleStart (s : State) : Host.Outcome State Fault Refusal :=
  .next s.selectorCycle

/-- RETRY_TIMER_EXPIRY (R72): the cycle start that brings the entry's retry timer to 0; nothing when the
next cycle start does not. -/
def execRetryTimerExpiry (e : Ext) (s : State) : Host.Outcome State Fault Refusal :=
  .next (if s.retryDue e then s.selectorCycle else s)

/-- SELECTOR_STEP (R85): the oldest step announcement on its way is taken. -/
def execSelectorStep (s : State) : Host.Outcome State Fault Refusal :=
  .next (match s.flight.stepsToSelector with
    | [] => s
    | _ :: rest =>
      (s.modFlight fun f => { f with stepsToSelector := rest }).modSelector Selector.stepped)

/-- SWITCH_SOURCE (R81). -/
def execSwitchSource (s : State) : Host.Outcome State Fault Refusal :=
  .next (s.onCommand fun r c =>
    match c with
    | .switchSource t => some (s.runSwitchSource r t)
    | _ => none)

/-- DISCARD_FALLBACK (R82). -/
def execDiscardFallback (s : State) : Host.Outcome State Fault Refusal :=
  .next (s.onCommand fun r c =>
    match c with
    | .discardFallback => some (s.runDiscardFallback r)
    | _ => none)

end Sys2Proof.Machine
end

