-- ==== Sys2Proof/Machine/Cycle.lean ====
section
/-! DEFINITION. Chapter 6: the cycle timer, activation points, the plan store and its commands. -/

namespace Sys2Proof.Machine

open Sys2Proof.Config

/-! ### The plan store (R113, R114, R120) -/

/-- The bank that is ACTIVE, if any (R114). -/
def PlanStore.activeBank (p : PlanStore) : Option BankName :=
  if p.a.role = .active then some .a else if p.b.role = .active then some .b else none

/-- The bank that is PENDING, if any (R114). -/
def PlanStore.pendingBank (p : PlanStore) : Option BankName :=
  if p.a.role = .pending then some .a else if p.b.role = .pending then some .b else none

/-- A change is pending: a PENDING bank or a relabel (R117). -/
def PlanStore.hasPending (p : PlanStore) : Bool :=
  p.pendingBank.isSome || p.relabel.isSome

/-- The cycle start of cycle `n` is an activation point (R113). -/
def isActivation (t : CycleTimer) (p : PlanStore) (n : Nat) : Bool :=
  decide (n % t.epoch = 0) || p.activeBank.isNone || t.resume

/-- A role at an activation point with a PENDING bank: PENDING becomes ACTIVE, ACTIVE becomes INACTIVE
(R120). -/
def Role.activated : Role → Role
  | .pending => .active
  | .active => .inactive
  | .inactive => .inactive

/-- The pending change applied (R120). -/
def PlanStore.activate (p : PlanStore) : PlanStore :=
  match p.pendingBank with
  | some _ =>
    { p with
      a := { p.a with role := p.a.role.activated }
      b := { p.b with role := p.b.role.activated } }
  | none =>
    match p.relabel, p.activeBank with
    | some i, some nm => { p.modBank nm (fun k => { k with planId := i }) with relabel := none }
    | _, _ => p

/-- What the plan store names to the ports: the ACTIVE bank and its plan ID, or none (R121, R124). -/
def PlanStore.named (p : PlanStore) : Option (BankName × Nat) :=
  p.activeBank.map fun nm => (nm, (p.bank nm).planId)

/-- The plan store's handling of an activation point; PLAN_ACTIVATED is latched when a change was
pending (R120). -/
def State.activatePlan (s : State) : State :=
  let t := { s with plans := s.plans.activate }
  if s.plans.hasPending then t.latch .planActivated else t

/-! ### Cycle starts, slot starts, cuts (R110 to R112) -/

/-- An input unit's part in a cycle start: its request timer in TRIAL (R34). -/
def State.countRequests (s : State) (u : InUnit) : State :=
  if s.selector.entries[inSource u].state = .trial then s.modInput u InputUnit.countRequest else s

/-- The cycle start of cycle `n`, at `instant`, handed on to its takers; the uplink units and the notice unit
are handed its resume mark (R110, R121). -/
def State.handCycle (s : State) (n : Nat) (resume : Bool) (instant : Stamp) : State :=
  s.modFlight fun f =>
    { f with
      toPort := f.toPort.map (· ++ [.start n s.plans.named])
      cyclesToUplink := f.cyclesToUplink.map (· ++ [.start n resume instant])
      cyclesToSelector := f.cyclesToSelector ++ [n]
      cyclesToSteering := f.cyclesToSteering ++ [n]
      cyclesToNotice := f.cyclesToNotice ++ [.start n resume instant] }

/-- A cycle start made from the second boundary announcement of `n` (R110, R113, R120). The input units count
their request timers in it, and so before the selector takes the cycle start, where R110 lets them take it in
either order (DESIGN CHOICE; log entry 43). -/
def State.startCycle (s : State) (n : Nat) (instant : Stamp) : State :=
  let t := if isActivation s.cycleTimer s.plans n then s.activatePlan else s
  let v := { t with cycleTimer :=
    { t.cycleTimer with cycle := some n, slot := some 0, cut := false, resume := false } }
  ((v.countRequests 0).countRequests 1).handCycle n s.cycleTimer.resume instant

/-- The start of slot `k` of cycle `n`, at `instant`, handed on; an uplink unit is told of its query slot (R51,
R111). -/
def State.handSlot (s : State) (k n : Nat) (instant : Stamp) : State :=
  let cut := s.cycleTimer.cut
  let told (u : UpUnit) (l : List CycleEvent) : List CycleEvent :=
    if s.uplinks[u].settings.slot = k then l ++ [.slot k n cut instant] else l
  s.modFlight fun f =>
    { f with
      toPort := f.toPort.map (· ++ [.slot k n cut])
      cyclesToUplink := #v[told 0 f.cyclesToUplink[0], told 1 f.cyclesToUplink[1]]
      cyclesToNotice := f.cyclesToNotice ++ [.slot k n cut instant] }

/-- The start of slot `k`; before the first cycle start no slot start is announced (R110, R111). -/
def State.startSlot (s : State) (k : Nat) (instant : Stamp) : State :=
  match s.cycleTimer.cycle with
  | none => s
  | some n => { s with cycleTimer := { s.cycleTimer with slot := some k } }.handSlot k n instant

/-- The current cycle cut by a step announcement; the cut goes to the ports (R112, R135). -/
def State.cutCycle (s : State) : State :=
  { s with
    cycleTimer := { s.cycleTimer with cut := true, resume := true }
    flight := { s.flight with toPort := s.flight.toPort.map (· ++ [.cut]) } }

/-! ### ARM PLAN, DISARM PLAN (R117, R118) -/

/-- A role's number (R114, R163). -/
def Role.code : Role → Nat
  | .inactive => 0
  | .pending => 1
  | .active => 2

/-- A bank's number (R116). -/
def BankName.code : BankName → Nat
  | .a => 0
  | .b => 1

/-- The pending change as PLANS 514 and ARM PLAN give it (R168). -/
def PlanStore.pendingBytes (p : PlanStore) : List Byte :=
  match p.pendingBank, p.relabel with
  | some nm, _ => [1#8, byte nm.code]
  | none, some i => [2#8, byte i]
  | none, none => [0#8]

/-- The two roles as a payload (R168). -/
def PlanStore.roleBytes (p : PlanStore) : List Byte :=
  [byte p.a.role.code, byte p.b.role.code]

/-- The bank of a number (R168). -/
def bankOf : Nat → Option BankName
  | 0 => some .a
  | 1 => some .b
  | _ => none

/-- What ARM PLAN makes of the plan store; none when another change is pending (R117). -/
def PlanStore.arm (p : PlanStore) (nm : BankName) (planId : Nat) : Option PlanStore :=
  match (p.bank nm).role with
  | .inactive =>
    if p.hasPending then none
    else some (p.modBank nm fun k => { k with role := .pending, planId := planId })
  | .pending => some (p.modBank nm fun k => { k with planId := planId })
  | .active => if p.pendingBank.isSome then none else some { p with relabel := some planId }

/-- ARM PLAN run for `r` (R117). The answer PENDING_EXISTS carries no payload (DESIGN CHOICE: R117 gives the
response the roles and the pending change and does not say whether a refusal has them; log entry 41). -/
def State.runArmPlan (s : State) (r : Running) (bank planId : Nat) : State :=
  if !s.access.canWrite r.link 5 then s.answer r .denied
  else
    match bankOf bank with
    | none => s.answer r .badIndex
    | some nm =>
      if s.access.guarded 5 (256 * bank) then s.answer r .guarded
      else if 255 < planId then s.answer r .badValue
      else
        match s.plans.arm nm planId with
        | none => s.answer r .pendingExists
        | some p => { s with plans := p }.respond r .ok (p.roleBytes ++ p.pendingBytes)

/-- What DISARM PLAN makes of the plan store; none when nothing is pending (R118). -/
def PlanStore.disarm (p : PlanStore) : Option PlanStore :=
  match p.pendingBank with
  | some nm => some (p.modBank nm fun k => { k with role := .inactive })
  | none => if p.relabel.isSome then some { p with relabel := none } else none

/-- DISARM PLAN run for `r` (R118). The answer EMPTY carries no payload (DESIGN CHOICE: R118 says EMPTY
and does not say whether the two roles come with it; log entry 41). -/
def State.runDisarmPlan (s : State) (r : Running) : State :=
  s.checkedWrite r 5 514 <|
    match s.plans.disarm with
    | none => s.answer r .empty
    | some p => { s with plans := p }.respond r .ok p.roleBytes

/-! ### The commands -/

/-- CYCLE_START (R110): the oldest announcement of the timebase, when it is a second boundary. -/
def execCycleStart (s : State) : Host.Outcome State Fault Refusal :=
  .next (match s.flight.toCycleTimer with
    | .boundary n instant :: rest => (s.modFlight fun f => { f with toCycleTimer := rest }).startCycle n instant
    | _ => s)

/-- SLOT_START (R111): the oldest announcement of the timebase, when it is a slot crossing. -/
def execSlotStart (s : State) : Host.Outcome State Fault Refusal :=
  .next (match s.flight.toCycleTimer with
    | .slot k instant :: rest => (s.modFlight fun f => { f with toCycleTimer := rest }).startSlot k instant
    | _ => s)

/-- CYCLE_CUT (R112): the oldest announcement of the timebase, when it is a step. -/
def execCycleCut (s : State) : Host.Outcome State Fault Refusal :=
  .next (match s.flight.toCycleTimer with
    | .step _ :: rest => (s.modFlight fun f => { f with toCycleTimer := rest }).cutCycle
    | _ => s)

/-- ARM_PLAN (R117). -/
def execArmPlan (s : State) : Host.Outcome State Fault Refusal :=
  .next (s.onCommand fun r c =>
    match c with
    | .armPlan b i => some (s.runArmPlan r b i)
    | _ => none)

/-- DISARM_PLAN (R118). -/
def execDisarmPlan (s : State) : Host.Outcome State Fault Refusal :=
  .next (s.onCommand fun r c =>
    match c with
    | .disarmPlan => some (s.runDisarmPlan r)
    | _ => none)

end Sys2Proof.Machine
end

