-- ==== Sys2Proof/Machine/Notices.lean ====
section
/-! DEFINITION. Chapter 11: latching, notices, the completion record and the cycle notice, the fault
queues. -/

namespace Sys2Proof.Machine

open Sys2Proof.Config

/-! ### The latch (R185) -/

/-- A class added to a link's latch (R185). -/
def NoticeLink.take (n : NoticeLink) (c : NoticeClass) : NoticeLink :=
  { n with latch := insertClass n.latch c }

/-- The links' notice states changed alike. -/
def State.mapNotice (s : State) (f : NoticeLink → NoticeLink) : State :=
  { s with notice := { s.notice with links := s.notice.links.map f } }

/-! ### Delivery (R187, R188) -/

/-- TAKE NOTICE run for `r` (R187). -/
def State.runTakeNotice (s : State) (r : Running) : State :=
  let n := s.notice.links[r.link]
  match n.best with
  | none => s.respond r .ok [0#8, byte n.latch.toNat, byte n.stack.length]
  | some c =>
    let latch := removeClass n.latch c
    (s.modNotice r.link fun v => { v with latch := latch, stack := c :: v.stack }).respond r .ok
      [byte (classCode c), byte latch.toNat, byte (n.stack.length + 1)]

/-- END SERVICE run for `r` (R188). -/
def State.runEndService (s : State) (r : Running) : State :=
  match s.notice.links[r.link].stack with
  | [] => s.answer r .refused
  | c :: rest =>
    (s.modNotice r.link fun v => { v with stack := rest }).respond r .ok
      [byte (classCode c), byte rest.length]

/-! ### The completion record (R189) -/

/-- Every port has reported and none stands at MARKS_DUE (R189). -/
def CompletionRecord.complete (c : CompletionRecord) : Bool :=
  c.reports.toList.all fun r => decide (r ≠ none) && decide (r ≠ some .marksDue)

/-- A report applied to a record (R189): one made at a cycle start fills the port's place; CLOSED turns
MARKS_DUE into CLOSED and is discarded otherwise. -/
def CompletionRecord.apply (c : CompletionRecord) (p : Port) (r : Report) : CompletionRecord :=
  match r with
  | .closed => if c.reports[p] = some .marksDue then { c with reports := c.reports.set p (some r) } else c
  | _ => { c with reports := c.reports.set p (some r) }

/-- A report made at a cycle start belongs to a record not yet begun: it names another number, or the
record already holds a report of the port (R189). -/
def NoticeUnit.isEarly (n : NoticeUnit) (p : Port) (r : PortReport) : Bool :=
  match n.completion with
  | none => true
  | some c => decide (c.cycle ≠ r.cycle) || (c.reports[p]).isSome

/-- A report taken: held early, applied or discarded (R189). -/
def NoticeUnit.takeReport (n : NoticeUnit) (p : Port) (r : PortReport) : NoticeUnit :=
  match r.report with
  | .closed =>
    if n.early.any fun x => decide (x.1 = p) then { n with early := n.early ++ [(p, r)] }
    else
      match n.completion with
      | some c => if c.cycle = r.cycle then { n with completion := some (c.apply p .closed) } else n
      | none => n
  | _ =>
    if n.isEarly p r then { n with early := n.early ++ [(p, r)] }
    else { n with completion := n.completion.map fun c => c.apply p r.report }

/-- The record a cycle start begins: every port at none yet, then the early reports that name the cycle
in the order they were taken (R189). -/
def NoticeUnit.newRecord (n : NoticeUnit) (cycle : Nat) : CompletionRecord :=
  (n.early.filter fun x => decide (x.2.cycle = cycle)).foldl (fun c x => c.apply x.1 x.2.report)
    ⟨cycle, Vector.replicate 6 none⟩

/-! ### The cycle notice (R190) -/

/-- A mode is met by the delay condition and the complete condition (R190). -/
def CycleMode.met (m : CycleMode) (delay complete : Bool) : Bool :=
  match m with
  | .delay => delay
  | .complete => complete
  | .either => delay || complete
  | .both => delay && complete

/-- A link's cycle notice judged: CYCLE is latched when the mode is met and the cycle is not yet done
(R190). -/
def NoticeLink.judge (n : NoticeLink) (complete : Bool) : NoticeLink :=
  if !n.done && n.modeNow.met n.delayMet complete then { n.take .cycle with done := true } else n

/-- The resume mark of a cycle start (R110); a slot start has none. -/
def CycleEvent.resumeMark : CycleEvent → Option Bool
  | .start _ resume _ => some resume
  | .slot _ _ _ _ => none

/-- A step has cut the cycle of the completion record (R112): the next cycle start, when it is on its way, is
a resume start (R110); until it is made, the cycle timer's cut flag is set. The cut counts from CYCLE_CUT
(DESIGN CHOICE; log entry 47). -/
def State.cycleCut (s : State) : Bool :=
  (s.flight.cyclesToNotice.findSome? CycleEvent.resumeMark).getD s.cycleTimer.cut

/-- The complete condition: met when the record becomes complete, which a cycle that a step has cut no longer
does (R190). A report of any kind, or the cycle start itself, that the notice unit takes after the cut so
meets nothing, also when it was made before the cut (DESIGN CHOICE; log entry 47). -/
def State.meetsComplete (s : State) (c : CompletionRecord) : Bool :=
  s.notice.completeMet || (c.complete && !s.cycleCut)

/-- The links' cycle notices judged by the complete condition; before the first cycle start none is (R190). -/
def State.judgeCycle (s : State) : State :=
  match s.notice.completion with
  | none => s
  | some c =>
    let whole := s.meetsComplete c
    { s with notice := { s.notice with completeMet := whole } }.mapNotice fun n => n.judge whole

/-- A link's cycle progress at a cycle start: the flags clear, the mode and d read, and d = 0 met at the
start itself (R190). -/
def NoticeLink.startCycle (n : NoticeLink) : NoticeLink :=
  { n with
    done := false, delayMet := decide (n.delay = 0), modeNow := n.mode, delayNow := n.delay }

/-- A cycle start taken: a new record, no condition met yet but a delay of 0, and the record judged (R189,
R190). -/
def State.noticeCycle (s : State) (cycle : Nat) : State :=
  (({ s with notice :=
    { s.notice with
      completion := some (s.notice.newRecord cycle), completeMet := false, early := [] } }).mapNotice
        NoticeLink.startCycle).judgeCycle

/-- A slot start taken: without the cut flag it meets the delay condition of the links whose d it is
(R190). -/
def State.noticeSlot (s : State) (k : Nat) (cut : Bool) : State :=
  (s.mapNotice fun n =>
    if !cut && decide (n.delayNow = k) then { n with delayMet := true } else n).judgeCycle

/-! ### The fault queues (R191 to R193) -/

/-- The group of a fault code, by its bit in a link's admission mask (11.4, R194). -/
def faultGroup (code : Nat) : Nat :=
  if code < 16 then 0 else if code < 32 then 1 else if code < 48 then 2 else 3

/-- A fault offered to a link (R191). -/
def NoticeLink.offer (n : NoticeLink) (f : FaultEntry) : NoticeLink :=
  if !n.admitMask.getLsbD (faultGroup f.code) || n.overflow then n
  else if n.faults.length < faultDepth then { n.take .faultLogged with faults := n.faults ++ [f] }
  else { n.take .faultLogged with overflow := true }

/-- The payload of PEEK FAULT and POP FAULT: the entry, or NONE with zeros, then the queue count after
the command and the overflow flag (R192). -/
def faultPayload (f : Option FaultEntry) (count : Nat) (overflow : Bool) : List Byte :=
  let e := f.getD ⟨0, 0, 0⟩
  [byte e.code, byte e.subject] ++ beBytes 4 e.detail ++ [byte count] ++ encBool overflow

/-- PEEK FAULT run for `r` (R192). -/
def State.runPeekFault (s : State) (r : Running) : State :=
  let n := s.notice.links[r.link]
  s.respond r .ok (faultPayload n.faults.head? n.faults.length n.overflow)

/-- POP FAULT run for `r` (R192). -/
def State.runPopFault (s : State) (r : Running) : State :=
  let n := s.notice.links[r.link]
  (s.modNotice r.link fun v => { v with faults := v.faults.drop 1 }).respond r .ok
    (faultPayload n.faults.head? (n.faults.drop 1).length n.overflow)

/-- CLEAR FAULT OVERFLOW run for `r` (R193). -/
def State.runClearFaultOverflow (s : State) (r : Running) : State :=
  let n := s.notice.links[r.link]
  (s.modNotice r.link fun v => { v with overflow := false }).respond r .ok
    (encBool n.overflow ++ [byte n.faults.length])

/-! ### The commands -/

/-- NOTICE_LATCH (R185): an event on its way that latches `c` in every link's latch. -/
def execNoticeLatch (c : NoticeClass) (s : State) : Host.Outcome State Fault Refusal :=
  .next (if c ∈ s.flight.latches then
      (s.modFlight fun f => { f with latches := dropFirst c f.latches }).mapNotice fun n => n.take c
    else s)

/-- TAKE_NOTICE (R187). -/
def execTakeNotice (s : State) : Host.Outcome State Fault Refusal :=
  .next (s.onCommand fun r c =>
    match c with
    | .takeNotice => some (s.runTakeNotice r)
    | _ => none)

/-- END_SERVICE (R188). -/
def execEndService (s : State) : Host.Outcome State Fault Refusal :=
  .next (s.onCommand fun r c =>
    match c with
    | .endService => some (s.runEndService r)
    | _ => none)

/-- NOTICE_CYCLE_START (R189): the oldest cycle event on its way, when it is a cycle start. -/
def execNoticeCycleStart (s : State) : Host.Outcome State Fault Refusal :=
  .next (match s.flight.cyclesToNotice with
    | .start n _ _ :: rest => (s.modFlight fun f => { f with cyclesToNotice := rest }).noticeCycle n
    | _ => s)

/-- PORT_COMPLETION_REPORT (R189): the oldest report of the port. -/
def execPortCompletionReport (p : Port) (s : State) : Host.Outcome State Fault Refusal :=
  .next (match s.flight.reports[p] with
    | [] => s
    | r :: rest =>
      let t := s.modFlight fun f => { f with reports := f.reports.set p rest }
      State.judgeCycle { t with notice := t.notice.takeReport p r })

/-- NOTICE_SLOT_START (R190): the oldest cycle event on its way, when it is a slot start. -/
def execNoticeSlotStart (s : State) : Host.Outcome State Fault Refusal :=
  .next (match s.flight.cyclesToNotice with
    | .slot k _ cut _ :: rest => (s.modFlight fun f => { f with cyclesToNotice := rest }).noticeSlot k cut
    | _ => s)

/-- FAULT_OFFERED (R191): the oldest fault on its way that the block `b` logged. -/
def execFaultOffered (b : FaultOrigin) (s : State) : Host.Outcome State Fault Refusal :=
  .next (match takeFirst (fun x => decide (x.1 = b)) s.flight.faults with
    | none => s
    | some (x, rest) =>
      (s.modFlight fun f => { f with faults := rest }).mapNotice fun n => n.offer x.2)

/-- PEEK_FAULT (R192). -/
def execPeekFault (s : State) : Host.Outcome State Fault Refusal :=
  .next (s.onCommand fun r c =>
    match c with
    | .peekFault => some (s.runPeekFault r)
    | _ => none)

/-- POP_FAULT (R192). -/
def execPopFault (s : State) : Host.Outcome State Fault Refusal :=
  .next (s.onCommand fun r c =>
    match c with
    | .popFault => some (s.runPopFault r)
    | _ => none)

/-- CLEAR_FAULT_OVERFLOW (R193). -/
def execClearFaultOverflow (s : State) : Host.Outcome State Fault Refusal :=
  .next (s.onCommand fun r c =>
    match c with
    | .clearFaultOverflow => some (s.runClearFaultOverflow r)
    | _ => none)

end Sys2Proof.Machine
end

