-- ==== Sys2Proof/Machine/Ports.lean ====
section
/-! DEFINITION. Chapters 6 and 7: the effective map, the serving cycle, marks, queries, replies, link
changes, CLEAR PORT FLAGS. -/

namespace Sys2Proof.Machine

open Sys2Proof.Config

/-! ### The effective map (R122, R125) -/

/-- A slot entry's weight (R114). -/
def SlotEntry.weight : SlotEntry → Nat
  | .idle => 0
  | .mark => 1
  | .state => 2
  | .answer => 4

/-- A MARK or STATE entry (R125). -/
def SlotEntry.isMark : SlotEntry → Bool
  | .mark => true
  | .state => true
  | _ => false

/-- The entries kept within what is left of the budget; from the first non-IDLE entry that does not
fit, every entry is IDLE (R122). -/
def trimMap : Nat → List SlotEntry → List SlotEntry
  | _, [] => []
  | left, e :: es =>
    if e.weight ≤ left then e :: trimMap (left - e.weight) es
    else List.replicate (es.length + 1) .idle

/-- No MARK or STATE entry stands after a slot of the effective map (R125). -/
def closesCycle (map : List SlotEntry) (slot : Nat) : Bool :=
  !(map.drop (slot + 1)).any SlotEntry.isMark

/-! ### Departures (R133 to R135) -/

/-- What a departure removed from the queue counts: one, or one for each reply taken and not begun
(R150). -/
def Departure.cancelCount (d : Departure) : Nat :=
  match d.what with
  | .reply (some rest) => rest.length
  | _ => 1

/-- The departure queue emptied, its departures counted as cancelled (R130, R132, R133, R135, R150). -/
def PortUnit.cancelDepartures (q : PortUnit) : PortUnit :=
  let n := (q.departures.map Departure.cancelCount).sum
  { q.count (fun c => { c with cancelled := c.cancelled + BitVec.ofNat 32 n }) with departures := [] }

/-- A departure scheduled, or counted as cancelled at a full queue (R134). -/
def PortUnit.schedule (q : PortUnit) (d : Departure) : PortUnit :=
  if q.departures.length < departureDepth then { q with departures := q.departures ++ [d] }
  else q.count fun c => { c with cancelled := c.cancelled + 1 }

/-- The departure instant: the slot start of slot `k` of cycle `n`, plus the stagger (R134). -/
def PortUnit.dueAt (q : PortUnit) (k n : Nat) : Stamp :=
  (Stamp.mk n (k * slotNanos) 0).plus ((q.stagger * 16000 : Nat) : Int)

/-- What slot `k` of the effective map calls for (R134). -/
def PortUnit.calledFor (q : PortUnit) (k : Nat) : Option Departing :=
  match (q.map.getD [])[k]? with
  | some .mark => some (.mark k)
  | some .state => some (.state k)
  | some .answer => some (.reply none)
  | _ => none

/-- The departure that slot `k` of cycle `n` calls for is scheduled, station time being `now`. With a
stagger of 0 its instant is the slot start's, which has come (R134). -/
def PortUnit.serveSlot (q : PortUnit) (k n : Nat) (now : Stamp) : PortUnit :=
  match q.calledFor k with
  | some w =>
    let due := q.dueAt k n
    q.schedule ⟨due, decide (q.stagger = 0) || decide (0 ≤ now.diff due), w⟩
  | none => q

/-! ### The answer queue (R141, R144) -/

/-- The answer queue aged at a cycle start: entries reaching 0 are removed and counted (R144). -/
def PortUnit.ageAnswers (q : PortUnit) : PortUnit :=
  let aged := q.answers.map fun a => { a with remaining := a.remaining - 1 }
  let kept := aged.filter fun a => decide (a.remaining ≠ 0)
  { q.count (fun c => { c with expired := c.expired + BitVec.ofNat 32 (aged.length - kept.length) }) with
    answers := kept }

/-- The answer queue emptied, its entries counted as dropped (R130, R132). -/
def PortUnit.dropAnswers (q : PortUnit) : PortUnit :=
  { q.count (fun c => { c with dropped := c.dropped + BitVec.ofNat 32 q.answers.length }) with
    answers := [] }

/-! ### Cycle starts (R121 to R124, R129, R133) -/

/-- A port's number as a fault's subject: 1 to 6 (11.4). -/
def portNumber (p : Port) : Nat :=
  p.val + 1

/-- A port that does not serve the cycle clears its map, word and flags (R121, R123, R130). -/
def PortUnit.idleCycle (q : PortUnit) (n : Nat) : PortUnit :=
  { q with map := none, word := none, trimmed := false, openingSent := false, cycle := n }

/-- The phases of R133 before the reports: leftover departures, expiry, map and word, with the stagger
of the cycle (R149). -/
def PortUnit.serveCycle (q : PortUnit) (n planId : Nat) (map : List SlotEntry) : PortUnit :=
  let eff := trimMap q.settings.budget map
  { (q.cancelDepartures).ageAnswers with
    state := .serving
    map := some eff
    word := some ⟨BitVec.ofNat 8 planId, BitVec.ofNat 24 n⟩
    trimmed := decide (eff ≠ map)
    openingSent := false
    stagger := q.settings.stagger
    cycle := n }

/-- The port serves the cycle whose start names `named`: it is SERVING, or ARMED with its link UP, and a
bank is ACTIVE (R121, R129). -/
def PortUnit.serves (q : PortUnit) (named : Option (BankName × Nat)) : Bool :=
  named.isSome &&
  (decide (q.state = .serving) || (decide (q.state = .armed) && decide (q.link = .up)))

/-- A cycle start taken by a port (R121 to R124, R129, R133). -/
def State.portCycle (s : State) (p : Port) (n : Nat) (named : Option (BankName × Nat)) : State :=
  match named with
  | some (nm, planId) =>
    if s.ports[p].serves named then
      let q := s.ports[p]
      let v := q.serveCycle n planId (s.plans.bank nm).maps[p]
      let t := s.modPort p fun _ => v.serveSlot 0 n s.timebase.time.stamp
      let logged :=
        if v.trimmed && !q.trimmed then t.logFault (.port p) 32 (portNumber p) planId else t
      logged.portReport p ⟨n, if (v.map.getD []).any SlotEntry.isMark then .marksDue else .noneDue⟩
    else (s.modPort p fun q => q.idleCycle n).portReport p ⟨n, .notServing⟩
  | none => (s.modPort p fun q => q.idleCycle n).portReport p ⟨n, .notServing⟩

/-- The oldest event on its way to the port, when it is a cycle start, is taken (R133). -/
def State.takePortCycle (s : State) (p : Port) : State :=
  match s.flight.toPort[p] with
  | .start n named :: rest =>
    (s.modFlight fun f => { f with toPort := f.toPort.set p rest }).portCycle p n named
  | _ => s

/-- The next event is a cycle start the port serves and at which an answer queue entry expires (R144). -/
def State.answerExpiryDue (s : State) (p : Port) : Bool :=
  match s.flight.toPort[p] with
  | .start _ named :: _ =>
    s.ports[p].serves named && s.ports[p].answers.any fun a => decide (a.remaining ≤ 1)
  | _ => false

/-! ### Mark departures (R136 to R139) -/

/-- A departure's instant has come: by an earlier tick or before an earlier step, whatever a step has made
of station time since (R135), or by the present reading. -/
def State.isDue (s : State) (d : Departure) (x : Elapsed) : Bool :=
  d.came || decide (0 ≤ (s.reading x).diff d.due)

/-- The fields of the mark a port sends for a slot, read as it leaves (R124, R125, R136, R137). -/
def State.markFieldsAt (s : State) (p : Port) (slot : Nat) (x : Elapsed) : MarkFields :=
  let q := s.ports[p]
  let now := s.reading x
  { seconds := now.sec
    nanos := now.ns
    correction := now.fu + q.settings.egress
    seq := q.seq + 1
    opening := !q.openingSent
    closing := closesCycle (q.map.getD []) slot
    holdover := decide (s.steering.state = .holdover)
    untraceable := decide (s.outputClass = 7)
    cls := s.outputClass
    word := q.word.getD ⟨0#8, 0#24⟩ }

/-- The trailer of a STATE mark, read as it leaves (R138). -/
def State.trailerAt (s : State) (p : Port) (slot : Nat) : Trailer :=
  { steering := s.steering.state.code
    kind := s.selectedKind
    age := s.presentedAge
    scale := s.steering.scale
    plan := ((s.ports[p].word.map (·.plan.toNat)).getD 0)
    slot := slot }

/-- A mark that is not muted leaves the port (R136). -/
def State.sendMark (s : State) (p : Port) (slot : Nat) (isState : Bool) (x : Elapsed) : State :=
  let m := s.markFieldsAt p slot x
  let frame := if isState then Frame.state m (s.trailerAt p slot) else Frame.mark m
  let t := s.modPort p fun q =>
    { q.count (fun c =>
        { c with marks := c.marks + 1, states := if isState then c.states + 1 else c.states }) with
      seq := m.seq, openingSent := true, sent := q.sent ++ [etherFrame (portAddress p) frame] }
  if m.closing then t.portReport p ⟨s.ports[p].cycle, .closed⟩ else t

/-- A mark departure: the mark is muted by its class, or leaves (R136, R139). -/
def State.departMark (s : State) (p : Port) (slot : Nat) (isState : Bool) (x : Elapsed) : State :=
  let t := s.modPort p fun q => { q with departures := q.departures.drop 1 }
  if s.ports[p].settings.mute ≤ s.outputClass then
    t.modPort p fun q => q.count fun c => { c with muted := c.muted + 1 }
  else t.sendMark p slot isState x

/-! ### Reply departures (R145, R146) -/

/-- The reply to an answer queue entry, its class read as it leaves (R146). -/
def replyFrame (a : Answer) (cls : Nat) : Frame :=
  .reply a.requester a.seq a.arrival.sec a.arrival.ns a.arrival.fu cls

/-- A reply departure: up to four oldest entries are taken out of the queue when it begins, and the
next `n` replies of the group leave; with `n` 0 no reply begins and nothing is taken. The group stays in
the departure queue until its last reply has left, and once begun its instant has come, so that the rest
leave one after another whatever a step makes of station time (R145, R146; log entries 19 and 20). -/
def State.departReply (s : State) (p : Port) (d : Departure) (taken : Option (List Answer)) (n : Nat) :
    State :=
  let cls := s.outputClass
  if n = 0 then s
  else s.modPort p fun q =>
    let group := taken.getD (q.answers.take 4)
    let waiting := if taken.isNone then q.answers.drop 4 else q.answers
    let left := group.drop n
    { q.count (fun c =>
        { c with replies := c.replies + BitVec.ofNat 32 (group.take n).length }) with
      answers := waiting
      departures :=
        if left.isEmpty then q.departures.drop 1
        else { d with came := true, what := .reply (some left) } :: q.departures.drop 1
      sent := q.sent ++ (group.take n).map fun a => etherFrame (portAddress p) (replyFrame a cls) }

/-! ### Queries (R141, R142) -/

/-- A QUERY taken by a SERVING port at the reading `arrival` (R141, R142). -/
def State.takeQuery (s : State) (p : Port) (requester : Nat) (seq : Seq) (arrival : Stamp) : State :=
  let q := s.ports[p]
  if q.answers.any fun a => decide (a.requester = requester) && decide (a.seq = seq) then
    s.modPort p fun v => v.count fun c => { c with duplicates := c.duplicates + 1 }
  else if q.answers.length < answerDepth then
    s.modPort p fun v =>
      { v.count (fun c => { c with taken := c.taken + 1 }) with
        answers := v.answers ++
          [⟨requester, seq, arrival.plus (-(v.settings.ingress : Int)), 2⟩] }
  else
    let t := s.modPort p fun v =>
      { v.count (fun c => { c with overruns := c.overruns + 1 }) with overrun := true }
    if q.overrun then t else t.logFault (.port p) 48 (portNumber p) s.cycleDetail

/-! ### Port states and links (R128, R130 to R132) -/

/-- Enabled written YES (R128). -/
def PortUnit.enable (q : PortUnit) : PortUnit :=
  if q.state = .off then { q with state := .armed } else q

/-- Enabled written NO (R132). -/
def PortUnit.disable (q : PortUnit) : PortUnit :=
  if q.state = .off then q
  else
    { q.cancelDepartures.dropAnswers with
      state := .off, overrun := false, map := none, word := none, trimmed := false
      openingSent := false }

/-- The port's link goes down (R130). -/
def State.portDown (s : State) (p : Port) : State :=
  let q := s.ports[p]
  if q.link = .down then s
  else if q.state = .armed ∨ q.state = .serving then
    (s.modPort p fun v =>
      { v.cancelDepartures.dropAnswers.count (fun c => { c with linkLosses := c.linkLosses + 1 }) with
        state := .down, link := .down }).logFault (.port p) 49 (portNumber p) s.cycleDetail
  else s.modPort p fun v => { v with link := .down }

/-- The port's link comes up (R131). -/
def PortUnit.linkUp (q : PortUnit) : PortUnit :=
  { q with link := .up, state := if q.state = .down then .armed else q.state }

/-! ### CLEAR PORT FLAGS (R147) -/

/-- The port of a number 1 to 6. -/
def portOf (n : Nat) : Option Port :=
  if h : 1 ≤ n ∧ n ≤ 6 then some ⟨n - 1, by omega⟩ else none

/-- CLEAR PORT FLAGS run for `r` (R147). A port named more than once appears in the payload once for
each naming, each time with its flag before the command (DESIGN CHOICE: R147 says that it is cleared
once, and not how often it is answered; log entry 42). -/
def State.runClearPortFlags (s : State) (r : Running) (numbers : List Nat) : State :=
  let named := numbers.filterMap portOf
  if !s.access.canWrite r.link 6 then s.answer r .denied
  else if numbers.isEmpty ∨ 6 < numbers.length then s.answer r .badValue
  else if named.length ≠ numbers.length then s.answer r .badIndex
  else if named.any fun p => s.access.guarded 6 (32 * p.val + 13) then s.answer r .guarded
  else
    let before := named.flatMap fun p => byte (portNumber p) :: encBool s.ports[p].overrun
    let t := named.foldl (fun v p => v.modPort p fun q => { q with overrun := false }) s
    t.respond r .ok before

/-! ### The commands -/

/-- PORT_CYCLE_START (R133). -/
def execPortCycleStart (p : Port) (s : State) : Host.Outcome State Fault Refusal :=
  .next (s.takePortCycle p)

/-- ANSWER_ENTRY_EXPIRY (R144): the cycle start at which an answer queue entry expires, handled whole
(R133: no other event comes between its phases); nothing when the next cycle start is not one. -/
def execAnswerEntryExpiry (p : Port) (s : State) : Host.Outcome State Fault Refusal :=
  .next (if s.answerExpiryDue p then s.takePortCycle p else s)

/-- PORT_SLOT_START (R134): the oldest event on its way, when it is a slot start. -/
def execPortSlotStart (p : Port) (s : State) : Host.Outcome State Fault Refusal :=
  .next (match s.flight.toPort[p] with
    | .slot k n cut :: rest =>
      let t := s.modFlight fun f => { f with toPort := f.toPort.set p rest }
      if s.ports[p].state = .serving ∧ cut = false then
        t.modPort p fun q => q.serveSlot k n s.timebase.time.stamp
      else t
    | _ => s)

/-- MARK_DEPARTURE (R136): the oldest scheduled departure, when it is a mark and its instant has come. -/
def execMarkDeparture (p : Port) (x : Elapsed) (s : State) : Host.Outcome State Fault Refusal :=
  .next (match s.ports[p].state, s.ports[p].departures with
    | .serving, d :: _ =>
      if s.isDue d x then
        match d.what with
        | .mark k => s.departMark p k false x
        | .state k => s.departMark p k true x
        | .reply _ => s
      else s
    | _, _ => s)

/-- REPLY_DEPARTURE (R145): the oldest scheduled departure, when it is a reply group and its instant
has come; `n` of its replies leave. -/
def execReplyDeparture (p : Port) (n : Nat) (x : Elapsed) (s : State) :
    Host.Outcome State Fault Refusal :=
  .next (match s.ports[p].state, s.ports[p].departures with
    | .serving, d :: _ =>
      if s.isDue d x then
        match d.what with
        | .reply taken => s.departReply p d taken n
        | _ => s
      else s
    | _, _ => s)

/-- QUERY_RECEIVED (R141): a QUERY that passes the format checks, at a SERVING port. -/
def execQueryReceived (p : Port) (bytes : List Byte) (x : Elapsed) (s : State) :
    Host.Outcome State Fault Refusal :=
  .next (match s.ports[p].state, readFrame bytes with
    | .serving, some (.query r q) => s.takeQuery p r q (s.reading x)
    | _, _ => s)

/-- PORT_UNEXPECTED_FRAME (R140): a MARK, STATE or REPLY, or a frame that fails a format check. -/
def execPortUnexpectedFrame (p : Port) (bytes : List Byte) (s : State) :
    Host.Outcome State Fault Refusal :=
  .next (match s.ports[p].state, readFrame bytes with
    | .serving, none =>
      s.modPort p fun q => q.count fun c => { c with badFrames := c.badFrames + 1 }
    | .serving, some (.query _ _) => s
    | .serving, some _ =>
      s.modPort p fun q => q.count fun c => { c with unexpected := c.unexpected + 1 }
    | _, _ => s)

/-- PORT_CUT (R135): the oldest event on its way, when it is the cut. -/
def execPortCut (p : Port) (s : State) : Host.Outcome State Fault Refusal :=
  .next (match s.flight.toPort[p] with
    | .cut :: rest =>
      let t := s.modFlight fun f => { f with toPort := f.toPort.set p rest }
      if s.ports[p].state = .serving then t.modPort p PortUnit.cancelDepartures else t
    | _ => s)

/-- PORT_LINK_DOWN (R130). -/
def execPortLinkDown (p : Port) (s : State) : Host.Outcome State Fault Refusal :=
  .next (s.portDown p)

/-- PORT_LINK_UP (R131). -/
def execPortLinkUp (p : Port) (s : State) : Host.Outcome State Fault Refusal :=
  .next (s.modPort p PortUnit.linkUp)

/-- CLEAR_PORT_FLAGS (R147). -/
def execClearPortFlags (s : State) : Host.Outcome State Fault Refusal :=
  .next (s.onCommand fun r c =>
    match c with
    | .clearPortFlags ps => some (s.runClearPortFlags r ps)
    | _ => none)

end Sys2Proof.Machine
end

