-- ==== Sys2Proof/Machine/Timebase.lean ====
section
/-! DEFINITION. Chapter 1: the advance of station time, the rate word and its limit, steps, READ TIME
and STEP TIME. The tick also counts what other blocks count in oscillator ticks, and notes the placed
output times and the departure instants that the advance reaches. -/

namespace Sys2Proof.Machine

open Sys2Proof.Config

/-- The fine-fraction units one tick adds (R2). -/
def Timebase.advance (t : Timebase) : Nat :=
  ((tickUnits : Int) + t.rate).toNat

/-- The reading at an instant that lies `past` units before the end of the tick from `old` to `new` (R4): at
the tick's very end that tick is the most recent one, with nothing elapsed; earlier, the tick before it is,
with the elapsed part worked back from the end (R3). -/
def readingBack (old new : StationTime) (past : Nat) : Stamp :=
  if past = 0 then new.reading 0 else old.reading (partOfTick past)

/-- What the advance from `old` to `new` hands to the cycle timer: a second boundary when it carries
nanoseconds across 10^9 (R3), a slot crossing when it carries them across k × 25 ms (R111), each with
the reading of station time at the crossing (R4). -/
def crossings (old new : StationTime) : List TimebaseEvent :=
  if new.sec ≠ old.sec then
    [.boundary new.sec (readingBack old new (new.ns * unitsPerNano + new.frac))]
  else if new.ns / slotNanos ≠ old.ns / slotNanos then
    [.slot (new.ns / slotNanos)
      (readingBack old new (new.ns % slotNanos * unitsPerNano + new.frac))]
  else []

/-- The line is HIGH at `part` fu of the last tick: a fall in that tick comes at the place of the rise it
ends (R154). -/
def PulseUnit.highAt (o : PulseUnit) (part : Elapsed) : Bool :=
  o.high && !(decide (o.fall = 0) && decide (o.risePart ≤ part))

/-- A pulse output over one tick: a fall of an earlier tick is taken, a HIGH line's fall count is
decremented (R154), and a rise time the advance crosses is noted (R152). -/
def PulseUnit.tick (o : PulseUnit) (stepWaits : Bool) (start adv : Nat) : PulseUnit :=
  let v := { o with high := o.high && decide (o.fall ≠ 0), fall := o.fall - 1 }
  { v with passed := passedOver o.passed stepWaits start adv o.next v.highAt }

/-- A coded line over one tick: a transmission that ended in an earlier tick is over, the ticks of
another are counted (R158). -/
def CodedLine.tick : CodedLine → CodedLine
  | .sending d p bs (n + 1) => .sending d p bs n
  | _ => .idle

/-- The line is SENDING at `part` fu of the last tick: a transmission that ends in that tick ends at the
place at which it began (R158). -/
def CodedUnit.sendingAt (o : CodedUnit) (part : Elapsed) : Bool :=
  match o.line with
  | .idle => false
  | .sending _ _ _ 0 => decide (part < o.beginPart)
  | .sending _ _ _ _ => true

/-- A coded-time output over one tick: its transmission's ticks are counted (R158), and a due time the
advance crosses is noted (R157). -/
def CodedUnit.tick (o : CodedUnit) (stepWaits : Bool) (start adv : Nat) : CodedUnit :=
  let v := { o with line := o.line.tick }
  { v with passed := passedOver o.passed stepWaits start adv o.next v.sendingAt }

/-- A port when station time stands at `now`: the departures whose instant has come by then keep that it
has, at each tick's end and at a step (R134, R135; log entry 20). -/
def PortUnit.reach (q : PortUnit) (now : Stamp) : PortUnit :=
  { q with departures := q.departures.map fun d => { d with came := d.came || decide (0 ≤ now.diff d.due) } }

/-- An input unit over one tick: the ticks of a measurement (R27), of the rest of a measured lead (R27)
and of a request in transmission (R35) are counted. -/
def InputUnit.tick (i : InputUnit) : InputUnit :=
  { i with
    receiver := match i.receiver with
      | .counting p n => .counting p (n + 1)
      | .leadWait n low => .leadWait (n - 1) low
      | r => r
    transmitter := match i.transmitter with
      | .idle => .idle
      | .sending d p bs n => .sending d p bs (n - 1) }

/-- One oscillator tick (R2, R3, R134, R152, R154, R157, R158). -/
def State.tick (s : State) : State :=
  let old := s.timebase.time
  let adv := s.timebase.advance
  let new := StationTime.ofUnits ((old.units + adv : Nat) : Int)
  { s with
    timebase := { s.timebase with time := new }
    inputs := s.inputs.map InputUnit.tick
    ports := s.ports.map fun q => q.reach new.stamp
    pulses := Vector.ofFn fun k => s.pulses[k].tick (!s.flight.stepsToPulse[k].isEmpty) old.units adv
    coded := Vector.ofFn fun m => s.coded[m].tick (!s.flight.stepsToCoded[m].isEmpty) old.units adv
    flight := { s.flight with toCycleTimer := s.flight.toCycleTimer ++ crossings old new } }

/-- A rate word taken: clamped to ±rate limit (R7). -/
def Timebase.takeRate (t : Timebase) (w : Int) : Timebase :=
  { t with rate := saturate t.rateLimit w }

/-- A rate-limit write: stored clamped, and the rate word clamped to it at once (R8). -/
def Timebase.setRateLimit (t : Timebase) (v : Int) : Timebase :=
  let m := clamp 0 rateMax v
  { t with rateLimit := m, rate := saturate m t.rate }

/-- A trim write: stored clamped, the rate word unchanged (R9). -/
def Timebase.setTrim (t : Timebase) (v : Int) : Timebase :=
  { t with trim := saturate rateMax v }

/-- A step applied: station time moved exactly by `offset` fu, the low 28 bits of the fine fraction
kept, the step record set, the step count incremented, the step announced (R10, R11). A departure whose
instant has come within the tick by the reading just before the step keeps that it has, so that it may still
leave before the cut (R135; log entry 20). The announcement carries the time that the timebase then holds, of
the tick's start, without the `x` fu elapsed, and the outputs place from it; the step record and STEP TIME's
stamp are readings, with them (DESIGN CHOICE: which of the two is R155's station time just after the step;
log entry 46). -/
def State.applyStep (s : State) (origin : StepOrigin) (offset : Int) (x : Elapsed) : State :=
  let after := StationTime.ofUnits (s.timebase.time.units + offset * unitsPerFu)
  State.announce
    { s with
      timebase := { s.timebase with
        time := after
        record := some ⟨origin, offset, after.reading x⟩
        stepCount := s.timebase.stepCount + 1 }
      ports := s.ports.map fun q => q.reach (s.reading x) }
    ⟨origin, offset, after⟩

/-- The offset of a STEP TIME in fu (R11). -/
def stepOffset (seconds nanos : Int) : Int :=
  seconds * fuPerSecond + nanos * fuPerNano

/-- READ TIME run for `r` (R13). -/
def State.runReadTime (s : State) (r : Running) (x : Elapsed) : State :=
  if !s.access.canRead r.link 4 then s.answer r .denied
  else s.respond r .ok
    (encStamp (s.reading x) ++ encField (-rateMax) rateMax s.timebase.rate ++ encCount s.timebase.stepCount)

/-- STEP TIME run for `r` (R14). -/
def State.runStepTime (s : State) (r : Running) (seconds nanos : Int) (x : Elapsed) : State :=
  s.checkedWrite r 4 0 <|
    if nanos < -999999999 ∨ 999999999 < nanos then s.answer r .badValue
    else if (0 < seconds ∧ nanos < 0) ∨ (seconds < 0 ∧ 0 < nanos) then s.answer r .badValue
    else if seconds = 0 ∧ nanos = 0 then s.respond r .ok (encStamp (s.reading x))
    else
      let t := s.applyStep .command (stepOffset seconds nanos) x
      t.respond r .ok (encStamp (t.reading x))

/-- OSCILLATOR_TICK (R2). -/
def execOscillatorTick (s : State) : Host.Outcome State Fault Refusal :=
  .next s.tick

/-- RATE_WORD_TAKEN (R7): the oldest rate word on its way is taken. -/
def execRateWordTaken (s : State) : Host.Outcome State Fault Refusal :=
  match s.flight.rateWords with
  | [] => .next s
  | w :: ws =>
    .next { s with timebase := s.timebase.takeRate w, flight := { s.flight with rateWords := ws } }

/-- STEP_REQUEST_APPLIED (R10): the oldest automatic step request on its way is applied. -/
def execStepRequestApplied (x : Elapsed) (s : State) : Host.Outcome State Fault Refusal :=
  match s.flight.stepRequests with
  | [] => .next s
  | d :: ds =>
    .next (State.applyStep { s with flight := { s.flight with stepRequests := ds } } .steering d x)

/-- READ_TIME (R13). -/
def execReadTime (x : Elapsed) (s : State) : Host.Outcome State Fault Refusal :=
  .next (s.onCommand fun r c =>
    match c with
    | .readTime => some (s.runReadTime r x)
    | _ => none)

/-- STEP_TIME (R14). -/
def execStepTime (x : Elapsed) (s : State) : Host.Outcome State Fault Refusal :=
  .next (s.onCommand fun r c =>
    match c with
    | .stepTime sec ns => some (s.runStepTime r sec ns x)
    | _ => none)

end Sys2Proof.Machine
end

