-- ==== Sys2Proof/Machine/Entries.lean ====
section
/-! DEFINITION. The entries of the nine sections: how each reads, what a write of each stores, READ
ENTRY, WRITE ENTRY and LOCK ACCESS (R64, R106, R116, R148, R160, R177 to R181, R194). -/

namespace Sys2Proof.Machine

open Sys2Proof.Config

/-! ### Enumerations by their place in the owning table's list (R163) -/

/-- A source state's number (4.3). -/
def SourceState.code : SourceState → Nat
  | .disabled => 0
  | .absent => 1
  | .trial => 2
  | .usable => 3
  | .faulted => 4

/-- A cause's number (R75). -/
def Cause.code : Cause → Nat
  | .loss => 0
  | .secondsJump => 1
  | .unlockedReceiver => 2
  | .excursion => 3
  | .excursionHard => 4
  | .manual => 5

/-- A parity's number (2.1, 8.1). -/
def Parity.code : Parity → Nat
  | .none => 0
  | .even => 1
  | .odd => 2

/-- The parity of a number. -/
def parityOf : Nat → Parity
  | 0 => .none
  | 1 => .even
  | _ => .odd

/-- A pairing mode's number (2.1). -/
def PairingMode.code : PairingMode → Nat
  | .follows => 0
  | .precedes => 1

/-- A cycle-notice mode's number (11.3). -/
def CycleMode.code : CycleMode → Nat
  | .delay => 0
  | .complete => 1
  | .either => 2
  | .both => 3

/-- The cycle-notice mode of a number. -/
def cycleModeOf : Nat → CycleMode
  | 0 => .delay
  | 1 => .complete
  | 2 => .either
  | _ => .both

/-- A port state's number (7.2). -/
def PortState.code : PortState → Nat
  | .off => 0
  | .armed => 1
  | .serving => 2
  | .down => 3

/-- A slot entry's byte (R168). -/
def SlotEntry.code : SlotEntry → Nat
  | .idle => 0
  | .mark => 1
  | .state => 2
  | .answer => 3

/-- The slot entry of a byte; none above 3 (R168). -/
def slotEntryOf (b : Byte) : Option SlotEntry :=
  match b.toNat with
  | 0 => some .idle
  | 1 => some .mark
  | 2 => some .state
  | 3 => some .answer
  | _ => none

/-- A set of steering options (R168). -/
def StepOptions.code (o : StepOptions) : Nat :=
  (if o.stepPermit then 1 else 0) + (if o.fastAcquire then 2 else 0) + (if o.squelch then 4 else 0)

/-- The steering options of a byte (R168). -/
def stepOptionsOf (b : Byte) : StepOptions :=
  ⟨b.getLsbD 0, b.getLsbD 1, b.getLsbD 2⟩

/-- One byte holding a small number. -/
def one (n : Nat) : List Byte :=
  [byte n]

/-- A signed number in one byte. -/
def oneInt (v : Int) : List Byte :=
  beInt 1 v

/-! ### SOURCES: reading (R64) -/

/-- A descriptor record (R62, R168). -/
def encDescriptor (d : Descriptor) : List Byte :=
  encOption (encField (-16000000) 16000000) d.deviceDelay ++ encOption one d.cls ++ d.identity

/-- The content of a held sentence. Its receiver status reads as two fields, a flag byte and a class byte (R29),
where R164 packs the two into one byte of the sentence and no rule lays out the entry (DEDUCED; log entry 31). -/
def TimeOfDay.bytes (t : TimeOfDay) : List Byte :=
  beBytes 6 t.seconds ++ oneInt t.scale ++ encBool t.locked ++ one t.cls

/-- The held item of an input unit, which may be none: a presence byte (R168), then its kind, 0 a pulse
and 1 a sentence, its content and its window end (log entry 31). -/
def Held.bytes : Held → List Byte
  | .nothing => [0#8]
  | .pulse c w => 1#8 :: (one 0 ++ encStamp c ++ encStamp w)
  | .sentence t w => 1#8 :: (one 1 ++ t.bytes ++ encStamp w)

/-- The tracker state, and the expected time X as an optional part, present in TRACKING alone: the state table
of chapter 2 uses X there and does not call it absent elsewhere (DEDUCED; log entry 31). -/
def Tracker.bytes : Tracker → List Byte
  | .idle => one 0 ++ encOption encStamp none
  | .seeking => one 1 ++ encOption encStamp none
  | .tracking x _ => one 2 ++ encOption encStamp (some x)

/-- The receiver state; the rest of a measured lead reads as CHARACTER. -/
def Receiver.code : Receiver → Nat
  | .idle => 0
  | .lowIdle => 0
  | .character _ _ => 1
  | .inBreak => 2
  | .measuring => 3
  | .counting _ _ => 3
  | .leadWait _ _ => 1

/-- The assembler state and the assembly buffer. A kind or length not received yet, or of no sentence being
built, reads as 0 and the body as an empty list, where the manual is silent (DESIGN CHOICE; log entry 44). -/
def Assembler.bytes : Assembler → List Byte
  | .waitBreak => [0#8, 0#8, 0#8, 0#8]
  | .lead => [1#8, 0#8, 0#8, 0#8]
  | .kind => [2#8, 0#8, 0#8, 0#8]
  | .length k => [3#8, k, 0#8, 0#8]
  | .body k n got => [4#8, k, byte n] ++ encList (fun b => [b]) got
  | .check k n got => [5#8, k, byte n] ++ encList (fun b => [b]) got

/-- Whether a request is in transmission. -/
def Transmitter.busy : Transmitter → Bool
  | .idle => false
  | .sending _ _ _ _ => true

/-- The readable state of an input unit: the state table of chapter 2 in its order. -/
def InputUnit.stateBytes (i : InputUnit) : List Byte :=
  i.tracker.bytes ++ encOption (beBytes 6) i.anchor ++ encCount i.intervals ++ i.held.bytes ++
  one i.receiver.code ++ i.assembler.bytes ++ encOption one i.requestTimer ++
  encBool i.transmitter.busy ++ oneInt i.lastScale

/-- The counters of an input unit (R41). -/
def InputCounters.bytes (c : InputCounters) : List Byte :=
  [c.framing, c.parity, c.unframed, c.badSentences, c.orphans, c.badDescriptors, c.descriptors,
    c.requestsSent, c.requestsSkipped, c.measurements].flatMap encCount

/-- A cycle word as it travels (R166). -/
def Sample.bytes (m : Sample) : List Byte :=
  encStamp m.t1 ++ encStamp m.t2 ++ encWord m.word

/-- The outstanding query of an uplink unit. -/
def Outstanding.bytes (o : Outstanding) : List Byte :=
  beBytes 2 o.seq.toNat ++ beBytes 6 o.requester ++ encStamp o.t3 ++ one o.seen

/-- The readable state of an uplink unit: the state table of chapter 3 in its order. The table gives no range
to the delays of the delay window: each takes the 4 bytes of R53's 0 to max delay, and their mean 8 bytes
(DEDUCED; log entry 31). -/
def UplinkUnit.stateBytes (i : UplinkUnit) : List Byte :=
  encBool i.running ++ encOption Sample.bytes i.sample ++ encOption encWide i.forward ++
  encOption Outstanding.bytes i.outstanding ++ beBytes 2 i.seq.toNat ++ encList (beInt 4) i.window ++
  encOption encWide i.mean ++ encBool i.released ++ encBool i.judging ++ encOption one i.lastClass ++
  oneInt i.lastScale

/-- The counters of an uplink unit (R60). -/
def UplinkCounters.bytes (c : UplinkCounters) : List Byte :=
  [c.marks, c.badFrames, c.unexpected, c.incomplete, c.mismatch, c.unopened, c.released, c.queriesSent,
    c.queriesSkipped, c.queriesLost, c.queriesAbandoned, c.repliesMatched, c.repliesDropped,
    c.repliesNoForward, c.badDelays, c.delaysAccepted].flatMap encCount

/-- The settings, counters and readable state of an input unit, by offset (R64). -/
def InputUnit.read (i : InputUnit) : Nat → Option (List Byte)
  | 16 => some (encField 1000 500000 i.settings.halfWidth)
  | 17 => some (encField 1 65535 i.settings.divisor)
  | 18 => some (one i.settings.parity.code)
  | 19 => some (encBool i.settings.armed)
  | 20 => some (one i.settings.mode.code)
  | 21 => some (encField 10 990 i.settings.window)
  | 24 => some i.counters.bytes
  | 25 => some i.stateBytes
  | _ => none

/-- The settings, counters and readable state of an uplink unit, by offset (R64). -/
def UplinkUnit.read (i : UplinkUnit) : Nat → Option (List Byte)
  | 16 => some (encField 0 1600000 i.settings.ingress)
  | 17 => some (encField 0 1600000 i.settings.egress)
  | 18 => some (beBytes 6 i.settings.requester)
  | 19 => some (one i.settings.slot)
  | 20 => some (one i.settings.interval)
  | 21 => some (encField 0 16000000 i.settings.maxDelay)
  | 24 => some i.counters.bytes
  | 25 => some i.stateBytes
  | _ => none

/-- An external source's unit, by offset. -/
def State.readUnit (s : State) (e : Ext) (off : Nat) : Option (List Byte) :=
  match inputOf e, uplinkOf e with
  | some u, _ => s.inputs[u].read off
  | none, some u => s.uplinks[u].read off
  | none, none => none

/-- The advertised values of an external source (R64): an IN entry's descriptor record, an UP entry's
last upstream class. -/
def State.advertisedBytes (s : State) (e : Ext) : List Byte :=
  match uplinkOf e with
  | some u => encOption one s.uplinks[u].lastClass
  | none => encOption encDescriptor s.selector.entries[e].descriptor

/-- The cable delay as it reads: 0 for an UP entry (R64). -/
def State.cableDelayRead (s : State) (e : Ext) : Int :=
  if (uplinkOf e).isSome then 0 else s.selector.entries[e].cableDelay

/-- An external source's entries, by offset (R64). The effective compensation (offset 8) has a presence byte
(R168) for an IN entry too, whose compensation is never absent, and takes 8 bytes after it (DEDUCED: one
entry form for every external source, which R168 does not say; log entry 31). -/
def State.readSource (s : State) (e : Ext) (off : Nat) : Option (List Byte) :=
  let n := s.selector.entries[e]
  match off with
  | 0 => some (encBool (decide (n.state ≠ .disabled)))
  | 1 => some (one n.priority)
  | 2 => some (one n.cls)
  | 3 => some (encField 0 1600000000 (s.cableDelayRead e))
  | 4 => some (encField (-16000000) 16000000 n.deviceDelay)
  | 5 => some (one n.state.code)
  | 6 => some (s.advertisedBytes e)
  | 7 => some (one (s.effectiveClass e))
  | 8 => some (encOption encWide (s.compensation e))
  | 9 => some [byte n.goodRun, byte n.missRun]
  | 10 => some (encWide n.learned ++ one n.learnedCount)
  | 11 => some (encOption (beBytes 2) n.retry ++ encOption (beBytes 2) n.restore)
  | 12 => some ([n.good, n.bad, n.misses, n.strays].flatMap encCount)
  | _ => s.readUnit e off

/-- LOCAL's entries, by offset (R64). -/
def readLocal : Nat → Option (List Byte)
  | 0 => some (encBool true)
  | 1 => some (one localPriority.val)
  | 2 => some (one 7)
  | 3 => some (encField 0 1600000000 0)
  | 4 => some (encField (-16000000) 16000000 0)
  | 5 => some (one SourceState.usable.code)
  | 6 => some (one 0)
  | 7 => some (one 7)
  | 8 => some (one 0)
  | 9 => some [0#8, 0#8]
  | 10 => some (encWide 0 ++ one 0)
  | 11 => some [0#8, 0#8]
  | 12 => some ([0, 0, 0, 0].flatMap encCount)
  | _ => none

/-- A fallback stack entry (R75). -/
def StackEntry.bytes (t : StackEntry) : List Byte :=
  one t.source.val ++ one t.cause.code ++ beBytes 6 t.second ++ encWide t.learned ++
  one t.learnedCount ++ one t.options.code

/-- The fallback stack, with its depth and its full and empty states (R64, R75). -/
def stackBytes (stack : List StackEntry) : List Byte :=
  encList StackEntry.bytes stack ++ one stack.length ++ encBool (decide (stack.length = stackDepth)) ++
  encBool stack.isEmpty

/-- The selector-wide entries (R64). -/
def Selector.read (q : Selector) : Nat → Option (List Byte)
  | 160 => some (one q.settings.qualify)
  | 161 => some (encField 1 3600 q.settings.retryTime)
  | 162 => some (one q.settings.missLimit)
  | 163 => some (encField 160 16000000 q.settings.disagreement)
  | 164 => some (encField 0 3600 q.settings.waitToRestore)
  | 165 => some (encBool !q.settings.revertive)
  | 166 => some (encBool !q.settings.autoUpgrade)
  | 167 => some (one q.selected.val)
  | 168 => some (stackBytes q.stack)
  | _ => none

/-- The SOURCES section (R64). -/
def State.readSources (s : State) (index : Nat) : Option (List Byte) :=
  if h : index / 32 < 4 then s.readSource ⟨index / 32, h⟩ (index % 32)
  else if index / 32 = 4 then readLocal (index % 32)
  else s.selector.read index

/-! ### STEERING: reading (R106) -/

/-- A pending step. -/
def PendingStep.bytes (p : PendingStep) : List Byte :=
  encWide p.offset ++ one p.source.val

/-- The steering counters (R108). -/
def SteeringCounters.bytes (c : SteeringCounters) : List Byte :=
  [c.processed, c.setAside, c.stepsRequested, c.clamped, c.hardExcursions, c.excursions, c.locks,
    c.holdoverEntries, c.holdoverExpiries].flatMap encCount

/-- The station status (R105, R106). -/
def State.statusBytes (s : State) : List Byte :=
  one s.steering.state.code ++ one s.outputClass ++ one s.selectedKind ++ beBytes 4 s.presentedAge ++
  oneInt s.steering.scale ++ encBool s.acquisitionSquelch

/-- The STEERING section (R106). -/
def State.readSteering (s : State) (index : Nat) : Option (List Byte) :=
  let t := s.steering
  match index with
  | 0 => some (one t.state.code)
  | 1 => some (encWide t.integral)
  | 2 => some [byte t.lockCount, byte t.excursionCount]
  | 3 => some (encList (encField (-rateMax) rateMax) t.ring)
  | 4 => some (beBytes 4 t.age ++ encOption one s.holdoverClass ++
      encOption (fun o : HoldoverOrigin => one o.source.val ++ one o.cls) t.origin)
  | 5 => some s.statusBytes
  | 6 => some (one t.options.code)
  | 7 => some (one t.mask.code)
  | 8 => some (encField 1600 16000000000 t.settings.ts)
  | 9 => some (encField 16 1600000 t.settings.tl)
  | 10 => some (one t.settings.lockCount)
  | 11 => some (encField 160 16000000 t.settings.tx)
  | 12 => some (one t.settings.excursionCount)
  | 13 => some (one t.settings.pa)
  | 14 => some (one t.settings.ia)
  | 15 => some (one t.settings.pt)
  | 16 => some (one t.settings.it)
  | 17 => some (encField 1 86400 t.settings.holdoverStep)
  | 18 => some (encField 60 604800 t.settings.holdoverLimit)
  | 19 => some (encOption (fun e : Ext => one e.val) t.steered ++ encOption one t.steeredClass ++
      encOption PendingStep.bytes t.pendingStep)
  | 20 => some t.counters.bytes
  | _ => none

/-! ### TIME: reading (chapter 1, 1.5) -/

/-- A step record (R11). -/
def StepRecord.bytes (r : StepRecord) : List Byte :=
  one (match r.origin with | .steering => 0 | .command => 1) ++ encWide r.offset ++ encStamp r.after

/-- The TIME section (1.5). -/
def State.readTimeSection (s : State) (index : Nat) (x : Elapsed) : Option (List Byte) :=
  let t := s.timebase
  match index with
  | 0 => some (encStamp (s.reading x))
  | 1 => some (encField (-rateMax) rateMax t.rate)
  | 2 => some (encField (-rateMax) rateMax t.trim)
  | 3 => some (encField 0 rateMax t.rateLimit)
  | 4 => some (encOption StepRecord.bytes t.record ++ encCount t.stepCount)
  | _ => none

/-! ### PLANS: reading (R116) -/

/-- A map: a count byte and its entries, slot 0 first (R168). -/
def mapBytes (m : List SlotEntry) : List Byte :=
  encList (fun e => one e.code) m

/-- The cycle timer's entry (R116). -/
def CycleTimer.bytes (t : CycleTimer) : List Byte :=
  encOption (beBytes 6) t.cycle ++ encOption one t.slot ++ encBool t.cut ++ encBool t.resume

/-- One bank's entries, by offset (R116). -/
def Bank.read (k : Bank) (off : Nat) : Option (List Byte) :=
  if off = 0 then some (one k.planId)
  else if off = 1 then some (one k.role.code)
  else if h : 8 ≤ off ∧ off < 14 then some (mapBytes k.maps[off - 8])
  else none

/-- The PLANS section (R116). -/
def State.readPlans (s : State) (index : Nat) : Option (List Byte) :=
  if index < 256 then s.plans.a.read index
  else if index < 512 then s.plans.b.read (index - 256)
  else if index = 512 then some (encField 1 3600 s.cycleTimer.epoch)
  else if index = 513 then some s.cycleTimer.bytes
  else if index = 514 then some s.plans.pendingBytes
  else none

/-! ### PORTS: reading (R148) -/

/-- An answer queue entry (chapter 7). -/
def Answer.bytes (a : Answer) : List Byte :=
  beBytes 6 a.requester ++ beBytes 2 a.seq.toNat ++ encStamp a.arrival ++ one a.remaining

/-- The counters of a port (R150). -/
def PortCounters.bytes (c : PortCounters) : List Byte :=
  [c.marks, c.states, c.muted, c.replies, c.cancelled, c.taken, c.duplicates, c.overruns, c.expired,
    c.dropped, c.badFrames, c.unexpected, c.linkLosses].flatMap encCount

/-- A link state's number: UP 0, DOWN 1 (chapter 7, state table). -/
def linkCode : LinkLevel → Nat
  | .up => 0
  | .down => 1

/-- One port's entries, by offset (R148). -/
def PortUnit.read (q : PortUnit) : Nat → Option (List Byte)
  | 0 => some (encBool (decide (q.state ≠ .off)))
  | 1 => some (one q.settings.budget)
  | 2 => some (encField 0 20000 q.settings.stagger)
  | 3 => some (one q.settings.mute)
  | 4 => some (encField 0 1600000 q.settings.ingress)
  | 5 => some (encField 0 1600000 q.settings.egress)
  | 8 => some [byte q.state.code, byte (linkCode q.link)]
  | 9 => some (encOption mapBytes q.map)
  | 10 => some (encOption encWord q.word ++ encBool q.openingSent ++ encBool q.trimmed)
  | 11 => some (beBytes 2 q.seq.toNat)
  | 12 => some (encList Answer.bytes q.answers)
  | 13 => some (encBool q.overrun)
  | 16 => some q.counters.bytes
  | _ => none

/-- The PORTS section (R148). -/
def State.readPorts (s : State) (index : Nat) : Option (List Byte) :=
  if h : index / 32 < 6 then s.ports[index / 32].read (index % 32) else none

/-! ### OUTPUTS: reading (R160) -/

/-- One pulse output's entries, by offset (R160). -/
def PulseUnit.read (o : PulseUnit) : Nat → Option (List Byte)
  | 0 => some (encField (-500000000) 500000000 o.offset)
  | 1 => some (encField 1 500000 o.width)
  | 2 => some (one o.squelch)
  | 8 => some (encBool o.high ++ beBytes 4 o.fall ++ encStamp o.next)
  | 12 => some ([o.sent, o.squelched, o.overlapped].flatMap encCount)
  | _ => none

/-- Whether a sentence is in transmission. -/
def CodedLine.busy : CodedLine → Bool
  | .idle => false
  | .sending _ _ _ _ => true

/-- One coded-time output's entries, by offset (R160). -/
def CodedUnit.read (o : CodedUnit) : Nat → Option (List Byte)
  | 0 => some (encField 0 500 o.lead)
  | 1 => some (encField 1 65535 o.divisor)
  | 2 => some (one o.parity.code)
  | 8 => some (encBool o.line.busy ++ encStamp o.next ++ beBytes 6 o.names)
  | 12 => some ([o.sent, o.skipped].flatMap encCount)
  | _ => none

/-- The OUTPUTS section (R160). -/
def State.readOutputs (s : State) (index : Nat) : Option (List Byte) :=
  if h : index / 16 < 4 then s.pulses[index / 16].read (index % 16)
  else if h : index / 16 - 4 < 2 then s.coded[index / 16 - 4].read (index % 16)
  else none

/-! ### IDENTITY, CONTROL, ACCESS: reading (R179, R181, R194) -/

/-- The IDENTITY section (R181). -/
def readIdentity : Nat → Option (List Byte)
  | 0 => some (beBytes 8 6208)
  | 1 => some (beBytes 8 8)
  | 2 => some (beBytes 8 unitIdentity.toNat)
  | _ => none

/-- A link's state as CONTROL gives it (R181). -/
def LinkUnit.bytes (k : LinkUnit) : List Byte :=
  [byte k.commands.length, byte k.responses.length] ++ encBool k.escalated ++ encBool k.dropped

/-- The link counters (R171). -/
def LinkCounters.bytes (c : LinkCounters) : List Byte :=
  [c.taken, c.empty, c.dropped, c.part, c.bad, c.delivered].flatMap encCount

/-- A link's notice and fault entries, by offset (R194). -/
def NoticeLink.read (n : NoticeLink) : Nat → Option (List Byte)
  | 0 => some (one n.mask.toNat)
  | 1 => some (encBool !n.nest)
  | 2 => some (one n.mode.code)
  | 3 => some (one n.delay)
  | 4 => some (one n.admitMask.toNat)
  | 8 => some (one n.latch.toNat)
  | 9 => some (encList (fun c => one (classCode c)) n.stack)
  | 10 => some (one n.faults.length ++ encBool n.overflow)
  | _ => none

/-- The link and offset of a CONTROL index among the notice and fault settings (R181, R194). -/
def noticeIndex (index : Nat) : Option (Link × Nat) :=
  if h : 32 ≤ index ∧ index < 80 then some (⟨(index - 32) / 16, by omega⟩, (index - 32) % 16) else none

/-- The CONTROL section (R181). -/
def State.readControl (s : State) (index : Nat) : Option (List Byte) :=
  match noticeIndex index with
  | some (l, off) => s.notice.links[l].read off
  | none =>
    match index with
    | 0 => some (encCount s.executor.resetCount)
    | 8 => some s.links[0].bytes
    | 9 => some s.links[0].counters.bytes
    | 12 => some s.links[1].bytes
    | 13 => some s.links[1].counters.bytes
    | 16 => some s.links[2].bytes
    | 17 => some s.links[2].counters.bytes
    | _ => none

/-- A set of sections (R168). -/
def sectionSet (m : BitVec 9) : List Byte :=
  beBytes 2 m.toNat

/-- A guard entry's four fields (R179). -/
def Guard.bytes (g : Guard) : List Byte :=
  encBool g.inUse ++ one g.sect ++ beBytes 2 g.first ++ beBytes 2 g.last

/-- The ACCESS section (R179). -/
def State.readAccess (s : State) (index : Nat) : Option (List Byte) :=
  if h : index < 3 then
    some (sectionSet s.access.rights[index].read ++ sectionSet s.access.rights[index].write)
  else if h : 8 ≤ index ∧ index < 12 then some s.access.guards[index - 8].bytes
  else if index = 16 then some (encBool s.access.lock)
  else if index = 17 then some (encBool (decide (s.access.strap = .high)))
  else none

/-! ### READ ENTRY (R177) -/

/-- The value of an entry, none when the index is not listed (R177). -/
def State.readEntry (s : State) (sect index : Nat) (x : Elapsed) : Option (List Byte) :=
  match sect with
  | 0 => readIdentity index
  | 1 => s.readControl index
  | 2 => s.readSources index
  | 3 => s.readSteering index
  | 4 => s.readTimeSection index x
  | 5 => s.readPlans index
  | 6 => s.readPorts index
  | 7 => s.readOutputs index
  | 8 => s.readAccess index
  | _ => none

/-- An index among a link's own notice and fault settings, open to it whatever its rights (R181). -/
def ownSettings (l : Link) (sect index : Nat) : Bool :=
  decide (sect = 1) && (match noticeIndex index with
    | some (m, _) => decide (m = l)
    | none => false)

/-- READ ENTRY run for `r`, its checks in the order of R177. -/
def State.runReadEntry (s : State) (r : Running) (sect index : Nat) (x : Elapsed) : State :=
  if 8 < sect then s.answer r .badIndex
  else if !(s.access.canRead r.link sect || ownSettings r.link sect index) then s.answer r .denied
  else
    match s.readEntry sect index x with
    | none => s.answer r .badIndex
    | some v => s.respond r .ok v

/-! ### Storing values (R178) -/

/-- What a write of a listed entry comes to: the entry is read-only, the write is refused with a status,
or it is stored, with or without a field clamped. -/
inductive Stored where
  | readOnly
  | refuse (st : Status)
  | store (s : State) (clamped : Bool)
  deriving DecidableEq, Repr

/-- A numeric field: BAD_VALUE at another byte count, else stored clamped (R178). -/
def storeNum (lo hi : Int) (value : List Byte) (f : Int → State) : Stored :=
  match decField lo hi value with
  | none => .refuse .badValue
  | some v => .store (f (clamp lo hi v)) (decide (clamp lo hi v ≠ v))

/-- A numeric field that is not negative. -/
def storeNat (lo hi : Nat) (value : List Byte) (f : Nat → State) : Stored :=
  storeNum lo hi value fun v => f v.toNat

/-- An enumerated field of `n` values: BAD_VALUE at another byte count or an undefined value (R178). -/
def storeEnum (n : Nat) (value : List Byte) (f : Nat → State) : Stored :=
  match value with
  | [b] => if b.toNat < n then .store (f b.toNat) false else .refuse .badValue
  | _ => .refuse .badValue

/-- A set of `n` members in one byte: BAD_VALUE at another byte count or a higher bit set (R178). -/
def storeSet (n : Nat) (value : List Byte) (f : Byte → State) : Stored :=
  match value with
  | [b] => if b.toNat < 2 ^ n then .store (f b) false else .refuse .badValue
  | _ => .refuse .badValue

/-! ### SOURCES: writing -/

/-- A write of an input unit's setting (R42, R64). -/
def State.writeInput (s : State) (u : InUnit) (off : Nat) (value : List Byte) : Stored :=
  let set (f : InputSettings → InputSettings) : State :=
    s.modInput u fun i => { i with settings := f i.settings }
  match off with
  | 16 => storeNat 1000 500000 value fun n => set fun c => { c with halfWidth := n }
  | 17 => storeNat 1 65535 value fun n => set fun c => { c with divisor := n }
  | 18 => storeEnum 3 value fun n => set fun c => { c with parity := parityOf n }
  | 19 => storeEnum 2 value fun n => s.modInput u fun i => i.setArm (decide (n = 1))
  | 20 => storeEnum 2 value fun n =>
      s.modInput u fun i => i.setMode (if n = 0 then .follows else .precedes)
  | 21 => storeNat 10 990 value fun n => set fun c => { c with window := n }
  | _ => .readOnly

/-- A write of an uplink unit's setting (R59, R64). -/
def State.writeUplink (s : State) (u : UpUnit) (off : Nat) (value : List Byte) : Stored :=
  let set (f : UplinkSettings → UplinkSettings) : State :=
    s.modUplink u fun i => { i with settings := f i.settings }
  match off with
  | 16 => storeNat 0 1600000 value fun n => set fun c => { c with ingress := n }
  | 17 => storeNat 0 1600000 value fun n => set fun c => { c with egress := n }
  | 18 => storeNat 0 281474976710655 value fun n => set fun c => { c with requester := n }
  | 19 => storeNat 0 39 value fun n => set fun c => { c with slot := n }
  | 20 => storeNat 1 16 value fun n => set fun c => { c with interval := n }
  | 21 => storeNat 0 16000000 value fun n => set fun c => { c with maxDelay := n }
  | _ => .readOnly

/-- A write of an external source's unit, by offset. -/
def State.writeUnit (s : State) (e : Ext) (off : Nat) (value : List Byte) : Stored :=
  match inputOf e, uplinkOf e with
  | some u, _ => s.writeInput u off value
  | none, some u => s.writeUplink u off value
  | none, none => .readOnly

/-- A programmed class stored: the effective class follows at once, and an upgrade may (R63, R80). -/
def State.setClass (s : State) (e : Ext) (n : Nat) : State :=
  s.withClassChange e fun t => t.modEntry e fun v => { v with cls := n }

/-- A write of an external source's entry, by offset (R64, R65, R86). -/
def State.writeSource (s : State) (e : Ext) (off : Nat) (value : List Byte) : Stored :=
  match off with
  | 0 => storeEnum 2 value fun n => if n = 1 then s.enableSource e else s.disableSource e
  | 1 => storeNat 0 7 value fun n => s.modEntry e fun v => { v with priority := n }
  | 2 => storeNat 0 7 value fun n => s.setClass e n
  | 3 =>
    if (uplinkOf e).isSome then .readOnly
    else storeNat 0 1600000000 value fun n => s.modEntry e fun v => { v with cableDelay := n }
  | 4 => storeNum (-16000000) 16000000 value fun n => s.modEntry e fun v => { v with deviceDelay := n }
  | _ => s.writeUnit e off value

/-- A write of auto-upgrade: ON makes the upgrade test at once (R80, R86). -/
def State.setAutoUpgrade (s : State) (on : Bool) : State :=
  let t := s.modSelector fun q => { q with settings := { q.settings with autoUpgrade := on } }
  if on then t.upgradeTest else t

/-- A write of a selector-wide entry (R64, R86). -/
def State.writeSelector (s : State) (index : Nat) (value : List Byte) : Stored :=
  let set (f : SelectorSettings → SelectorSettings) : State :=
    s.modSelector fun q => { q with settings := f q.settings }
  match index with
  | 160 => storeNat 2 60 value fun n => set fun c => { c with qualify := n }
  | 161 => storeNat 1 3600 value fun n => set fun c => { c with retryTime := n }
  | 162 => storeNat 1 10 value fun n => set fun c => { c with missLimit := n }
  | 163 => storeNum 160 16000000 value fun n => set fun c => { c with disagreement := n }
  | 164 => storeNat 0 3600 value fun n => set fun c => { c with waitToRestore := n }
  | 165 => storeEnum 2 value fun n => set fun c => { c with revertive := decide (n = 0) }
  | 166 => storeEnum 2 value fun n => s.setAutoUpgrade (decide (n = 0))
  | _ => .readOnly

/-- A write of the SOURCES section; every entry of LOCAL is REFUSED (R64). -/
def State.writeSources (s : State) (index : Nat) (value : List Byte) : Stored :=
  if h : index / 32 < 4 then s.writeSource ⟨index / 32, h⟩ (index % 32) value
  else if index / 32 = 4 then .readOnly
  else s.writeSelector index value

/-! ### The other sections: writing -/

/-- A write of the STEERING section (R89, R106, R107). -/
def State.writeSteering (s : State) (index : Nat) (value : List Byte) : Stored :=
  let set (f : SteeringSettings → SteeringSettings) : State :=
    s.modSteering fun t => { t with settings := f t.settings }
  match index with
  | 6 => storeSet 3 value fun b => s.modSteering fun t => { t with options := stepOptionsOf b }
  | 7 => storeSet 3 value fun b => s.modSteering fun t => { t with mask := stepOptionsOf b }
  | 8 => storeNum 1600 16000000000 value fun n => set fun c => { c with ts := n }
  | 9 => storeNum 16 1600000 value fun n => set fun c => { c with tl := n }
  | 10 => storeNat 1 60 value fun n => set fun c => { c with lockCount := n }
  | 11 => storeNum 160 16000000 value fun n => set fun c => { c with tx := n }
  | 12 => storeNat 1 10 value fun n => set fun c => { c with excursionCount := n }
  | 13 => storeNat 0 24 value fun n => set fun c => { c with pa := n }
  | 14 => storeNat 0 24 value fun n => set fun c => { c with ia := n }
  | 15 => storeNat 0 24 value fun n => set fun c => { c with pt := n }
  | 16 => storeNat 0 24 value fun n => set fun c => { c with it := n }
  | 17 => storeNat 1 86400 value fun n => set fun c => { c with holdoverStep := n }
  | 18 => storeNat 60 604800 value fun n => set fun c => { c with holdoverLimit := n }
  | _ => .readOnly

/-- A write of the TIME section (R8, R9, 1.5). -/
def State.writeTimeSection (s : State) (index : Nat) (value : List Byte) : Stored :=
  match index with
  | 2 => storeNum (-rateMax) rateMax value fun n => { s with timebase := s.timebase.setTrim n }
  | 3 => storeNum 0 rateMax value fun n => { s with timebase := s.timebase.setRateLimit n }
  | _ => .readOnly

/-- The map that a value carries: a count byte of 40 and forty slot entries (R115, R168). -/
def readMap (value : List Byte) : Option (List SlotEntry) :=
  match value with
  | [] => none
  | n :: entries =>
    if n = 40#8 ∧ entries.length = 40 ∧ (entries.all fun b => (slotEntryOf b).isSome) = true then
      some (entries.filterMap slotEntryOf)
    else none

/-- A write of a port map: the bank's role, then the list (R115). -/
def State.writeMap (s : State) (nm : BankName) (p : Port) (value : List Byte) : Stored :=
  if (s.plans.bank nm).role ≠ .inactive then .refuse .roleLocked
  else
    match readMap value with
    | none => .refuse .badValue
    | some m =>
      .store { s with plans := s.plans.modBank nm fun k => { k with maps := k.maps.set p m } } false

/-- The bank and port of a PLANS index that holds a map (R116). -/
def mapIndex (index : Nat) : Option (BankName × Port) :=
  if h : 8 ≤ index ∧ index < 14 then some (.a, ⟨index - 8, by omega⟩)
  else if h : 264 ≤ index ∧ index < 270 then some (.b, ⟨index - 264, by omega⟩)
  else none

/-- A write of the PLANS section (R115, R116, R126). -/
def State.writePlans (s : State) (index : Nat) (value : List Byte) : Stored :=
  match mapIndex index with
  | some (nm, p) => s.writeMap nm p value
  | none =>
    if index = 512 then
      storeNat 1 3600 value fun n => { s with cycleTimer := { s.cycleTimer with epoch := n } }
    else .readOnly

/-- A write of one port's entry, by offset (R128, R132, R148, R149). -/
def State.writePort (s : State) (p : Port) (off : Nat) (value : List Byte) : Stored :=
  let set (f : PortSettings → PortSettings) : State :=
    s.modPort p fun q => { q with settings := f q.settings }
  match off with
  | 0 => storeEnum 2 value fun n => s.modPort p fun q => if n = 1 then q.enable else q.disable
  | 1 => storeNat 1 160 value fun n => set fun c => { c with budget := n }
  | 2 => storeNat 0 20000 value fun n => set fun c => { c with stagger := n }
  | 3 => storeNat 0 8 value fun n => set fun c => { c with mute := n }
  | 4 => storeNat 0 1600000 value fun n => set fun c => { c with ingress := n }
  | 5 => storeNat 0 1600000 value fun n => set fun c => { c with egress := n }
  | _ => .readOnly

/-- A write of the PORTS section (R148). -/
def State.writePorts (s : State) (index : Nat) (value : List Byte) : Stored :=
  if h : index / 32 < 6 then s.writePort ⟨index / 32, h⟩ (index % 32) value else .readOnly

/-- A write of one pulse output's setting (R156, R160). -/
def State.writePulse (s : State) (k : PulseOut) (off : Nat) (value : List Byte) : Stored :=
  match off with
  | 0 => storeNum (-500000000) 500000000 value fun n => s.modPulse k fun o => { o with offset := n }
  | 1 => storeNat 1 500000 value fun n => s.modPulse k fun o => { o with width := n }
  | 2 => storeNat 0 8 value fun n => s.modPulse k fun o => { o with squelch := n }
  | _ => .readOnly

/-- A write of one coded-time output's setting (R159, R160). -/
def State.writeCoded (s : State) (m : CodedOut) (off : Nat) (value : List Byte) : Stored :=
  match off with
  | 0 => storeNat 0 500 value fun n => s.modCoded m fun o => { o with lead := n }
  | 1 => storeNat 1 65535 value fun n => s.modCoded m fun o => { o with divisor := n }
  | 2 => storeEnum 3 value fun n => s.modCoded m fun o => { o with parity := parityOf n }
  | _ => .readOnly

/-- A write of the OUTPUTS section (R160). -/
def State.writeOutputs (s : State) (index : Nat) (value : List Byte) : Stored :=
  if h : index / 16 < 4 then s.writePulse ⟨index / 16, h⟩ (index % 16) value
  else if h : index / 16 - 4 < 2 then s.writeCoded ⟨index / 16 - 4, h⟩ (index % 16) value
  else .readOnly

/-- A write of one link's notice and fault setting, by offset (R194). -/
def State.writeNotice (s : State) (l : Link) (off : Nat) (value : List Byte) : Stored :=
  match off with
  | 0 => storeSet 6 value fun b => s.modNotice l fun n => { n with mask := b.setWidth 6 }
  | 1 => storeEnum 2 value fun v => s.modNotice l fun n => { n with nest := decide (v = 0) }
  | 2 => storeEnum 4 value fun v => s.modNotice l fun n => { n with mode := cycleModeOf v }
  | 3 => storeNat 0 39 value fun v => s.modNotice l fun n => { n with delay := v }
  | 4 => storeSet 4 value fun b => s.modNotice l fun n => { n with admitMask := b.setWidth 4 }
  | _ => .readOnly

/-- A write of the CONTROL section (R181). -/
def State.writeControl (s : State) (index : Nat) (value : List Byte) : Stored :=
  match noticeIndex index with
  | some (l, off) => s.writeNotice l off value
  | none => .readOnly

/-- The rights that a value carries: both sets within the nine sections, IDENTITY in the read set and
not in the write set (R168, R179). -/
def readRights (value : List Byte) : Option Rights :=
  let rd := ofBytes (slice value 0 2)
  let wr := ofBytes (slice value 2 2)
  if value.length = 4 ∧ rd < 512 ∧ wr < 512 ∧ rd % 2 = 1 ∧ wr % 2 = 0 then
    some ⟨BitVec.ofNat 9 rd, BitVec.ofNat 9 wr⟩
  else none

/-- The guard entry that a value carries: its enumerations defined and first index not above last index
(R168, R179). -/
def readGuard (value : List Byte) : Option Guard :=
  let use := ofBytes (slice value 0 1)
  let sect := ofBytes (slice value 1 1)
  let first := ofBytes (slice value 2 2)
  let last := ofBytes (slice value 4 2)
  if value.length = 6 ∧ use < 2 ∧ sect < 9 ∧ first ≤ last then
    some ⟨decide (use = 1), sect, first, last⟩
  else none

/-- A write of the ACCESS section (R179). -/
def State.writeAccess (s : State) (index : Nat) (value : List Byte) : Stored :=
  if h : index < 3 then
    match readRights value with
    | some v => .store { s with access := { s.access with rights := s.access.rights.set index v } } false
    | none => .refuse .badValue
  else if h : 8 ≤ index ∧ index < 12 then
    match readGuard value with
    | some g =>
      .store { s with access := { s.access with guards := s.access.guards.set (index - 8) g } } false
    | none => .refuse .badValue
  else .readOnly

/-! ### WRITE ENTRY (R178) -/

/-- What a write of a listed entry comes to (R178). -/
def State.storeEntry (s : State) (sect index : Nat) (value : List Byte) : Stored :=
  match sect with
  | 1 => s.writeControl index value
  | 2 => s.writeSources index value
  | 3 => s.writeSteering index value
  | 4 => s.writeTimeSection index value
  | 5 => s.writePlans index value
  | 6 => s.writePorts index value
  | 7 => s.writeOutputs index value
  | 8 => s.writeAccess index value
  | _ => .readOnly

/-- The entry's value as a state then holds it. -/
def State.valueAt (s : State) (sect index : Nat) : List Byte :=
  (s.readEntry sect index 0).getD []

/-- WRITE ENTRY run for `r`, its checks in the order of R178; the response carries the value as
stored. -/
def State.runWriteEntry (s : State) (r : Running) (sect index : Nat) (value : List Byte) : State :=
  if 8 < sect then s.answer r .badIndex
  else if !(s.access.canWrite r.link sect || ownSettings r.link sect index) then s.answer r .denied
  else if (s.readEntry sect index 0).isNone then s.answer r .badIndex
  else if sect = 8 ∧ s.access.lock = true then s.answer r .locked
  else if s.access.guarded sect index then s.answer r .guarded
  else
    match s.storeEntry sect index value with
    | .readOnly => s.answer r .refused
    | .refuse st => s.answer r st
    | .store t clamped => t.respond r (if clamped then .okClamped else .ok) (t.valueAt sect index)

/-- The rows of the table that a WRITE ENTRY may be. -/
inductive WriteRow where
  | writeEntry
  | rateLimit
  | pairingMode
  | autoRateArm
  | sourceEnable
  | sourceDisable
  | autoUpgrade
  | programmedClass
  | steeringOptions
  | portMap
  | epochLength
  | portEnable
  | portDisable
  | accessTable
  | guardEntry
  | noticeMask
  | nestMode
  deriving DecidableEq, Repr

/-- The row for an `enabled` field: YES and NO have a row each; any other value is WRITE_ENTRY's to
refuse. -/
def enabledRow (yes no : WriteRow) (value : List Byte) : WriteRow :=
  if value = [1#8] then yes else if value = [0#8] then no else .writeEntry

/-- The row a write of an external source's entry is. -/
def sourceRow (e off : Nat) (value : List Byte) : WriteRow :=
  match off with
  | 0 => enabledRow .sourceEnable .sourceDisable value
  | 2 => .programmedClass
  | 19 => if e < 2 then .autoRateArm else .writeEntry
  | 20 => if e < 2 then .pairingMode else .writeEntry
  | _ => .writeEntry

/-- The row a write of a section's index is; a row WRITE_ENTRY has no behaviour of its own. -/
def writeRow (sect index : Nat) (value : List Byte) : WriteRow :=
  match sect with
  | 1 =>
    match noticeIndex index with
    | some (_, 0) => .noticeMask
    | some (_, 1) => .nestMode
    | _ => .writeEntry
  | 2 =>
    if index / 32 < 4 then sourceRow (index / 32) (index % 32) value
    else if index = 166 then .autoUpgrade else .writeEntry
  | 3 => if index = 6 ∨ index = 7 then .steeringOptions else .writeEntry
  | 4 => if index = 3 then .rateLimit else .writeEntry
  | 5 => if (mapIndex index).isSome then .portMap else if index = 512 then .epochLength else .writeEntry
  | 6 =>
    if index / 32 < 6 ∧ index % 32 = 0 then enabledRow .portEnable .portDisable value else .writeEntry
  | 8 =>
    if index < 3 then .accessTable else if 8 ≤ index ∧ index < 12 then .guardEntry else .writeEntry
  | _ => .writeEntry

/-- The running WRITE ENTRY carried out when it is the row `row`; nothing otherwise. -/
def State.writeAs (s : State) (row : WriteRow) : State :=
  s.onCommand fun r c =>
    match c with
    | .writeEntry sect index value =>
      if writeRow sect index value = row then some (s.runWriteEntry r sect index value) else none
    | _ => none

/-! ### LOCK ACCESS (R180) -/

/-- LOCK ACCESS run for `r`, its checks in the order of R180. -/
def State.runLockAccess (s : State) (r : Running) : State :=
  if !s.access.canWrite r.link 8 then s.answer r .denied
  else if s.access.lock then s.answer r .locked
  else if s.access.guarded 8 16 then s.answer r .guarded
  else State.answer { s with access := { s.access with lock := true } } r .ok

/-! ### The commands -/

/-- READ_ENTRY (R177). -/
def execReadEntry (x : Elapsed) (s : State) : Host.Outcome State Fault Refusal :=
  .next (s.onCommand fun r c =>
    match c with
    | .readEntry sect index => some (s.runReadEntry r sect index x)
    | _ => none)

/-- WRITE_ENTRY (R178): an entry that has no behaviour of its own. -/
def execWriteEntry (s : State) : Host.Outcome State Fault Refusal :=
  .next (s.writeAs .writeEntry)

/-- RATE_LIMIT_WRITE (R8): TIME 3. -/
def execRateLimitWrite (s : State) : Host.Outcome State Fault Refusal :=
  .next (s.writeAs .rateLimit)

/-- PAIRING_MODE_WRITE (R42): an input unit's pairing mode. -/
def execPairingModeWrite (s : State) : Host.Outcome State Fault Refusal :=
  .next (s.writeAs .pairingMode)

/-- AUTO_RATE_ARM_WRITE (R42): an input unit's auto-rate arm. -/
def execAutoRateArmWrite (s : State) : Host.Outcome State Fault Refusal :=
  .next (s.writeAs .autoRateArm)

/-- SOURCE_ENABLE (R65): an external entry's enabled field, YES. -/
def execSourceEnable (s : State) : Host.Outcome State Fault Refusal :=
  .next (s.writeAs .sourceEnable)

/-- SOURCE_DISABLE (R65): an external entry's enabled field, NO. -/
def execSourceDisable (s : State) : Host.Outcome State Fault Refusal :=
  .next (s.writeAs .sourceDisable)

/-- AUTO_UPGRADE_WRITE (R80): SOURCES 166. -/
def execAutoUpgradeWrite (s : State) : Host.Outcome State Fault Refusal :=
  .next (s.writeAs .autoUpgrade)

/-- PROGRAMMED_CLASS_WRITE (R80): an external entry's programmed class. -/
def execProgrammedClassWrite (s : State) : Host.Outcome State Fault Refusal :=
  .next (s.writeAs .programmedClass)

/-- STEERING_OPTIONS_WRITE (R89): STEERING 6 or 7. -/
def execSteeringOptionsWrite (s : State) : Host.Outcome State Fault Refusal :=
  .next (s.writeAs .steeringOptions)

/-- PORT_MAP_WRITE (R115): a port's map in a bank. -/
def execPortMapWrite (s : State) : Host.Outcome State Fault Refusal :=
  .next (s.writeAs .portMap)

/-- EPOCH_LENGTH_WRITE (R126): PLANS 512. -/
def execEpochLengthWrite (s : State) : Host.Outcome State Fault Refusal :=
  .next (s.writeAs .epochLength)

/-- PORT_ENABLE (R128): a port's enabled field, YES. -/
def execPortEnable (s : State) : Host.Outcome State Fault Refusal :=
  .next (s.writeAs .portEnable)

/-- PORT_DISABLE (R132): a port's enabled field, NO. -/
def execPortDisable (s : State) : Host.Outcome State Fault Refusal :=
  .next (s.writeAs .portDisable)

/-- ACCESS_TABLE_WRITE (R179): ACCESS 0 to 2. -/
def execAccessTableWrite (s : State) : Host.Outcome State Fault Refusal :=
  .next (s.writeAs .accessTable)

/-- GUARD_ENTRY_WRITE (R179): ACCESS 8 to 11. -/
def execGuardEntryWrite (s : State) : Host.Outcome State Fault Refusal :=
  .next (s.writeAs .guardEntry)

/-- NOTICE_MASK_WRITE (R186): a link's notice mask. -/
def execNoticeMaskWrite (s : State) : Host.Outcome State Fault Refusal :=
  .next (s.writeAs .noticeMask)

/-- NEST_MODE_WRITE (R186): a link's nest mode. -/
def execNestModeWrite (s : State) : Host.Outcome State Fault Refusal :=
  .next (s.writeAs .nestMode)

/-- LOCK_ACCESS (R180). -/
def execLockAccess (s : State) : Host.Outcome State Fault Refusal :=
  .next (s.onCommand fun r c =>
    match c with
    | .lockAccess => some (s.runLockAccess r)
    | _ => none)

end Sys2Proof.Machine
end

