-- ==== Sys2Proof/Machine/Links.lean ====
section
/-! DEFINITION. Chapter 10, links and executor: transactions, command frames, grants. -/

namespace Sys2Proof.Machine

open Sys2Proof.Config

/-! ### Transactions (R169) -/

/-- The select line asserted with the status byte as sampled: the dropped flag clears, and the oldest
response becomes the response in delivery (R169). -/
def LinkUnit.assert (k : LinkUnit) (status : Byte) : LinkUnit :=
  { k with
    transaction := some ⟨status, [], false, []⟩
    dropped := false
    delivery := k.responses.head? }

/-- The byte the part clocks out next in a transaction: the status byte, then the response in delivery,
then 0x00 (R167, R169). -/
def LinkUnit.nextOut (k : LinkUnit) (t : Transaction) : Byte :=
  ((t.status :: k.delivery.getD [])[t.out.length]?).getD 0#8

/-- The response in delivery, once its last byte has been clocked out (R169). -/
def LinkUnit.clockedOut (k : LinkUnit) : Bool :=
  match k.transaction, k.delivery with
  | some t, some r => decide (1 + r.length ≤ t.out.length)
  | _, _ => false

/-- The last byte of the response in delivery has been clocked out: the frame leaves the response queue
(R169). -/
def LinkUnit.deliver (k : LinkUnit) : LinkUnit :=
  if k.clockedOut then
    { k.count (fun c => { c with delivered := c.delivered + 1 }) with
      responses := k.responses.drop 1, delivery := none }
  else k

/-! ### Command frames (R170) -/

/-- The bytes of a frame whose first bytes are `got` are all in: byte 3 + length has arrived, or the
length byte exceeds 64 (R170). -/
def frameEnded (got : List Byte) : Bool :=
  match got[2]? with
  | some len => decide (64 < len.toNat) || decide (3 + len.toNat < got.length)
  | none => false

/-- A command frame that has ended joins the command queue, or is dropped at a full queue (R170,
R172). -/
def LinkUnit.takeFrame (k : LinkUnit) (frame : List Byte) : LinkUnit :=
  if k.commands.length < queueDepth then
    { k.count (fun c => { c with taken := c.taken + 1 }) with commands := k.commands ++ [frame] }.judge
  else
    { k.count (fun c => { c with dropped := c.dropped + 1 }) with dropped := true }

/-- One byte clocked in, for which one is clocked out (R167). It is ignored outside a transaction, after
the frame's end, and in an empty frame; otherwise it joins the frame in reception, which it may end
(R170). -/
def LinkUnit.clockIn (k : LinkUnit) (b : Byte) : LinkUnit :=
  match k.transaction with
  | none => k
  | some t =>
    let v := { t with out := t.out ++ [k.nextOut t] }
    if t.ended || decide (t.received = [0#8]) then { k with transaction := some v }
    else
      let got := t.received ++ [b]
      if frameEnded got then
        { k with transaction := some { v with received := got, ended := true } }.takeFrame got
      else { k with transaction := some { v with received := got } }

/-- The select line released: a response wholly clocked out has been delivered (R169), an empty frame or
a partial frame is counted, and the transaction ends (R170). A transaction into which nothing was
clocked counts neither (log entry 28). -/
def LinkUnit.release (k : LinkUnit) : LinkUnit :=
  match k.transaction with
  | none => k
  | some t =>
    let j := { k.deliver with transaction := none, delivery := none }
    if t.ended || t.received.isEmpty then j
    else if t.received = [0#8] then j.count fun c => { c with empty := c.empty + 1 }
    else j.count fun c => { c with part := c.part + 1 }

/-! ### The arbiter (R172, R173) -/

/-- The link after another in the order A, B, C, A. -/
def nextLink (l : Link) : Link :=
  l + 1

/-- The order in which links are considered: from the link after the last served (R173). -/
def grantOrder (last : Link) : List Link :=
  [nextLink last, nextLink (nextLink last), last]

/-- The link the executor grants: the first eligible escalated link in the order, else the first
eligible one (R173). -/
def State.grantee (s : State) : Option Link :=
  let order := grantOrder s.executor.lastServed
  ((order.find? fun l => s.links[l].eligible && s.links[l].escalated)).or
    (order.find? fun l => s.links[l].eligible)

/-- A frame that fails its own tests is answered at once (R174). -/
def State.badFrame (s : State) (l : Link) (tag : Byte) (st : Status) : State :=
  let t :=
    if st = .badCheck then s.modLink l fun k => k.count fun c => { c with bad := c.bad + 1 } else s
  t.modLink l fun k => { k with responses := k.responses ++ [responseFrame tag st []] }

/-- The executor takes a command frame: it runs, or is answered at once (R173, R174). -/
def State.takeCommand (s : State) (l : Link) (frame : List Byte) : State :=
  match readCommandFrame frame with
  | .error st => s.badFrame l (frameTag frame) st
  | .ok c => { s with executor := { s.executor with running := some ⟨l, frameTag frame, c, []⟩ } }

/-- One link granted: its head command leaves its queue (R173). -/
def State.grant (s : State) (l : Link) : State :=
  match s.links[l].commands with
  | [] => s
  | frame :: rest =>
    let t := s.modLink l fun k => { k with commands := rest }.judge
    { t with executor := { t.executor with lastServed := l } }.takeCommand l frame

/-! ### The commands -/

/-- SELECT_ASSERTED (R169): nothing while a transaction is in progress. -/
def execSelectAsserted (l : Link) (s : State) : Host.Outcome State Fault Refusal :=
  .next (match s.links[l].transaction with
    | some _ => s
    | none => s.modLink l fun k => k.assert (s.statusByte l))

/-- RESPONSE_DELIVERED (R169): nothing until the last byte of a response in delivery has been clocked
out. -/
def execResponseDelivered (l : Link) (s : State) : Host.Outcome State Fault Refusal :=
  .next (s.modLink l LinkUnit.deliver)

/-- COMMAND_FRAME_RECEIVED (R170): bytes clocked in during the transaction, in order. -/
def execCommandFrameReceived (l : Link) (bytes : List Byte) (s : State) :
    Host.Outcome State Fault Refusal :=
  .next (s.modLink l fun k => bytes.foldl LinkUnit.clockIn k)

/-- SELECT_RELEASED (R170). -/
def execSelectReleased (l : Link) (s : State) : Host.Outcome State Fault Refusal :=
  .next (s.modLink l LinkUnit.release)

/-- COMMAND_GRANT (R173): nothing while the executor is RUNNING or no link is eligible. -/
def execCommandGrant (s : State) : Host.Outcome State Fault Refusal :=
  .next (match s.executor.running with
    | some _ => s
    | none =>
      match s.grantee with
      | some l => s.grant l
      | none => s)

end Sys2Proof.Machine
end

