-- ==== Sys2Proof/Machine/Outputs.lean ====
section
/-! DEFINITION. Chapter 8: the pulse outputs and the coded-time outputs. -/

namespace Sys2Proof.Machine

open Sys2Proof.Config

/-! ### Pulse outputs (R152 to R155) -/

/-- The next rise time placed after `start` units with the offset in effect (R152). The advance may have
carried station time `adv` units beyond the start already, and then across the new rise time too, with
the line as `high` says at its place. -/
def PulseUnit.place (o : PulseUnit) (start adv : Nat) (high : Elapsed → Bool) : PulseUnit :=
  let next := (placeAfter start o.offset).2
  { o with next := next, passed := passedBy start adv next high }

/-- What R153 decides at a rise time that has passed, with the line as it was at that instant and the
station status as it stands. -/
def PulseUnit.decideRise (o : PulseUnit) (p : Passing) (cls : Nat) (acquisition : Bool) : PulseUnit :=
  if p.busy then { o with overlapped := o.overlapped + 1 }
  else if o.squelch ≤ cls ∨ acquisition = true then
    { o with high := false, squelched := o.squelched + 1 }
  else { o with high := true, fall := o.width * 125, risePart := p.part, sent := o.sent + 1 }

/-- The line at a place of the tick after a decided rise time (R153, R154). -/
def PulseUnit.highAfter (o : PulseUnit) (p : Passing) (part : Elapsed) : Bool :=
  if p.busy then !(decide (o.fall = 0) && decide (o.risePart ≤ part)) else o.high

/-- A rise time that has passed: decided, then the next one is placed from it (R152, R153). -/
def PulseUnit.rise (o : PulseUnit) (p : Passing) (cls : Nat) (acquisition : Bool) : PulseUnit :=
  let v := o.decideRise p cls acquisition
  v.place (o.next.fuCount * unitsPerFu) p.since (v.highAfter p)

/-- A step announcement taken: the next rise time placed from the station time just after the step, from
which the advance has gone `adv` units on (R155). When the advance has already crossed the time so placed,
the line that it is tested against is the one that stands now, at the place of the crossing in its tick, and
not the one of the tick that crossed it (DESIGN CHOICE: no rule speaks of an announcement taken so late; log
entry 50). -/
def PulseUnit.stepped (o : PulseUnit) (a : StepAnnouncement) (adv : Nat) : PulseUnit :=
  o.place a.after.units adv o.highAt

/-! ### Coded-time outputs (R157 to R159) -/

/-- Nanoseconds in a millisecond. -/
def nanosPerMilli : Nat := 1000000

/-- The next due time placed after `start` units with the lead in effect, and the seconds value it names
(R157). The advance may have carried station time `adv` units beyond the start already, and then across
the new due time too, with the line as `sending` says at its place. -/
def CodedUnit.place (o : CodedUnit) (start adv : Nat) (sending : Elapsed → Bool) : CodedUnit :=
  let r := placeAfter start ((o.lead * nanosPerMilli : Nat) : Int)
  { o with next := r.2, names := r.1, passed := passedBy start adv r.2 sending }

/-- The fields of the sentence that names `seconds`, read from the station status (R158). -/
def State.sentenceNow (s : State) (seconds : Nat) : TimeOfDay :=
  ⟨seconds, s.steering.scale, decide (s.steering.state = .locked), s.outputClass⟩

/-- What R157 decides at a due time that has passed, with the line as it was at that instant: a
transmission of `tod` begins at the divisor and parity in effect (R158), or the sentence is skipped. -/
def CodedUnit.decideDue (o : CodedUnit) (p : Passing) (tod : TimeOfDay) : CodedUnit :=
  if p.busy then { o with skipped := o.skipped + 1 }
  else
    { o with
      line := .sending o.divisor o.parity (todSentence tod) (transmissionTicks o.divisor o.parity 12)
      beginPart := p.part, sent := o.sent + 1 }

/-- The line at a place of the tick after a decided due time (R157, R158). -/
def CodedUnit.sendingAfter (o : CodedUnit) (p : Passing) (part : Elapsed) : Bool :=
  match o.line with
  | .idle => p.busy && decide (part < o.beginPart)
  | .sending _ _ _ 0 => p.busy && decide (part < o.beginPart)
  | .sending _ _ _ _ => true

/-- A due time that has passed: decided, then the next one is placed from it (R157). -/
def CodedUnit.due (o : CodedUnit) (p : Passing) (tod : TimeOfDay) : CodedUnit :=
  let v := o.decideDue p tod
  v.place (o.next.fuCount * unitsPerFu) p.since (v.sendingAfter p)

/-- A step announcement taken: the next due time placed from the station time just after the step, from
which the advance has gone `adv` units on (R159). When the advance has already crossed the time so placed,
the line that it is tested against is the one that stands now (DESIGN CHOICE, as for a pulse output; log
entry 50). -/
def CodedUnit.stepped (o : CodedUnit) (a : StepAnnouncement) (adv : Nat) : CodedUnit :=
  o.place a.after.units adv o.sendingAt

/-! ### The commands -/

/-- PULSE_RISE_TIME (R153): nothing while no rise time has passed. -/
def execPulseRiseTime (k : PulseOut) (s : State) : Host.Outcome State Fault Refusal :=
  .next (match s.pulses[k].passed with
    | some p => s.modPulse k fun o => o.rise p s.outputClass s.acquisitionSquelch
    | none => s)

/-- PULSE_FALL (R154): nothing until the fall count of a HIGH line is 0. -/
def execPulseFall (k : PulseOut) (s : State) : Host.Outcome State Fault Refusal :=
  .next (s.modPulse k fun o => if o.fall = 0 then { o with high := false } else o)

/-- PULSE_OUTPUT_STEP (R155): the oldest step announcement on its way; nothing while a rise time that
has passed is not yet decided, which comes first (R155, R161). -/
def execPulseOutputStep (k : PulseOut) (s : State) : Host.Outcome State Fault Refusal :=
  .next (match s.pulses[k].passed, s.flight.stepsToPulse[k] with
    | none, a :: rest =>
      (s.modFlight fun f => { f with stepsToPulse := f.stepsToPulse.set k rest }).modPulse k
        fun o => o.stepped a (advanceSince a.after.units rest s.timebase.time)
    | _, _ => s)

/-- CODED_DUE_TIME (R157): nothing while no due time has passed. -/
def execCodedDueTime (m : CodedOut) (s : State) : Host.Outcome State Fault Refusal :=
  .next (match s.coded[m].passed with
    | some p => s.modCoded m fun o => o.due p (s.sentenceNow o.names)
    | none => s)

/-- CODED_TRANSMISSION_DONE (R158): nothing until the last stop bit has ended. -/
def execCodedTransmissionDone (m : CodedOut) (s : State) : Host.Outcome State Fault Refusal :=
  .next (match s.coded[m].line with
    | .sending _ _ _ 0 => s.modCoded m fun o => { o with line := .idle }
    | _ => s)

/-- CODED_OUTPUT_STEP (R159): the oldest step announcement on its way; nothing while a due time that has
passed is not yet decided, which comes first (R159, R161). -/
def execCodedOutputStep (m : CodedOut) (s : State) : Host.Outcome State Fault Refusal :=
  .next (match s.coded[m].passed, s.flight.stepsToCoded[m] with
    | none, a :: rest =>
      (s.modFlight fun f => { f with stepsToCoded := f.stepsToCoded.set m rest }).modCoded m
        fun o => o.stepped a (advanceSince a.after.units rest s.timebase.time)
    | _, _ => s)

end Sys2Proof.Machine
end

