-- ==== Sys2Proof/Machine/Reset.lean ====
section
/-! DEFINITION. Power-on reset, service reset, link reset (R17, R43, R61, R87, R109, R127, R151, R162,
R182 to R184, R195). -/

namespace Sys2Proof.Machine

open Sys2Proof.Config

/-! ### Service reset, block by block -/

/-- The timebase at service reset: the rate word becomes trim, clamped (R17). -/
def Timebase.serviceReset (t : Timebase) : Timebase :=
  t.takeRate t.trim

/-- An input unit at service reset; a request in progress completes (R43). -/
def InputUnit.serviceReset (i : InputUnit) (enabled : Bool) : InputUnit :=
  { i with
    tracker := if enabled then .seeking else .idle
    anchor := none, intervals := 0, held := .nothing, receiver := .idle, assembler := .waitBreak
    requestTimer := none, lastScale := 0, counters := PowerOn.input.counters }

/-- An input unit takes its service reset, and the descriptor in its entry becomes absent (R37, R43). -/
def State.resetInput (s : State) (u : InUnit) : State :=
  ((s.modInput u fun i => i.serviceReset (s.inputEnabled u)).modEntry (inSource u) fun n =>
    { n with descriptor := none }).followScale (inSource u)

/-- An uplink unit at service reset; the query sequence is kept (R61). -/
def UplinkUnit.serviceReset (i : UplinkUnit) : UplinkUnit :=
  { i with
    sample := none, forward := none, outstanding := none, window := [], released := false
    judging := false, lastClass := none, lastScale := 0
    counters := (PowerOn.uplink i.link i.settings.requester).counters }

/-- An uplink unit takes its service reset (R61). -/
def State.resetUplink (s : State) (u : UpUnit) : State :=
  (s.modUplink u UplinkUnit.serviceReset).followScale (upSource u)

/-- A source entry at service reset: ABSENT if enabled, settings kept (R87). -/
def SourceEntry.serviceReset (n : SourceEntry) : SourceEntry :=
  { PowerOn.sourceEntry with
    state := if n.state = .disabled then .disabled else .absent
    priority := n.priority, cls := n.cls, cableDelay := n.cableDelay, deviceDelay := n.deviceDelay }

/-- An entry in TRIAL that the selector's reset makes ABSENT leaves TRIAL: its request timer stops
(R34). -/
def State.leaveIfTrial (s : State) (e : Ext) : State :=
  if s.selector.entries[e].state = .trial then s.leaveTrial e else s

/-- The selector takes its service reset: LOCAL selected, the stack emptied, nothing latched (R87). When
the steering unit has taken its reset before and another source was still selected, the steering unit
is handed LOCAL, so that it does not stay on a source that is left (R88). -/
def State.resetSelector (s : State) (steeringDone : Bool) : State :=
  let t := (allExt.foldl State.leaveIfTrial s).modSelector fun q =>
    { q with
      entries := q.entries.map SourceEntry.serviceReset, selected := localSource, stack := [] }
  if steeringDone = true ∧ s.selector.selected ≠ localSource then
    t.modFlight fun f => { f with selections := f.selections ++ [localSource] }
  else t

/-- The steering unit at service reset: options, mask and settings kept (R109). -/
def Steering.serviceReset (t : Steering) : Steering :=
  { PowerOn.steering with options := t.options, mask := t.mask, settings := t.settings }

/-- The steering unit takes its service reset: FREE, trim handed on, a step request that has not reached
the timebase withdrawn (R17, R97, R109). Selections on their way lapse; a source selected since the
selector's own reset is handed again (R88). Rate words and excursion reports on their way are kept, and trim
is handed behind them (DEDUCED from R183, since R17 names the step request alone; log entry 22). -/
def State.resetSteering (s : State) (selectorDone : Bool) : State :=
  ((s.modSteering Steering.serviceReset).modFlight fun f =>
    { f with
      stepRequests := []
      selections :=
        if selectorDone = true ∧ s.selector.selected ≠ localSource then [s.selector.selected]
        else [] }).handRate s.timebase.trim

/-- The plan store at service reset: a PENDING bank becomes INACTIVE, a relabel is dropped (R127). -/
def PlanStore.serviceReset (p : PlanStore) : PlanStore :=
  let dis (k : Bank) : Bank := { k with role := if k.role = .pending then .inactive else k.role }
  ⟨dis p.a, dis p.b, none⟩

/-- A port at service reset: OFF, queues emptied and not counted, sequence and settings kept (R127,
R151). -/
def PortUnit.serviceReset (q : PortUnit) : PortUnit :=
  { q with
    state := .off, map := none, word := none, trimmed := false, openingSent := false
    departures := [], answers := [], overrun := false, counters := (PowerOn.port q.link).counters }

/-- The outputs at service reset: counters 0, everything in progress kept (R162). -/
def State.resetOutputs (s : State) : State :=
  { s with
    pulses := s.pulses.map fun o => { o with sent := 0, squelched := 0, overlapped := 0 }
    coded := s.coded.map fun o => { o with sent := 0, skipped := 0 } }

/-- A link's notice state at service reset (R195). -/
def NoticeLink.serviceReset (n : NoticeLink) : NoticeLink :=
  { n with latch := 0#6, stack := [], faults := [], overflow := false }

/-- One block takes its service reset, with the list of those that have taken it before (R183). -/
def State.resetBlock (s : State) (done : List ResetBlock) (b : ResetBlock) : State :=
  match b with
  | .timebase => { s with timebase := s.timebase.serviceReset }
  | .input u => s.resetInput u
  | .uplink u => s.resetUplink u
  | .selector => s.resetSelector (decide (ResetBlock.steering ∈ done))
  | .steering => s.resetSteering (decide (ResetBlock.selector ∈ done))
  | .planStore => { s with plans := s.plans.serviceReset }
  | .port p => s.modPort p PortUnit.serviceReset
  | .outputs => s.resetOutputs
  | .notice => s.mapNotice NoticeLink.serviceReset

/-- The blocks a service reset is handed to (R183). -/
def allBlocks : List ResetBlock :=
  [.timebase, .input 0, .input 1, .uplink 0, .uplink 1, .selector, .steering, .planStore, .port 0,
    .port 1, .port 2, .port 3, .port 4, .port 5, .outputs, .notice]

/-- Every block has taken the reset. -/
def resetComplete (done : List ResetBlock) : Bool :=
  allBlocks.all fun b => decide (b ∈ done)

/-- The blocks named take their reset in turn, one that has taken it already not again. -/
def State.resetBlocks (s : State) (done : List ResetBlock) : List ResetBlock → State × List ResetBlock
  | [] => (s, done)
  | b :: bs =>
    if b ∈ done then s.resetBlocks done bs else (s.resetBlock done b).resetBlocks (done ++ [b]) bs

/-- The end of a service reset: the link counters 0, the count incremented, OK answered (R183, R184). -/
def State.finishReset (s : State) (r : Running) : State :=
  State.answer
    { s with
      links := s.links.map fun k => { k with counters := PowerOn.link.counters }
      executor := { s.executor with resetCount := s.executor.resetCount + 1 } } r .ok

/-- SERVICE RESET run for `r`: checked as a write of CONTROL 0, then the blocks named take the reset; the
answer follows when all have (R183). -/
def State.runServiceReset (s : State) (r : Running) (blocks : List ResetBlock) : State :=
  let go : State :=
    let out := s.resetBlocks r.resetTaken blocks
    if resetComplete out.2 then out.1.finishReset r
    else
      { out.1 with executor :=
        { out.1.executor with running := some { r with resetTaken := out.2 } } }
  if r.resetTaken.isEmpty then s.checkedWrite r 1 0 go else go

/-! ### Link reset (R182) -/

/-- A link after LINK RESET, before its response is placed: the transaction in progress goes on without
a response (R182, R184). -/
def LinkUnit.linkReset (k : LinkUnit) : LinkUnit :=
  { k with commands := [], responses := [], dropped := false, delivery := none, escalated := false }

/-- LINK RESET run for `r` (R182, R195). -/
def State.runLinkReset (s : State) (r : Running) : State :=
  ((s.modLink r.link LinkUnit.linkReset).modNotice r.link fun n =>
    { n with latch := 0#6, stack := [] }).answer r .ok

/-! ### The commands -/

/-- POWER_ON_RESET (R184): every block at its power-on values; the strap and the Ethernet links' states
are sampled. -/
def execPowerOnReset (strap : Level) (uplinks : Vector LinkLevel 2) (ports : Vector LinkLevel 6)
    (s : State) : Host.Outcome State Fault Refusal :=
  .next (State.powerOn strap uplinks ports s.pending)

/-- SERVICE_RESET (R183): the blocks named take the reset, in that order. -/
def execServiceReset (blocks : List ResetBlock) (s : State) : Host.Outcome State Fault Refusal :=
  .next (s.onCommand fun r c =>
    match c with
    | .serviceReset => some (s.runServiceReset r blocks)
    | _ => none)

/-- LINK_RESET (R182). -/
def execLinkReset (s : State) : Host.Outcome State Fault Refusal :=
  .next (s.onCommand fun r c =>
    match c with
    | .linkReset => some (s.runLinkReset r)
    | _ => none)

end Sys2Proof.Machine
end

