-- ==== Sys2Proof/Machine/SerialLine.lean ====
section
/-! DEFINITION. Chapter 2, the serial line of an input unit: receiver, auto-rate, sentence assembly,
descriptor reception. -/

namespace Sys2Proof.Machine

open Sys2Proof.Config

/-! ### The assembler (R28, R29) -/

/-- A sentence counted as bad (R28, R29). -/
def InputUnit.badSentence (i : InputUnit) : InputUnit :=
  i.count fun c => { c with badSentences := c.badSentences + 1 }

/-- The assembler is told of a character error (R25, R26, R28). -/
def InputUnit.characterError (i : InputUnit) : InputUnit :=
  { i with assembler := .waitBreak }

/-- The assembler is told that a break has ended: a partial sentence is discarded and counted unless
the assembler was in WAIT_BREAK or LEAD (R28). -/
def InputUnit.breakEnded (i : InputUnit) : InputUnit :=
  let j := match i.assembler with
    | .waitBreak => i
    | .lead => i
    | _ => i.badSentence
  { j with assembler := .lead }

/-- A good character in any state but CHECK (R26, R28). -/
def InputUnit.assemble (i : InputUnit) (c : Byte) : InputUnit :=
  match i.assembler with
  | .waitBreak => i.count fun n => { n with unframed := n.unframed + 1 }
  | .lead =>
    if c = 0xF0#8 then { i with assembler := .kind } else { i.badSentence with assembler := .waitBreak }
  | .kind => { i with assembler := .length c }
  | .length k =>
    if 48 < c.toNat then { i.badSentence with assembler := .waitBreak }
    else if c.toNat = 0 then { i with assembler := .check k 0 [] }
    else { i with assembler := .body k c.toNat [] }
  | .body k len got =>
    if got.length + 1 < len then { i with assembler := .body k len (got ++ [c]) }
    else { i with assembler := .check k len (got ++ [c]) }
  | .check _ _ _ => i

/-- A descriptor sentence that has passed the format checks (R36). -/
def State.takeDescriptor (s : State) (u : InUnit) (body : List Byte) : State :=
  match readDescriptor body with
  | none => s.modInput u fun i => i.count fun c => { c with badDescriptors := c.badDescriptors + 1 }
  | some d =>
    (s.modInput u fun i => i.count fun c => { c with descriptors := c.descriptors + 1 }).withClassChange
      (inSource u) fun t => t.modEntry (inSource u) fun n => { n with descriptor := some d }

/-- A complete sentence, its stop bit sampled at `now` (R29). -/
def State.sentence (s : State) (u : InUnit) (kind : Byte) (len : Nat) (body : List Byte) (check : Byte)
    (now : Stamp) : State :=
  let t := s.modInput u fun i => { i with assembler := .waitBreak }
  if sentenceOk kind len body check then
    if kind = 0x31#8 then t.pairSentence u (readTimeOfDay body) now else t.takeDescriptor u body
  else t.modInput u InputUnit.badSentence

/-- A character with a good verdict delivered to the assembler at `now` (R26, R28). -/
def State.deliver (s : State) (u : InUnit) (c : Byte) (now : Stamp) : State :=
  match s.inputs[u].assembler with
  | .check k len got => s.sentence u k len got c now
  | _ => s.modInput u fun i => i.assemble c

/-! ### Auto-rate (R27) -/

/-- The divisor measured from a count of ticks (R27). -/
def measuredDivisor (ticks : Nat) : Nat :=
  (clamp 1 65535 (halfAway ticks 80 - 1)).toNat

/-- The measurement ends: divisor replaced, arming cleared, the lead counted as received, and the
receiver waits out the rest of the character, which has the parity of its start edge (R27, R28, R42). A
request in transmission keeps its old divisor to its end (DESIGN CHOICE: R27 gives the transmit wire the
measured divisor from its next character, R35 and R42 let a transmission complete at the divisor it
began with; log entry 39). -/
def InputUnit.measured (i : InputUnit) (parity : Parity) (ticks : Nat) : InputUnit :=
  let d := measuredDivisor ticks
  { i.count (fun c => { c with measurements := c.measurements + 1 }) with
    settings := { i.settings with divisor := d, armed := false }
    receiver := .leadWait (characterBits parity * bitTicks d - ticks) false
    assembler := match i.assembler with
      | .lead => .kind
      | a => a }

/-! ### The commands -/

/-- What a falling edge makes of the receiver: a start edge when IDLE, the start of the tick count when
MEASURING, and in the rest of a measured lead the start of a low that may become a break (R24, R25,
R27). -/
def InputUnit.fallingEdge (i : InputUnit) : InputUnit :=
  { i with
    receiver := match i.receiver with
      | .idle => .character i.settings.divisor i.settings.parity
      | .lowIdle => .character i.settings.divisor i.settings.parity
      | .measuring => .counting i.settings.parity 0
      | .leadWait n _ => .leadWait n true
      | r => r }

/-- RECEIVE_FALLING_EDGE (R24, R27): not sampled while the unit is disabled. -/
def execReceiveFallingEdge (u : InUnit) (s : State) : Host.Outcome State Fault Refusal :=
  .next (if s.inputEnabled u then s.modInput u InputUnit.fallingEdge else s)

/-- FALSE_START (R24): the edge is dropped, nothing delivered or counted. -/
def execFalseStart (u : InUnit) (s : State) : Host.Outcome State Fault Refusal :=
  .next (match s.inputs[u].receiver with
    | .character _ _ => s.modInput u fun i => { i with receiver := .idle }
    | _ => s)

/-- CHARACTER_RECEIVED (R24, R26): judged by the parity of its start edge, and delivered or counted as
a parity error. -/
def execCharacterReceived (u : InUnit) (data : Byte) (parityBit : Bool) (x : Elapsed) (s : State) :
    Host.Outcome State Fault Refusal :=
  .next (match s.inputs[u].receiver with
    | .character _ p =>
      let t := s.modInput u fun i => { i with receiver := .idle }
      if parityGood p data parityBit then t.deliver u data (s.reading x)
      else t.modInput u fun i =>
        (i.count fun c => { c with parity := c.parity + 1 }).characterError
    | _ => s)

/-- FRAMING_ERROR (R25). -/
def execFramingError (u : InUnit) (s : State) : Host.Outcome State Fault Refusal :=
  .next (match s.inputs[u].receiver with
    | .character _ _ => s.modInput u fun i =>
        { (i.count fun c => { c with framing := c.framing + 1 }).characterError with receiver := .idle }
    | _ => s)

/-- A falling edge has come since the receiver was last idle: the line may be low since it (R25). -/
def Receiver.fallen : Receiver → Bool
  | .character _ _ => true
  | .counting _ _ => true
  | .lowIdle => true
  | .leadWait _ low => low
  | _ => false

/-- BREAK_DETECTED (R25): low for 11 bit times from a falling edge, whether or not it began as a
character. -/
def execBreakDetected (u : InUnit) (s : State) : Host.Outcome State Fault Refusal :=
  .next (if s.inputs[u].receiver.fallen then
      s.modInput u fun i => { i with receiver := .inBreak }
    else s)

/-- BREAK_END (R25, R27, R28). -/
def execBreakEnd (u : InUnit) (s : State) : Host.Outcome State Fault Refusal :=
  .next (match s.inputs[u].receiver with
    | .inBreak => s.modInput u fun i =>
        { i.breakEnded with receiver := if i.settings.armed then .measuring else .idle }
    | _ => s)

/-- AUTO_RATE_MEASUREMENT (R27): the first rising edge after the falling edge. -/
def execAutoRateMeasurement (u : InUnit) (s : State) : Host.Outcome State Fault Refusal :=
  .next (match s.inputs[u].receiver with
    | .counting p n => s.modInput u fun i => i.measured p n
    | _ => s)

/-- MEASURED_LEAD_END (R27): the end of the measured lead character; a falling edge during the rest of it
is no start edge, and may still begin a break (R25). -/
def execMeasuredLeadEnd (u : InUnit) (s : State) : Host.Outcome State Fault Refusal :=
  .next (match s.inputs[u].receiver with
    | .leadWait 0 low => s.modInput u fun i => { i with receiver := if low then .lowIdle else .idle }
    | _ => s)

end Sys2Proof.Machine
end

