-- ==== Sys2Proof/Machine/SteeringUnit.lean ====
section
/-! DEFINITION. Chapter 5: the steering loop, steps, selections, holdover. -/

namespace Sys2Proof.Machine

open Sys2Proof.Config

/-! ### Processing a phase event (R90 to R96) -/

/-- The conversion of a clamped error to rate units (R92). -/
def rateUnits (ef : Int) : Int :=
  halfAway (ef * 2147483648) 1000000000

/-- The shifts in force: pa, ia in ACQUIRE with FAST_ACQUIRE, pt, it otherwise (R93). -/
def Steering.shifts (t : Steering) : Nat × Nat :=
  if t.state = .acquire ∧ t.options.fastAcquire = true then (t.settings.pa, t.settings.ia)
  else (t.settings.pt, t.settings.it)

/-- What the filter makes of a carried error: the candidate rate word and the new sum A' (R92, R93). -/
def Steering.filter (t : Steering) (carried : Int) : Int × Int :=
  let er := rateUnits (saturate t.settings.ts carried)
  let p := towardZero er ((2 ^ t.shifts.1 : Nat) : Int)
  let sum := t.integral + er
  let i := towardZero sum ((2 ^ t.shifts.2 : Nat) : Int)
  (-(p + i), sum)

/-- The rate word handed for a candidate (R93). -/
def handedWord (limit candidate : Int) : Int :=
  saturate limit candidate

/-- The integral and the clamped count after a candidate (R93). -/
def Steering.accept (t : Steering) (limit candidate sum : Int) : Steering :=
  if (candidate.natAbs : Int) ≤ limit then { t with integral := sum }
  else t.count fun c => { c with clamped := c.clamped + 1 }

/-- An event is processed: ACQUIRE or LOCKED, on the steered source, with no step pending (R90). -/
def Steering.processes (t : Steering) (e : Ext) : Bool :=
  (decide (t.state = .acquire) || decide (t.state = .locked)) && decide (t.steered = some e) &&
  t.pendingStep.isNone

/-- An event decides a step: ACQUIRE, STEP_PERMIT, exact error beyond Ts (R91). -/
def Steering.decidesStep (t : Steering) (exact : Int) : Bool :=
  decide (t.state = .acquire) && t.options.stepPermit && decide (t.settings.ts < (exact.natAbs : Int))

/-- A step requested: its offset to the timebase, the pending step, A and lock count 0 (R91). -/
def State.requestStep (s : State) (e : Ext) (exact : Int) : State :=
  (s.modSteering fun t =>
    { t.count (fun c => { c with stepsRequested := c.stepsRequested + 1 }) with
      integral := 0, lockCount := 0, pendingStep := some ⟨-exact, e⟩ }).modFlight fun f =>
        { f with stepRequests := f.stepRequests ++ [-exact] }

/-- The lock test of an ACQUIRE event (R94). -/
def State.lockTest (s : State) (carried : Int) : State :=
  let t := s.steering
  let n := if (carried.natAbs : Int) ≤ t.settings.tl then t.lockCount + 1 else 0
  if t.settings.lockCount ≤ n then
    (s.modSteering fun v =>
      { v.count (fun c => { c with locks := c.locks + 1 }) with
        state := .locked, lockCount := 0, excursionCount := 0 }).latch .steeringState
  else s.modSteering fun v => { v with lockCount := n }

/-- An EXCURSION or EXCURSION_HARD report on its way to the selector (R95). -/
def State.reportExcursion (s : State) (e : Ext) (hard : Bool) : State :=
  s.modFlight fun f => { f with excursions := f.excursions ++ [⟨e, hard⟩] }

/-- The excursion tests of a LOCKED event (R95). -/
def State.excursionTest (s : State) (e : Ext) (carried : Int) : State :=
  let t := s.steering
  let m : Int := carried.natAbs
  if t.settings.ts < m then
    (s.modSteering fun v =>
      { v.count (fun c => { c with hardExcursions := c.hardExcursions + 1 }) with
        excursionCount := 0 }).reportExcursion e true
  else if t.settings.tx < m then
    if t.settings.excursionCount ≤ t.excursionCount + 1 then
      (s.modSteering fun v =>
        { v.count (fun c => { c with excursions := c.excursions + 1 }) with
          excursionCount := 0 }).reportExcursion e false
    else s.modSteering fun v => { v with excursionCount := t.excursionCount + 1 }
  else s.modSteering fun v => { v with excursionCount := 0 }

/-- The filter, the state progress and the ring, for an event of the steered source that decides no
step. The state is the one at the moment the event was taken (R90, R92 to R96). -/
def State.steer (s : State) (e : Ext) (carried : Int) : State :=
  let limit := s.timebase.rateLimit
  let out := s.steering.filter carried
  let word := handedWord limit out.1
  let t := (s.modSteering fun v => v.accept limit out.1 out.2).handRate word
  if s.steering.state = .acquire then t.lockTest carried
  else (t.excursionTest e carried).modSteering fun v =>
    { v with ring := pushBounded ringDepth v.ring word }

/-- A GOOD event taken by the steering unit: set aside or processed (R90). -/
def State.takeGoodEvent (s : State) (e : Ext) (carried exact : Int) : State :=
  if s.steering.processes e then
    let t := s.modSteering fun v =>
      { v.count (fun c => { c with processed := c.processed + 1 }) with
        steeredClass := some (s.effectiveClass e) }
    if t.steering.decidesStep exact then t.requestStep e exact else t.steer e carried
  else s.modSteering fun v => v.count fun c => { c with setAside := c.setAside + 1 }

/-! ### Steps (R97, R98) -/

/-- A step announcement taken: A and the two counts 0; on a STEERING origin a pending step ends and is
logged with the low 24 bits of station seconds (R97, R98). -/
def State.takeStepAnnouncement (s : State) (origin : StepOrigin) : State :=
  let logged :=
    match origin, s.steering.pendingStep with
    | .steering, some p =>
      (s.modSteering fun t => { t with pendingStep := none }).logFault .steering 16 p.source.val
        (low24 s.timebase.time.sec)
    | _, _ => s
  logged.modSteering fun t => { t with integral := 0, lockCount := 0, excursionCount := 0 }

/-! ### Selections (R99 to R101) -/

/-- A selection of an external source taken: ACQUIRE on it, A kept (R99, R105). The scale offset presented is
the one the source's unit holds now; of a source selected and then disabled before this row, where R88's "at
once" leaves no such moment, it is the stopped unit's 0 (DESIGN CHOICE; log entry 40). -/
def State.acquireSource (s : State) (e : Ext) : State :=
  let t := s.modSteering fun v =>
    { v with
      state := .acquire, steered := some e, steeredClass := some (s.effectiveClass e)
      lockCount := 0, excursionCount := 0, age := 0, origin := none, scale := s.unitScale e }
  if s.steering.state = .acquire then t else t.latch .steeringState

/-- The holdover word: the mean of the ring, rounded toward zero (R101). -/
def ringMean (ring : List Int) : Int :=
  towardZero ring.sum ring.length

/-- The steered source left: absent, both counts 0 (R100). -/
def Steering.leave (t : Steering) : Steering :=
  { t with steered := none, steeredClass := none, lockCount := 0, excursionCount := 0 }

/-- A selection of LOCAL taken in ACQUIRE or LOCKED: HOLDOVER with 4 or more words in the ring, FREE
with fewer (R100, R101). In FREE and HOLDOVER LOCAL is already selected and nothing changes. -/
def State.leaveSource (s : State) : State :=
  match s.steering.steered with
  | none => s
  | some e =>
    let c0 := s.steering.steeredClass.getD (s.effectiveClass e)
    if 4 ≤ s.steering.ring.length then
      (((s.modSteering fun t =>
        { (t.count fun c => { c with holdoverEntries := c.holdoverEntries + 1 }).leave with
          state := .holdover, age := 0, origin := some ⟨e, c0⟩ }).handRate
            (ringMean s.steering.ring)).logFault .steering 17 e.val s.cycleDetail).latch .steeringState
    else (s.modSteering fun t => { t.leave with state := .free }).latch .steeringState

/-! ### Holdover (R102) -/

/-- The steering unit's handling of cycle start `n`: the age, and the expiry at the holdover limit
(R102). -/
def State.ageHoldover (s : State) (n : Nat) : State :=
  if s.steering.state = .holdover then
    if s.steering.settings.holdoverLimit ≤ s.steering.age + 1 then
      ((s.modSteering fun t =>
        { t.count (fun c => { c with holdoverExpiries := c.holdoverExpiries + 1 }) with
          state := .free, age := 0, origin := none }).logFault .steering 18
            ((s.steering.origin.map (·.source.val)).getD 0) (low24 n)).latch .steeringState
    else s.modSteering fun t => { t with age := t.age + 1 }
  else s

/-- The oldest cycle start on its way to the steering unit is taken (R102), in the state the unit stands in,
also while a selection still waits: the age is counted and may expire then (DESIGN CHOICE: R88 says that a
selection changes the state at once; log entry 49). -/
def State.steeringCycle (s : State) : State :=
  match s.flight.cyclesToSteering with
  | [] => s
  | n :: rest => (s.modFlight fun f => { f with cyclesToSteering := rest }).ageHoldover n

/-- A cycle start on its way to the steering unit brings the holdover age to the limit (R102). -/
def State.expiryDue (s : State) : Bool :=
  !s.flight.cyclesToSteering.isEmpty && decide (s.steering.state = .holdover) &&
  decide (s.steering.settings.holdoverLimit ≤ s.steering.age + 1)

/-! ### The commands -/

/-- STEERING_PHASE_EVENT (R90): the oldest GOOD event handed on. A selection on its way is taken before
any event (R88: the state changes on it at once). -/
def execSteeringPhaseEvent (s : State) : Host.Outcome State Fault Refusal :=
  .next (match s.flight.selections, s.flight.goodEvents with
    | [], ev :: rest =>
      let t := s.modFlight fun f => { f with goodEvents := rest }
      match ev.validity with
      | .good carried exact => t.takeGoodEvent ev.source carried exact
      | .bad _ => t
    | _, _ => s)

/-- STEERING_STEP_ANNOUNCEMENT (R98): the oldest step announcement on its way. -/
def execSteeringStepAnnouncement (s : State) : Host.Outcome State Fault Refusal :=
  .next (match s.flight.stepsToSteering with
    | [] => s
    | a :: rest =>
      (s.modFlight fun f => { f with stepsToSteering := rest }).takeStepAnnouncement a.origin)

/-- STEERING_SELECT_EXTERNAL (R99): the oldest selection on its way, when it names an external source. -/
def execSteeringSelectExternal (s : State) : Host.Outcome State Fault Refusal :=
  .next (match s.flight.selections with
    | i :: rest =>
      match extOf i with
      | some e => (s.modFlight fun f => { f with selections := rest }).acquireSource e
      | none => s
    | [] => s)

/-- STEERING_SELECT_LOCAL (R100): the oldest selection on its way, when it names LOCAL. -/
def execSteeringSelectLocal (s : State) : Host.Outcome State Fault Refusal :=
  .next (match s.flight.selections with
    | i :: rest =>
      match extOf i with
      | none => (s.modFlight fun f => { f with selections := rest }).leaveSource
      | some _ => s
    | [] => s)

/-- STEERING_CYCLE_START (R102). -/
def execSteeringCycleStart (s : State) : Host.Outcome State Fault Refusal :=
  .next s.steeringCycle

/-- HOLDOVER_EXPIRY (R102): the cycle start at which the holdover age reaches the limit; nothing when
the next cycle start is not one. -/
def execHoldoverExpiry (s : State) : Host.Outcome State Fault Refusal :=
  .next (if s.expiryDue then s.steeringCycle else s)

end Sys2Proof.Machine
end

