-- ==== Sys2Proof/Machine/Uplink.lean ====
section
/-! DEFINITION. Chapter 3: the uplink units: confirmation, release, ranging, cycle judging, steps and
link changes. -/

namespace Sys2Proof.Machine

open Sys2Proof.Config

/-! ### Taking a mark (R45 to R50) -/

/-- t1: the departure stamp plus the correction, normalized (R45). -/
def markT1 (m : MarkFields) : Stamp :=
  (Stamp.mk m.seconds m.nanos 0).plus m.correction

/-- t2: the arrival reading less the ingress delay (R45). -/
def UplinkUnit.t2 (i : UplinkUnit) (arrival : Stamp) : Stamp :=
  arrival.plus (-(i.settings.ingress : Int))

/-- The unit takes frames: RUNNING, with the port's link up (R44). -/
def UplinkUnit.listening (i : UplinkUnit) : Bool :=
  i.running && decide (i.link = .up)

/-- A released sample: its phase event, the forward difference, the released flag (R50). -/
def State.release (s : State) (u : UpUnit) (t1 t2 : Stamp) : State :=
  let comp := s.compensation (upSource u)
  let v : Validity :=
    match comp with
    | some c => goodValidity t2 t1 c
    | none => .bad .badDelayAbsent
  (s.modUplink u fun i =>
    { i.count (fun c => { c with released := c.released + 1 }) with
      forward := some (t2.diff t1), released := true }).toSelector (upSource u)
    (.phase ⟨upSource u, v, some t1, some t2, comp⟩)

/-- A held sample displaced by an opening mark is counted incomplete (R46, R48). -/
def UplinkUnit.displace (i : UplinkUnit) : UplinkUnit :=
  match i.sample with
  | some _ =>
    { i.count (fun c => { c with incomplete := c.incomplete + 1 }) with sample := none }
  | none => i

/-- Confirmation of a mark by its opening and closing flags (R46 to R48). -/
def State.confirm (s : State) (u : UpUnit) (m : MarkFields) (t1 t2 : Stamp) : State :=
  match m.opening, m.closing with
  | true, false => s.modUplink u fun i => { i.displace with sample := some ⟨t1, t2, m.word⟩ }
  | true, true => (s.modUplink u UplinkUnit.displace).release u t1 t2
  | false, true =>
    match s.uplinks[u].sample with
    | none => s.modUplink u fun i => i.count fun c => { c with unopened := c.unopened + 1 }
    | some sm =>
      let t := s.modUplink u fun i => { i with sample := none }
      if sm.word = m.word then t.release u sm.t1 sm.t2
      else t.modUplink u fun i => i.count fun c => { c with mismatch := c.mismatch + 1 }
  | false, false => s

/-- A MARK or STATE that has passed its checks, arriving at `arrival` (R44 to R48). -/
def State.takeMark (s : State) (u : UpUnit) (m : MarkFields) (arrival : Stamp) : State :=
  let t := s.modUplink u fun i => i.count fun c => { c with marks := c.marks + 1 }
  t.confirm u m (markT1 m) (s.uplinks[u].t2 arrival)

/-- The class and scale offset of a STATE mark taken; a changed class may upgrade (R49, R80, R105). -/
def State.takeUpstream (s : State) (u : UpUnit) (cls : Nat) (scale : Int) : State :=
  (s.withClassChange (upSource u) fun t =>
    t.modUplink u fun i => { i with lastClass := some cls, lastScale := scale }).followScale (upSource u)

/-! ### Ranging (R51 to R53) -/

/-- A query is scheduled in cycle `n` (R51). -/
def UplinkUnit.scheduled (i : UplinkUnit) (n : Nat) : Bool :=
  decide (n % i.settings.interval = 0) || i.window.isEmpty

/-- A QUERY sent by unit `u` at the reading `departure` (R52). -/
def UplinkUnit.sendQuery (i : UplinkUnit) (u : UpUnit) (departure : Stamp) : UplinkUnit :=
  let q := i.seq + 1
  { i.count (fun c => { c with queriesSent := c.queriesSent + 1 }) with
    seq := q
    outstanding := some ⟨q, i.settings.requester, departure.plus i.settings.egress, 0⟩
    sent := i.sent ++ [etherFrame (uplinkAddress u) (.query i.settings.requester q)] }

/-- The query slot of cycle `n`, which starts at the reading `departure`, handled (R51). The interval, the
egress delay and the requester address, the link and the window are those that stand when the row is run,
also when a write of one was taken after the slot started (DESIGN CHOICE: R52 and R59 speak of the query's
departure, and no rule of a unit that handles the slot start late; log entry 48). -/
def UplinkUnit.querySlot (i : UplinkUnit) (u : UpUnit) (n : Nat) (cut : Bool) (departure : Stamp) :
    UplinkUnit :=
  if !i.running || !i.scheduled n then i
  else if i.link = .down then i
  else if cut || i.cut then i
  else
    match i.outstanding with
    | some _ => i.count fun c => { c with queriesSkipped := c.queriesSkipped + 1 }
    | none => i.sendQuery u departure

/-- A delay formed by a matching reply (R53). -/
def formDelay (forward : Int) (t4 t3 : Stamp) : Int :=
  towardZero (forward + t4.diff t3) 2

/-- A REPLY taken: matched against the outstanding query (R53). -/
def UplinkUnit.takeReply (i : UplinkUnit) (requester : Nat) (seq : Seq) (t4 : Stamp) : UplinkUnit :=
  match i.outstanding with
  | some o =>
    if o.requester = requester ∧ o.seq = seq then
      let m := { i.count (fun c => { c with repliesMatched := c.repliesMatched + 1 }) with
        outstanding := none }
      match i.forward with
      | none => m.count fun c => { c with repliesNoForward := c.repliesNoForward + 1 }
      | some d =>
        let delay := formDelay d t4 o.t3
        if 0 ≤ delay ∧ delay ≤ i.settings.maxDelay then
          { m.count (fun c => { c with delaysAccepted := c.delaysAccepted + 1 }) with
            window := pushBounded delayDepth i.window delay }
        else m.count fun c => { c with badDelays := c.badDelays + 1 }
    else i.count fun c => { c with repliesDropped := c.repliesDropped + 1 }
  | none => i.count fun c => { c with repliesDropped := c.repliesDropped + 1 }

/-! ### Cycle starts, steps, link changes (R54 to R57) -/

/-- The outstanding query aged, or given up at its second cycle start (R54). -/
def UplinkUnit.age (i : UplinkUnit) : UplinkUnit :=
  match i.outstanding with
  | none => i
  | some o =>
    if o.seen = 0 then { i with outstanding := some { o with seen := 1 } }
    else
      { i.count (fun c => { c with queriesLost := c.queriesLost + 1 }) with outstanding := none }

/-- The report a RUNNING unit makes at a cycle start, none when the cycle is not judged (R54). -/
def UplinkUnit.judgement (i : UplinkUnit) : Option ReportKind :=
  if i.judging then some (if i.released then .accepted else .miss) else none

/-- A cycle start taken by a RUNNING unit: query aged, cycle judged, flags (R54), and with a query slot
of 0 the query of the new cycle `n`, which departs at the cycle start's instant (R51, R52). A query slot of 0
is tested here, as it stands now, and any other when the slot start is made. A cycle start made before a step
and taken after the step's announcement is R56's next cycle start as any other is (DESIGN CHOICE in both: R56
calls the next cycle start the resume start, and R59 names the next slot start; log entry 48). -/
def State.uplinkCycle (s : State) (u : UpUnit) (n : Nat) (departure : Stamp) : State :=
  let i := s.uplinks[u]
  if i.running then
    let j := { i.age with released := false, judging := true, cut := false }
    let k := if i.settings.slot = 0 then j.querySlot u n false departure else j
    let t := s.modUplink u fun _ => k
    match i.judgement with
    | some r => t.toSelector (upSource u) (.report r)
    | none => t
  else s

/-- The oldest cycle event on its way to the unit, when it is a cycle start, is taken (R54). -/
def State.takeUplinkCycle (s : State) (u : UpUnit) : State :=
  match s.flight.cyclesToUplink[u] with
  | .start n _ instant :: rest =>
    (s.modFlight fun f => { f with cyclesToUplink := f.cyclesToUplink.set u rest }).uplinkCycle u n
      instant
  | _ => s

/-- The next cycle event is a cycle start at which the outstanding query is given up (R54). -/
def State.queryLossDue (s : State) (u : UpUnit) : Bool :=
  match s.flight.cyclesToUplink[u], s.uplinks[u].outstanding with
  | .start _ _ _ :: _, some o => s.uplinks[u].running && decide (o.seen ≠ 0)
  | _, _ => false

/-- An outstanding query cleared and counted as abandoned (R56, R57). -/
def UplinkUnit.abandon (i : UplinkUnit) : UplinkUnit :=
  match i.outstanding with
  | some _ =>
    { i.count (fun c => { c with queriesAbandoned := c.queriesAbandoned + 1 }) with outstanding := none }
  | none => i

/-- A step announcement taken by a RUNNING unit (R56). -/
def UplinkUnit.stepped (i : UplinkUnit) : UplinkUnit :=
  { i.abandon with sample := none, forward := none, released := false, judging := false, cut := true }

/-- The port's link goes down (R57). -/
def UplinkUnit.linkDown (i : UplinkUnit) : UplinkUnit :=
  if i.link = .down then i
  else if i.running then
    { i.abandon with link := .down, sample := none, forward := none, window := [] }
  else { i with link := .down }

/-! ### The commands -/

/-- UPLINK_MARK (R46): a MARK that passes its checks. -/
def execUplinkMark (u : UpUnit) (bytes : List Byte) (x : Elapsed) (s : State) :
    Host.Outcome State Fault Refusal :=
  .next (match s.uplinks[u].listening, uplinkFrame bytes with
    | true, some (.mark m) => s.takeMark u m (s.reading x)
    | _, _ => s)

/-- UPLINK_STATE_MARK (R49): a STATE that passes its checks; its trailer is taken, and it is a mark for
confirmation. -/
def execUplinkStateMark (u : UpUnit) (bytes : List Byte) (x : Elapsed) (s : State) :
    Host.Outcome State Fault Refusal :=
  .next (match s.uplinks[u].listening, uplinkFrame bytes with
    | true, some (.state m t) => (s.takeUpstream u m.cls t.scale).takeMark u m (s.reading x)
    | _, _ => s)

/-- UPLINK_REPLY (R53): a REPLY that passes its checks. -/
def execUplinkReply (u : UpUnit) (bytes : List Byte) (s : State) : Host.Outcome State Fault Refusal :=
  .next (match s.uplinks[u].listening, uplinkFrame bytes with
    | true, some (.reply r q sec ns c _) =>
      s.modUplink u fun i => i.takeReply r q ((Stamp.mk sec ns 0).plus c)
    | _, _ => s)

/-- UPLINK_UNEXPECTED_FRAME (R44): a QUERY, or a frame that fails a format or content check. -/
def execUplinkUnexpectedFrame (u : UpUnit) (bytes : List Byte) (s : State) :
    Host.Outcome State Fault Refusal :=
  .next (match s.uplinks[u].listening, uplinkFrame bytes with
    | true, none => s.modUplink u fun i => i.count fun c => { c with badFrames := c.badFrames + 1 }
    | true, some (.query _ _) =>
      s.modUplink u fun i => i.count fun c => { c with unexpected := c.unexpected + 1 }
    | _, _ => s)

/-- UPLINK_QUERY_SLOT (R51): the oldest cycle event on its way, when it is a slot start. The query leaves at
the instant that the event carries, so the elapsed part at which the row is run is not read (R52; log
entry 16). -/
def execUplinkQuerySlot (u : UpUnit) (_ : Elapsed) (s : State) : Host.Outcome State Fault Refusal :=
  .next (match s.flight.cyclesToUplink[u] with
    | .slot _ n cut instant :: rest =>
      (s.modFlight fun f => { f with cyclesToUplink := f.cyclesToUplink.set u rest }).modUplink u
        fun i => i.querySlot u n cut instant
    | _ => s)

/-- UPLINK_CYCLE_START (R54). With a query slot of 0 the query leaves at the instant that the event carries
(log entry 16). -/
def execUplinkCycleStart (u : UpUnit) (_ : Elapsed) (s : State) : Host.Outcome State Fault Refusal :=
  .next (s.takeUplinkCycle u)

/-- QUERY_LOST (R54): the cycle start at which the outstanding query is given up; nothing when the next
cycle start is not one. -/
def execQueryLost (u : UpUnit) (_ : Elapsed) (s : State) : Host.Outcome State Fault Refusal :=
  .next (if s.queryLossDue u then s.takeUplinkCycle u else s)

/-- UPLINK_STEP (R56): the oldest step announcement on its way; an IDLE unit changes nothing. -/
def execUplinkStep (u : UpUnit) (s : State) : Host.Outcome State Fault Refusal :=
  .next (match s.flight.stepsToUplink[u] with
    | [] => s
    | _ :: rest =>
      let t := s.modFlight fun f => { f with stepsToUplink := f.stepsToUplink.set u rest }
      if s.uplinks[u].running then t.modUplink u UplinkUnit.stepped else t)

/-- UPLINK_LINK_DOWN (R57). -/
def execUplinkLinkDown (u : UpUnit) (s : State) : Host.Outcome State Fault Refusal :=
  .next (s.modUplink u UplinkUnit.linkDown)

/-- UPLINK_LINK_UP (R57). -/
def execUplinkLinkUp (u : UpUnit) (s : State) : Host.Outcome State Fault Refusal :=
  .next (s.modUplink u fun i => { i with link := .up })

end Sys2Proof.Machine
end

