-- ==== Sys2Proof/Machine/Dispatch.lean ====
section
/-! DEFINITION. The command table: one arm for each command. -/

namespace Sys2Proof.Machine

def exec (i : Instr) (s : State) : Host.Outcome State Fault Refusal :=
  match i with
  | .powerOnReset strap uplinks ports => Sys2Proof.Machine.execPowerOnReset strap uplinks ports s
  | .oscillatorTick => Sys2Proof.Machine.execOscillatorTick s
  | .rateWordTaken => Sys2Proof.Machine.execRateWordTaken s
  | .stepRequestApplied x => Sys2Proof.Machine.execStepRequestApplied x s
  | .readTime x => Sys2Proof.Machine.execReadTime x s
  | .stepTime x => Sys2Proof.Machine.execStepTime x s
  | .rateLimitWrite => Sys2Proof.Machine.execRateLimitWrite s
  | .pulseEdge u x => Sys2Proof.Machine.execPulseEdge u x s
  | .pulseWindowMiss u => Sys2Proof.Machine.execPulseWindowMiss u s
  | .characterReceived u data parityBit x => Sys2Proof.Machine.execCharacterReceived u data parityBit x s
  | .framingError u => Sys2Proof.Machine.execFramingError u s
  | .breakDetected u => Sys2Proof.Machine.execBreakDetected u s
  | .breakEnd u => Sys2Proof.Machine.execBreakEnd u s
  | .autoRateMeasurement u => Sys2Proof.Machine.execAutoRateMeasurement u s
  | .pairingWindowEnd u => Sys2Proof.Machine.execPairingWindowEnd u s
  | .requestTimerExpiry u => Sys2Proof.Machine.execRequestTimerExpiry u s
  | .descriptorRequestDone u => Sys2Proof.Machine.execDescriptorRequestDone u s
  | .inputUnitStep u => Sys2Proof.Machine.execInputUnitStep u s
  | .pairingModeWrite => Sys2Proof.Machine.execPairingModeWrite s
  | .autoRateArmWrite => Sys2Proof.Machine.execAutoRateArmWrite s
  | .uplinkMark u bytes x => Sys2Proof.Machine.execUplinkMark u bytes x s
  | .uplinkStateMark u bytes x => Sys2Proof.Machine.execUplinkStateMark u bytes x s
  | .uplinkReply u bytes => Sys2Proof.Machine.execUplinkReply u bytes s
  | .uplinkUnexpectedFrame u bytes => Sys2Proof.Machine.execUplinkUnexpectedFrame u bytes s
  | .uplinkQuerySlot u x => Sys2Proof.Machine.execUplinkQuerySlot u x s
  | .uplinkCycleStart u x => Sys2Proof.Machine.execUplinkCycleStart u x s
  | .queryLost u x => Sys2Proof.Machine.execQueryLost u x s
  | .uplinkStep u => Sys2Proof.Machine.execUplinkStep u s
  | .uplinkLinkDown u => Sys2Proof.Machine.execUplinkLinkDown u s
  | .uplinkLinkUp u => Sys2Proof.Machine.execUplinkLinkUp u s
  | .sourceEnable => Sys2Proof.Machine.execSourceEnable s
  | .sourceDisable => Sys2Proof.Machine.execSourceDisable s
  | .selectorPulseReport e => Sys2Proof.Machine.execSelectorPulseReport e s
  | .selectorPhaseEvent e => Sys2Proof.Machine.execSelectorPhaseEvent e s
  | .autoUpgradeWrite => Sys2Proof.Machine.execAutoUpgradeWrite s
  | .excursionReport => Sys2Proof.Machine.execExcursionReport s
  | .selectorCycleStart => Sys2Proof.Machine.execSelectorCycleStart s
  | .retryTimerExpiry e => Sys2Proof.Machine.execRetryTimerExpiry e s
  | .selectorStep => Sys2Proof.Machine.execSelectorStep s
  | .switchSource => Sys2Proof.Machine.execSwitchSource s
  | .discardFallback => Sys2Proof.Machine.execDiscardFallback s
  | .steeringPhaseEvent => Sys2Proof.Machine.execSteeringPhaseEvent s
  | .steeringStepAnnouncement => Sys2Proof.Machine.execSteeringStepAnnouncement s
  | .steeringSelectExternal => Sys2Proof.Machine.execSteeringSelectExternal s
  | .steeringSelectLocal => Sys2Proof.Machine.execSteeringSelectLocal s
  | .steeringCycleStart => Sys2Proof.Machine.execSteeringCycleStart s
  | .holdoverExpiry => Sys2Proof.Machine.execHoldoverExpiry s
  | .steeringOptionsWrite => Sys2Proof.Machine.execSteeringOptionsWrite s
  | .cycleStart => Sys2Proof.Machine.execCycleStart s
  | .slotStart => Sys2Proof.Machine.execSlotStart s
  | .cycleCut => Sys2Proof.Machine.execCycleCut s
  | .armPlan => Sys2Proof.Machine.execArmPlan s
  | .disarmPlan => Sys2Proof.Machine.execDisarmPlan s
  | .portMapWrite => Sys2Proof.Machine.execPortMapWrite s
  | .epochLengthWrite => Sys2Proof.Machine.execEpochLengthWrite s
  | .portCycleStart p => Sys2Proof.Machine.execPortCycleStart p s
  | .answerEntryExpiry p => Sys2Proof.Machine.execAnswerEntryExpiry p s
  | .portSlotStart p => Sys2Proof.Machine.execPortSlotStart p s
  | .markDeparture p x => Sys2Proof.Machine.execMarkDeparture p x s
  | .replyDeparture p n x => Sys2Proof.Machine.execReplyDeparture p n x s
  | .queryReceived p bytes x => Sys2Proof.Machine.execQueryReceived p bytes x s
  | .portUnexpectedFrame p bytes => Sys2Proof.Machine.execPortUnexpectedFrame p bytes s
  | .portCut p => Sys2Proof.Machine.execPortCut p s
  | .portLinkDown p => Sys2Proof.Machine.execPortLinkDown p s
  | .portLinkUp p => Sys2Proof.Machine.execPortLinkUp p s
  | .portEnable => Sys2Proof.Machine.execPortEnable s
  | .portDisable => Sys2Proof.Machine.execPortDisable s
  | .clearPortFlags => Sys2Proof.Machine.execClearPortFlags s
  | .pulseRiseTime k => Sys2Proof.Machine.execPulseRiseTime k s
  | .pulseFall k => Sys2Proof.Machine.execPulseFall k s
  | .pulseOutputStep k => Sys2Proof.Machine.execPulseOutputStep k s
  | .codedDueTime m => Sys2Proof.Machine.execCodedDueTime m s
  | .codedTransmissionDone m => Sys2Proof.Machine.execCodedTransmissionDone m s
  | .codedOutputStep m => Sys2Proof.Machine.execCodedOutputStep m s
  | .selectAsserted l => Sys2Proof.Machine.execSelectAsserted l s
  | .responseDelivered l => Sys2Proof.Machine.execResponseDelivered l s
  | .commandFrameReceived l bytes => Sys2Proof.Machine.execCommandFrameReceived l bytes s
  | .selectReleased l => Sys2Proof.Machine.execSelectReleased l s
  | .commandGrant => Sys2Proof.Machine.execCommandGrant s
  | .readEntry x => Sys2Proof.Machine.execReadEntry x s
  | .writeEntry => Sys2Proof.Machine.execWriteEntry s
  | .accessTableWrite => Sys2Proof.Machine.execAccessTableWrite s
  | .guardEntryWrite => Sys2Proof.Machine.execGuardEntryWrite s
  | .lockAccess => Sys2Proof.Machine.execLockAccess s
  | .linkReset => Sys2Proof.Machine.execLinkReset s
  | .serviceReset blocks => Sys2Proof.Machine.execServiceReset blocks s
  | .noticeLatch c => Sys2Proof.Machine.execNoticeLatch c s
  | .noticeMaskWrite => Sys2Proof.Machine.execNoticeMaskWrite s
  | .nestModeWrite => Sys2Proof.Machine.execNestModeWrite s
  | .takeNotice => Sys2Proof.Machine.execTakeNotice s
  | .endService => Sys2Proof.Machine.execEndService s
  | .noticeCycleStart => Sys2Proof.Machine.execNoticeCycleStart s
  | .portCompletionReport p => Sys2Proof.Machine.execPortCompletionReport p s
  | .noticeSlotStart => Sys2Proof.Machine.execNoticeSlotStart s
  | .faultOffered b => Sys2Proof.Machine.execFaultOffered b s
  | .peekFault => Sys2Proof.Machine.execPeekFault s
  | .popFault => Sys2Proof.Machine.execPopFault s
  | .clearFaultOverflow => Sys2Proof.Machine.execClearFaultOverflow s
  | .receiveFallingEdge u => Sys2Proof.Machine.execReceiveFallingEdge u s
  | .falseStart u => Sys2Proof.Machine.execFalseStart u s
  | .measuredLeadEnd u => Sys2Proof.Machine.execMeasuredLeadEnd u s
  | .programmedClassWrite => Sys2Proof.Machine.execProgrammedClassWrite s

end Sys2Proof.Machine
end

