-- ==== Sys2Proof/Safety.lean ====
section
/-! DEFINITION. What the manual promises of every state the part reaches, in the terms the statements
use: one predicate for each promise. -/

namespace Sys2Proof.Safety

open Sys2Proof.Machine Sys2Proof.Config

/-- Station time is normalized (R1). -/
def TimeNormal (s : State) : Prop :=
  s.timebase.time.normal = true

/-- The rate limit lies in its range, the rate word within ±rate limit, trim in its range (R7, R8, R9). -/
def RatesBounded (s : State) : Prop :=
  0 ≤ s.timebase.rateLimit ∧ s.timebase.rateLimit ≤ rateMax ∧
  (s.timebase.rate.natAbs : Int) ≤ s.timebase.rateLimit ∧ (s.timebase.trim.natAbs : Int) ≤ rateMax

/-- A link's queues hold at most four frames, with room for the response of a running command; the
escalated flag is set at four commands and clear at two or fewer; the response in delivery is the head
of the response queue (R169, R170, R172, R173). -/
def LinkSound (s : State) (l : Link) : Prop :=
  s.links[l].commands.length ≤ 4 ∧ s.links[l].responses.length ≤ 4 ∧
  (∀ r ∈ s.executor.running, r.link = l → s.links[l].responses.length < 4) ∧
  (s.links[l].commands.length = 4 → s.links[l].escalated = true) ∧
  (s.links[l].commands.length ≤ 2 → s.links[l].escalated = false) ∧
  (s.links[l].delivery.isSome = true → s.links[l].delivery = s.links[l].responses.head?)

/-- Every link is sound. -/
def LinksSound (s : State) : Prop :=
  ∀ l : Link, LinkSound s l

/-- At most one bank is ACTIVE and at most one PENDING, a PENDING bank and a relabel exclude each other,
and a relabel waits on an ACTIVE bank (R114, R117). -/
def PlansSound (s : State) : Prop :=
  ¬(s.plans.a.role = .active ∧ s.plans.b.role = .active) ∧
  ¬(s.plans.a.role = .pending ∧ s.plans.b.role = .pending) ∧
  ¬(s.plans.pendingBank.isSome = true ∧ s.plans.relabel.isSome = true) ∧
  (s.plans.relabel.isSome = true → s.plans.activeBank.isSome = true)

/-- The sources on the fallback stack differ, none is selected and none DISABLED, and an external
selected source is USABLE (R75, R88). -/
def FallbackSound (s : State) : Prop :=
  (s.selector.stack.map fun t => t.source).Nodup ∧
  (∀ t ∈ s.selector.stack, toSource t.source ≠ s.selector.selected ∧
    s.selector.entries[t.source].state ≠ .disabled) ∧
  (∀ e : Ext, s.selector.selected = toSource e → s.selector.entries[e].state = .usable)

/-- The retry timer runs exactly while an entry is FAULTED, the restore timer exactly while it is USABLE
(R72, R78). -/
def TimersSound (s : State) : Prop :=
  ∀ e : Ext,
    (s.selector.entries[e].retry.isSome = true ↔ s.selector.entries[e].state = .faulted) ∧
    (s.selector.entries[e].restore.isSome = true ↔ s.selector.entries[e].state = .usable)

/-- An input unit's tracker is IDLE, and an uplink unit IDLE, exactly while the entry is DISABLED (R39,
R40, R58). -/
def UnitsSound (s : State) : Prop :=
  (∀ u : InUnit, s.inputs[u].tracker = .idle ↔ s.selector.entries[inSource u].state = .disabled) ∧
  (∀ u : UpUnit, s.uplinks[u].running = false ↔ s.selector.entries[upSource u].state = .disabled)

/-- The source the steering unit steers by, as a source index; LOCAL in FREE and HOLDOVER. -/
def steeredSource (t : Steering) : Source :=
  (t.steered.map toSource).getD localSource

/-- The source the steering unit will steer by once it has taken the selections on their way. -/
def targetSource (s : State) : Source :=
  (s.flight.selections.getLast?).getD (steeredSource s.steering)

/-- The blocks a SERVICE RESET in progress has reset. -/
def resetTaken (s : State) : List ResetBlock :=
  (s.executor.running.map (·.resetTaken)).getD []

/-- A steered source is named exactly in ACQUIRE and LOCKED, and a holdover origin exactly in HOLDOVER,
outside which the age is 0 (R88, R100, R102). -/
def SteeringNamed (s : State) : Prop :=
  (s.steering.steered.isSome = true ↔ s.steering.state = .acquire ∨ s.steering.state = .locked) ∧
  (s.steering.origin.isSome = true ↔ s.steering.state = .holdover) ∧
  (s.steering.state ≠ .holdover → s.steering.age = 0)

/-- The steering unit follows the selection: once it has taken the selections on their way it steers by
the selected source, LOCAL being FREE or HOLDOVER (R74, R88). While a SERVICE RESET is in progress that
the selector has taken and the steering unit not, nothing is claimed; one that the steering unit has
taken and the selector not may leave it at LOCAL. -/
def SelectionFollowed (s : State) : Prop :=
  if ResetBlock.selector ∈ resetTaken s ∧ ResetBlock.steering ∉ resetTaken s then True
  else targetSource s = s.selector.selected ∨
    (ResetBlock.steering ∈ resetTaken s ∧ ResetBlock.selector ∉ resetTaken s ∧
      targetSource s = localSource)

/-- Only a SERVICE RESET keeps a list of the blocks it has reset (R183). -/
def ResetListed (s : State) : Prop :=
  ∀ r ∈ s.executor.running, r.resetTaken ≠ [] → r.command = .serviceReset

/-- What R88 says of the selected source and the steering state, with what keeps it. -/
def SteeringSound (s : State) : Prop :=
  SteeringNamed s ∧ SelectionFollowed s ∧ ResetListed s

/-- The settings that bound the integral lie in their ranges (5.2). -/
def LoopSettingsSound (s : State) : Prop :=
  0 ≤ s.steering.settings.ts ∧ s.steering.settings.ts ≤ 16000000000 ∧
  s.steering.settings.pa ≤ 24 ∧ s.steering.settings.ia ≤ 24 ∧
  s.steering.settings.pt ≤ 24 ∧ s.steering.settings.it ≤ 24

/-- The integral accumulator stays below 2^60 in magnitude (chapter 5, state table; R93). -/
def IntegralBounded (s : State) : Prop :=
  LoopSettingsSound s ∧ s.timebase.rateLimit ≤ rateMax ∧ s.steering.integral.natAbs < 2 ^ 60

/-- The histories keep to their depths, and every accepted delay is in 0 to 16,000,000 (R53, R96). -/
def HistoriesBounded (s : State) : Prop :=
  s.steering.ring.length ≤ 16 ∧
  ∀ u : UpUnit, s.uplinks[u].window.length ≤ 8 ∧ s.uplinks[u].settings.maxDelay ≤ 16000000 ∧
    ∀ d ∈ s.uplinks[u].window, 0 ≤ d ∧ d ≤ 16000000

/-- A port's answer queue holds at most eight entries, of different requester and sequence, its departure
queue at most two departures, and both are empty in every state except SERVING (chapter 7, R134,
R141). -/
def PortSound (s : State) (p : Port) : Prop :=
  s.ports[p].answers.length ≤ 8 ∧
  (s.ports[p].answers.map fun a => (a.requester, a.seq)).Nodup ∧
  s.ports[p].departures.length ≤ 2 ∧
  (s.ports[p].state ≠ .serving → s.ports[p].answers = [] ∧ s.ports[p].departures = [])

/-- Every port is sound. -/
def PortsSound (s : State) : Prop :=
  ∀ p : Port, PortSound s p

/-- An event on its way to a port names a bank. -/
def namesBank : PortEvent → Bool
  | .start _ named => named.isSome
  | _ => false

/-- No port is SERVING, and none is told of an ACTIVE bank, while no bank is ACTIVE (R129). -/
def ServingSound (s : State) : Prop :=
  ∀ p : Port,
    (s.ports[p].state = .serving → s.plans.activeBank.isSome = true) ∧
    (∀ v ∈ s.flight.toPort[p], namesBank v = true → s.plans.activeBank.isSome = true)

/-- A link's in-service stack is in strictly rising priority from bottom to top, and its fault queue
holds at most sixteen entries (R187, R191). -/
def NoticesSound (s : State) : Prop :=
  ∀ l : Link,
    (s.notice.links[l].stack.map fun c => (classBit c).val).Pairwise (· < ·) ∧
    s.notice.links[l].faults.length ≤ 16

/-- Every read set holds IDENTITY and no write set does; every guard names a section and a span that is
not empty (R175, R179). -/
def AccessSound (s : State) : Prop :=
  (∀ l : Link, s.access.rights[l].read.getLsbD 0 = true ∧ s.access.rights[l].write.getLsbD 0 = false) ∧
  ∀ k : Fin 4, s.access.guards[k].sect ≤ 8 ∧ s.access.guards[k].first ≤ s.access.guards[k].last

/-! ### What the statements ask of a running command and of a frame -/

/-- The executor runs the command `c` as `r`. -/
def Runs (s : State) (r : Running) (c : Command) : Prop :=
  s.executor.running = some r ∧ r.command = c

/-- The link of `r` holds the write right to the section, and no guard covers the index (R175, R176). -/
def Permitted (s : State) (r : Running) (sect index : Nat) : Prop :=
  s.access.canWrite r.link sect = true ∧ s.access.guarded sect index = false

/-- The index stands among the notice and fault settings of the link of `r` (R181). -/
abbrev OwnSetting (r : Running) (sect index : Nat) : Prop :=
  sect = 1 ∧ 32 + 16 * r.link.val ≤ index ∧ index < 48 + 16 * r.link.val

/-- A write of an entry by `r` passes the access and guard checks: the link holds the write right to the
section, or the entry is a notice or fault setting of its own, and no guard covers the index (R175, R176,
R181). -/
def MayWrite (s : State) (r : Running) (sect index : Nat) : Prop :=
  (s.access.canWrite r.link sect = true ∨ OwnSetting r sect index) ∧ s.access.guarded sect index = false

/-- A write of the numeric setting at `index` of a section, run as the command `c`: a value of another byte
count is BAD_VALUE; one of `bytes` bytes, signed where the range goes below 0 (R163), is stored clamped to
`lo` to `hi` and answered as stored (R178). -/
def NumericWrite (c : Instr) (s : State) (r : Running) (sect index bytes : Nat) (lo hi : Int)
    (store : Int → State) : Prop :=
  ∀ value : List Byte, Runs s r (.writeEntry sect index value) → MayWrite s r sect index →
    let v : Int := if lo < 0 then intOfBytes value else ofBytes value
    let m : Int := clamp lo hi v
    (value.length ≠ bytes → exec c s = .next (s.respond r .badValue [])) ∧
    (value.length = bytes →
      exec c s = .next
        ((store m).respond r (if m = v then .ok else .okClamped)
          (if lo < 0 then beInt bytes m else beBytes bytes m.toNat)))

/-- A write of an enumerated setting of `n` values, or of a set as the number of its one byte below `n`, run
as the command `c`: an undefined value or another byte count is BAD_VALUE and stores nothing; any other value
is stored (R178, R194; the numbers of the values: log entry 30). -/
def EnumWrite (c : Instr) (s : State) (r : Running) (sect index n : Nat) (store : Byte → State) : Prop :=
  ∀ value : List Byte, Runs s r (.writeEntry sect index value) → MayWrite s r sect index →
    (∀ b, value = [b] → b.toNat < n → exec c s = .next ((store b).respond r .ok value)) ∧
    ((∀ b, value = [b] → n ≤ b.toNat) → exec c s = .next (s.respond r .badValue []))

/-- What selecting `target` under `options` leaves: its stack entry gone, the options in force, the
steering unit told, SOURCE_SELECTED on its way to the notice unit (R74). -/
def selecting (s : State) (target : Source) (options : StepOptions) : State :=
  { s with
    selector := { s.selector with
      stack := s.selector.stack.filter fun t => decide (toSource t.source ≠ target)
      selected := target }
    steering := { s.steering with options := options }
    flight := { s.flight with
      selections := s.flight.selections ++ [target]
      latches := s.flight.latches ++ [.sourceSelected] } }

/-- The options a selection of `target` brings: those saved with it when it is the stack top, else the
current ones (R74). -/
def optionsFor (s : State) (target : Source) : StepOptions :=
  match s.selector.stack with
  | t :: _ => if toSource t.source = target then t.options else s.steering.options
  | [] => s.steering.options

/-- `b` comes before every other source of `among` in the ranking of R73. -/
def RanksFirst (s : State) (among : Ext → Prop) (b : Ext) : Prop :=
  among b ∧ ∀ a, among a → a ≠ b →
    s.effectiveClass b < s.effectiveClass a ∨
    (s.effectiveClass b = s.effectiveClass a ∧
      (s.selector.entries[b].priority < s.selector.entries[a].priority ∨
        (s.selector.entries[b].priority = s.selector.entries[a].priority ∧ b < a)))

/-- Whether an advance of `adv` units of 2^-32 ns from `start` carries station time across `next`, and what
the output then notes: the units since, the place in the tick worked back from them, and the line at that
place (R152, R157). -/
def Passes (start adv : Nat) (next : Stamp) (busy : Elapsed → Prop) (noted : Option Passing) : Prop :=
  let d : Int := ((next.fuCount * 2 ^ 28 : Nat) - (start : Int)) % (2 ^ 48 * 1000000000 * 2 ^ 32)
  (¬(0 < d ∧ d ≤ adv) → noted = none) ∧
  (0 < d → d ≤ adv →
    ∃ p, noted = some p ∧ (p.since : Int) = adv - d ∧
      p.part.val = min 127 ((2 ^ 35 - p.since) / 2 ^ 28) ∧ (p.busy = true ↔ busy p.part))

/-- What faulting an entry that is not selected leaves (R72). -/
def faulted (s : State) (e : Ext) (code : Nat) : State :=
  { s with
    selector := { s.selector with
      entries := s.selector.entries.set e
        { s.selector.entries[e] with
          state := .faulted, retry := some s.selector.settings.retryTime, restore := none
          goodRun := 0, missRun := 0 } }
    inputs := if h : e.val < 2 then
        s.inputs.set e.val { s.inputs[e.val] with requestTimer := none }
      else s.inputs
    flight := { s.flight with
      faults := s.flight.faults ++
        [(.selector, ⟨code, e.val, (s.cycleTimer.cycle.getD 0) % 16777216⟩)] } }

/-- What faulting the selected source `e` with `cause` leaves: the entry faulted as any other, pushed with the
cause, its learned values and the options as they stand, the mask withdrawn, and the best-ranked USABLE source
selected, or LOCAL when there is none (R72, R73, R75, R76). -/
def FaultedAndLeft (s : State) (e : Ext) (code : Nat) (cause : Cause) (t : State) : Prop :=
  let n := s.selector.entries[e]
  let top : StackEntry :=
    ⟨e, cause, s.timebase.time.sec, n.learned, n.learnedCount, s.steering.options⟩
  let other (a : Ext) : Prop := a ≠ e ∧ s.selector.entries[a].state = .usable
  let left := faulted s e code
  ∃ target : Source,
    ((target = localSource ∧ ∀ a, ¬other a) ∨ ∃ b, target = toSource b ∧ RanksFirst s other b) ∧
    t = selecting
      { left with selector := { left.selector with
        stack := top :: s.selector.stack.filter fun v => decide (v.source ≠ e) } }
      target (s.steering.options.without s.steering.mask)

/-- The upgrade test takes `s` to `t`: with auto-upgrade ON and an external source selected, the best-ranked
USABLE source is selected when its effective class is strictly lower, without push or mask; otherwise nothing
changes (R80). -/
def UpgradeTested (s t : State) : Prop :=
  let usable (a : Ext) : Prop := s.selector.entries[a].state = .usable
  (s.selector.settings.autoUpgrade = false ∨ s.selector.selected = localSource ∨ (∀ a, ¬usable a) → t = s) ∧
  ∀ a best : Ext, s.selector.settings.autoUpgrade = true → s.selector.selected = toSource a →
    RanksFirst s usable best →
    t = if s.effectiveClass best < s.effectiveClass a then
        selecting s (toSource best) (optionsFor s (toSource best))
      else s

/-- What follows a change from `s` to `t` that may move the effective class of `e`: the upgrade test when it
did and `e` was USABLE or selected in `s`, and nothing otherwise (R63, R80). -/
def ClassJudged (s t : State) (e : Ext) (v : State) : Prop :=
  let moved := t.effectiveClass e ≠ s.effectiveClass e ∧
    (s.selector.entries[e].state = .usable ∨ s.selector.selected = toSource e)
  (moved → UpgradeTested t v) ∧ (¬moved → v = t)

/-- The pairing window of a held item has ended before `now` (R30, R31). -/
def Overdue (h : Held) (now : Stamp) : Prop :=
  (∃ c w, h = .pulse c w ∧ 0 < now.diff w) ∨ ∃ tod w, h = .sentence tod w ∧ 0 < now.diff w

/-- The held item of an input unit dropped as a BAD event with cause UNPAIRED, on its way to the selector
(R33). -/
def unpaired (s : State) (u : InUnit) : State :=
  let drop (reference : Option Stamp) (capture : Option Stamp) : State :=
    { s with
      inputs := s.inputs.set u { s.inputs[u] with held := .nothing }
      flight := { s.flight with
        toSelector := s.flight.toSelector.set (inSource u)
          (s.flight.toSelector[inSource u] ++
            [.phase ⟨inSource u, .bad .unpaired, reference, capture, s.compensation (inSource u)⟩]) } }
  match s.inputs[u].held with
  | .nothing => s
  | .pulse c _ => drop none (some c)
  | .sentence tod _ => drop (some ⟨tod.seconds, 0, 0⟩) none

/-- What R32 decides of a pair of the sentence `tod` and a pulse captured at `c`, with the anchor and the
intervals as they stand when the event is formed. -/
def Judged (tod : TimeOfDay) (anchor : Option Nat) (intervals : Count) (c : Stamp) (comp : Int)
    (v : Validity) : Prop :=
  let err := c.diff ⟨tod.seconds, 0, 0⟩ - comp
  let jump := ∃ a, anchor = some a ∧ tod.seconds ≠ (a + intervals.toNat) % 2 ^ 48
  (tod.locked = false → v = .bad .unlockedReceiver) ∧
  (tod.locked = true → jump → v = .bad .secondsJump) ∧
  (tod.locked = true → ¬jump → v = .good (clamp (-1099511627775) 1099511627775 err) err)

/-- What a formed pair leaves: the anchor at its seconds, the intervals at 0, on a GOOD event its scale
offset, presented while the unit's source is steered by (R105 says selected; log entry 40), and the event on
its way to the selector after `before` (R32). -/
def pairFormed (s : State) (u : InUnit) (tod : TimeOfDay) (c : Stamp) (comp : Int) (v : Validity)
    (before : List UnitEvent) : State :=
  { s with
    inputs := s.inputs.set u
      { s.inputs[u] with
        anchor := some tod.seconds, intervals := 0
        lastScale := if v.isGood = true then tod.scale else s.inputs[u].lastScale }
    steering := { s.steering with
      scale := if v.isGood = true ∧ s.steering.steered = some (inSource u) then tod.scale
        else s.steering.scale }
    flight := { s.flight with
      toSelector := s.flight.toSelector.set (inSource u)
        (s.flight.toSelector[inSource u] ++ (before ++
          [.phase ⟨inSource u, v, some ⟨tod.seconds, 0, 0⟩, some c, some comp⟩])) } }

/-- A descriptor request made by an input unit that enters TRIAL: begun at the divisor and parity in
effect, or counted as skipped while one is in transmission; the timer is at 10 either way (R34, R35). -/
def asked (i : InputUnit) : InputUnit :=
  match i.transmitter with
  | .idle =>
    { i with
      requestTimer := some 10
      transmitter := .sending i.settings.divisor i.settings.parity [0xF0#8, 0x3F#8, 0x00#8, 0xC1#8]
        ((14 + 4 * characterBits i.settings.parity) * (16 * (i.settings.divisor + 1)))
      counters := { i.counters with requestsSent := i.counters.requestsSent + 1 } }
  | .sending _ _ _ _ =>
    { i with
      requestTimer := some 10
      counters := { i.counters with requestsSkipped := i.counters.requestsSkipped + 1 } }

/-- An ABSENT entry enters TRIAL, and its input unit asks for the descriptor (R34, R66). -/
def intoTrial (s : State) (e : Ext) : State :=
  { s with
    selector := { s.selector with
      entries := s.selector.entries.set e
        { s.selector.entries[e] with
          state := .trial, goodRun := 0, missRun := 0, retry := none, restore := none } }
    inputs := if h : e.val < 2 then s.inputs.set e.val (asked s.inputs[e.val]) else s.inputs }

/-- The revert test on the stack top takes `s` to `t` (R78): with revertive mode ON, a USABLE top whose
restore timer has reached the wait-to-restore is reverted to, or its entry is refused and the new top
tested. -/
inductive RevertTested : State → State → Prop where
  /-- Revertive mode is OFF, or no stack top is due. -/
  | kept (s : State)
      (h : ∀ t ∈ s.selector.stack.head?, ¬(s.selector.settings.revertive = true ∧
        s.selector.entries[t.source].state = .usable ∧
        s.selector.settings.waitToRestore ≤ s.selector.entries[t.source].restore.getD 0)) :
      RevertTested s s
  /-- The top is due and in agreement: selected with its saved options, unless it is selected already. -/
  | reverted (s : State) (t : StackEntry) (rest : List StackEntry) (hs : s.selector.stack = t :: rest)
      (hr : s.selector.settings.revertive = true) (hu : s.selector.entries[t.source].state = .usable)
      (hw : s.selector.settings.waitToRestore ≤ s.selector.entries[t.source].restore.getD 0)
      (ha : ¬(8 ≤ t.learnedCount ∧ 8 ≤ s.selector.entries[t.source].learnedCount ∧
        s.selector.settings.disagreement <
          ((t.learned - s.selector.entries[t.source].learned).natAbs : Int))) :
      RevertTested s
        (if s.selector.selected = toSource t.source then s
        else selecting s (toSource t.source) t.options)
  /-- The top is due and in disagreement: its entry is removed, REVERT_REFUSED logged, the new top tested. -/
  | refused (s : State) (t : StackEntry) (rest : List StackEntry) (v : State)
      (hs : s.selector.stack = t :: rest)
      (hr : s.selector.settings.revertive = true) (hu : s.selector.entries[t.source].state = .usable)
      (hw : s.selector.settings.waitToRestore ≤ s.selector.entries[t.source].restore.getD 0)
      (ha : 8 ≤ t.learnedCount ∧ 8 ≤ s.selector.entries[t.source].learnedCount ∧
        s.selector.settings.disagreement <
          ((t.learned - s.selector.entries[t.source].learned).natAbs : Int))
      (hv : RevertTested
        { s with
          selector := { s.selector with stack := rest }
          flight := { s.flight with
            faults := s.flight.faults ++
              [(.selector, ⟨5, t.source.val, (s.cycleTimer.cycle.getD 0) % 16777216⟩)] } } v) :
      RevertTested s v

/-- A class is deliverable on a link: latched, not masked, and let through by the in-service stack (R186). -/
def Deliverable (n : NoticeLink) (c : NoticeClass) : Prop :=
  n.latch.getLsbD (classBit c).val = true ∧ n.mask.getLsbD (classBit c).val = false ∧
  (n.stack = [] ∨ (n.nest = true ∧ ∀ t ∈ n.stack.head?, (classBit c).val < (classBit t).val))

/-- A frame's fields lie in the ranges their bytes hold (R166). -/
def MarkFits (m : MarkFields) : Prop :=
  m.seconds < 2 ^ 48 ∧ m.nanos < 2 ^ 32 ∧ m.correction < 2 ^ 32 ∧ m.cls < 256

/-- The trailer's fields likewise (R166). -/
def TrailerFits (t : Trailer) : Prop :=
  t.steering < 256 ∧ t.kind < 256 ∧ t.age < 2 ^ 32 ∧ -128 ≤ t.scale ∧ t.scale ≤ 127 ∧ t.plan < 256 ∧
  t.slot < 256

/-- The fields of a frame lie in the ranges their bytes hold (R166). -/
def FrameFits : Frame → Prop
  | .mark m => MarkFits m
  | .state m t => MarkFits m ∧ TrailerFits t
  | .query r _ => r < 2 ^ 48
  | .reply r _ sec ns c cls => r < 2 ^ 48 ∧ sec < 2 ^ 48 ∧ ns < 2 ^ 32 ∧ c < 256 ∧ cls < 256

/-- The fields of a time-of-day sentence lie in their ranges (R164). -/
def TimeOfDayFits (t : TimeOfDay) : Prop :=
  t.seconds < 2 ^ 48 ∧ -128 ≤ t.scale ∧ t.scale ≤ 127 ∧ t.cls ≤ 7

/-- A command is not the power-on reset line. -/
def notPowerOn : Instr → Bool
  | .powerOnReset _ _ _ => false
  | _ => true

/-- A command that may change station time (R1). -/
def movesTime : Instr → Bool
  | .powerOnReset _ _ _ => true
  | .oscillatorTick => true
  | .stepRequestApplied _ => true
  | .stepTime _ => true
  | _ => false

/-- What a step of `offset` fu leaves: station time moved exactly, the low 28 bits of the fine fraction
kept, the step record and count, and one announcement on its way to each of its takers (R10, R11). The
model's own mark of a departure whose instant has come holds what the reading just before the step shows
(log entry 20). -/
def Stepped (s t : State) (origin : StepOrigin) (offset : Int) (x : Elapsed) : Prop :=
  let a : StepAnnouncement := ⟨origin, offset, t.timebase.time⟩
  (t.timebase.time.units : Int) =
    ((s.timebase.time.units : Int) + offset * 2 ^ 28) % (2 ^ 48 * 1000000000 * 2 ^ 32) ∧
  t.timebase.time.normal = true ∧ t.timebase.time.frac % 2 ^ 28 = s.timebase.time.frac % 2 ^ 28 ∧
  t = { s with
    timebase := { s.timebase with
      time := t.timebase.time
      record := some ⟨origin, offset, t.timebase.time.reading x⟩
      stepCount := s.timebase.stepCount + 1 }
    ports := s.ports.map fun q => { q with
      departures := q.departures.map fun d =>
        { d with came := d.came || decide (0 ≤ (s.reading x).diff d.due) } }
    flight := { s.flight with
      toCycleTimer := s.flight.toCycleTimer ++ [.step a]
      stepsToInput := s.flight.stepsToInput.map (· ++ [a])
      stepsToUplink := s.flight.stepsToUplink.map (· ++ [a])
      stepsToSelector := s.flight.stepsToSelector ++ [a]
      stepsToSteering := s.flight.stepsToSteering ++ [a]
      stepsToPulse := s.flight.stepsToPulse.map (· ++ [a])
      stepsToCoded := s.flight.stepsToCoded.map (· ++ [a])
      latches := s.flight.latches ++ [.timeStepped] } }

/-! ### What the listed indices of the nine sections read as -/

/-- Entries at an offset from a base index. -/
def atBase (base : Nat) (l : List (Nat × List Byte)) : List (Nat × List Byte) :=
  l.map fun v => (base + v.1, v.2)

/-- Counters in the order of their table (R163). -/
def countersRead (l : List Count) : List Byte :=
  l.flatMap fun c => beBytes 4 c.toNat

/-- The state table of chapter 2 in its order, settings and counters left out (R64; log entries 31 and 44). -/
def inputStateRead (i : InputUnit) : List Byte :=
  (match i.tracker with
    | .idle => [0#8, 0#8]
    | .seeking => [1#8, 0#8]
    | .tracking x _ => [2#8, 1#8] ++ encStamp x) ++
  encOption (beBytes 6) i.anchor ++ beBytes 4 i.intervals.toNat ++
  (match i.held with
    | .nothing => [0#8]
    | .pulse c w => [1#8, 0#8] ++ encStamp c ++ encStamp w
    | .sentence t w =>
      [1#8, 1#8] ++ (beBytes 6 t.seconds ++ beInt 1 t.scale ++ encBool t.locked ++ [byte t.cls]) ++
        encStamp w) ++
  [match i.receiver with
    | .idle | .lowIdle => 0#8
    | .character _ _ | .leadWait _ _ => 1#8
    | .inBreak => 2#8
    | .measuring | .counting _ _ => 3#8] ++
  (match i.assembler with
    | .waitBreak => [0#8, 0#8, 0#8, 0#8]
    | .lead => [1#8, 0#8, 0#8, 0#8]
    | .kind => [2#8, 0#8, 0#8, 0#8]
    | .length k => [3#8, k, 0#8, 0#8]
    | .body k n got => [4#8, k, byte n, byte got.length] ++ got
    | .check k n got => [5#8, k, byte n, byte got.length] ++ got) ++
  encOption (fun n => [byte n]) i.requestTimer ++
  [match i.transmitter with
    | .idle => 0#8
    | .sending _ _ _ _ => 1#8] ++
  beInt 1 i.lastScale

/-- The state table of chapter 3 in its order (R64; log entry 31). -/
def uplinkStateRead (i : UplinkUnit) : List Byte :=
  encBool i.running ++
  encOption (fun m : Sample => encStamp m.t1 ++ encStamp m.t2 ++ (m.word.plan :: beBytes 3 m.word.cycle.toNat))
    i.sample ++
  encOption encWide i.forward ++
  encOption (fun o : Outstanding =>
    beBytes 2 o.seq.toNat ++ beBytes 6 o.requester ++ encStamp o.t3 ++ [byte o.seen]) i.outstanding ++
  beBytes 2 i.seq.toNat ++ (byte i.window.length :: i.window.flatMap (beInt 4)) ++
  encOption encWide (if i.window = [] then none else some (i.window.sum.tdiv i.window.length)) ++
  encBool i.released ++ encBool i.judging ++ encOption (fun n => [byte n]) i.lastClass ++ beInt 1 i.lastScale

/-- The settings, counters and readable state of the unit of a source, from offset 16 (R64). -/
def unitEntries (s : State) (e : Ext) : List (Nat × List Byte) :=
  if h : e.val < 2 then
    let i := s.inputs[e.val]
    [(16, beBytes 4 i.settings.halfWidth), (17, beBytes 2 i.settings.divisor),
      (18, [byte i.settings.parity.code]), (19, encBool i.settings.armed),
      (20, [byte i.settings.mode.code]), (21, beBytes 2 i.settings.window),
      (24, countersRead [i.counters.framing, i.counters.parity, i.counters.unframed,
        i.counters.badSentences, i.counters.orphans, i.counters.badDescriptors, i.counters.descriptors,
        i.counters.requestsSent, i.counters.requestsSkipped, i.counters.measurements]),
      (25, inputStateRead i)]
  else
    let i := s.uplinks[e.val - 2]
    let c := i.counters
    [(16, beBytes 4 i.settings.ingress), (17, beBytes 4 i.settings.egress),
      (18, beBytes 6 i.settings.requester), (19, [byte i.settings.slot]),
      (20, [byte i.settings.interval]), (21, beBytes 4 i.settings.maxDelay),
      (24, countersRead [c.marks, c.badFrames, c.unexpected, c.incomplete, c.mismatch, c.unopened,
        c.released, c.queriesSent, c.queriesSkipped, c.queriesLost, c.queriesAbandoned, c.repliesMatched,
        c.repliesDropped, c.repliesNoForward, c.badDelays, c.delaysAccepted]),
      (25, uplinkStateRead i)]

/-- An external source's entries (R64). -/
def sourceEntries (s : State) (e : Ext) : List (Nat × List Byte) :=
  let n := s.selector.entries[e]
  [(0, encBool (decide (n.state ≠ .disabled))), (1, [byte n.priority]), (2, [byte n.cls]),
    (3, beBytes 4 (if e.val < 2 then n.cableDelay else 0)), (4, beInt 4 n.deviceDelay),
    (5, [byte n.state.code]),
    (6, if h : e.val < 2 then
        encOption (fun d : Descriptor => encOption (beInt 4) d.deviceDelay ++
          encOption (fun c => [byte c]) d.cls ++ d.identity) n.descriptor
      else encOption (fun c => [byte c]) s.uplinks[e.val - 2].lastClass),
    (7, [byte (s.effectiveClass e)]), (8, encOption encWide (s.compensation e)),
    (9, [byte n.goodRun, byte n.missRun]), (10, encWide n.learned ++ [byte n.learnedCount]),
    (11, encOption (beBytes 2) n.retry ++ encOption (beBytes 2) n.restore),
    (12, countersRead [n.good, n.bad, n.misses, n.strays])] ++ unitEntries s e

/-- LOCAL's entries: enabled, class 7, USABLE, advertised values and compensation absent, the rest 0 or
stopped (R64). -/
def localEntries : List (Nat × List Byte) :=
  [(0, [1#8]), (1, [byte localPriority.val]), (2, [7#8]), (3, beBytes 4 0), (4, beInt 4 0), (5, [3#8]),
    (6, [0#8]), (7, [7#8]), (8, [0#8]), (9, [0#8, 0#8]), (10, beInt 8 0 ++ [0#8]), (11, [0#8, 0#8]),
    (12, countersRead [0, 0, 0, 0])]

/-- The selector-wide entries (R64). -/
def selectorEntries (q : Selector) : List (Nat × List Byte) :=
  [(160, [byte q.settings.qualify]), (161, beBytes 2 q.settings.retryTime), (162, [byte q.settings.missLimit]),
    (163, beInt 4 q.settings.disagreement), (164, beBytes 2 q.settings.waitToRestore),
    (165, encBool !q.settings.revertive), (166, encBool !q.settings.autoUpgrade),
    (167, [byte q.selected.val]),
    (168, byte q.stack.length :: (q.stack.flatMap fun t =>
        byte t.source.val :: byte t.cause.code :: (beBytes 6 t.second ++ encWide t.learned ++
          [byte t.learnedCount, byte t.options.code])) ++
      [byte q.stack.length] ++ encBool (decide (q.stack.length = 4)) ++ encBool (decide (q.stack = [])))]

/-- The STEERING section (R106). -/
def steeringEntries (s : State) : List (Nat × List Byte) :=
  let t := s.steering
  let g := t.settings
  let c := t.counters
  [(0, [byte t.state.code]), (1, encWide t.integral), (2, [byte t.lockCount, byte t.excursionCount]),
    (3, byte t.ring.length :: t.ring.flatMap (beInt 4)),
    (4, beBytes 4 t.age ++ encOption (fun n => [byte n]) s.holdoverClass ++
      encOption (fun o : HoldoverOrigin => [byte o.source.val, byte o.cls]) t.origin),
    (5, [byte t.state.code, byte s.outputClass, byte s.selectedKind] ++ beBytes 4 s.presentedAge ++
      beInt 1 t.scale ++ encBool s.acquisitionSquelch),
    (6, [byte t.options.code]), (7, [byte t.mask.code]), (8, beInt 6 g.ts), (9, beInt 4 g.tl),
    (10, [byte g.lockCount]), (11, beInt 4 g.tx), (12, [byte g.excursionCount]), (13, [byte g.pa]),
    (14, [byte g.ia]), (15, [byte g.pt]), (16, [byte g.it]), (17, beBytes 4 g.holdoverStep),
    (18, beBytes 4 g.holdoverLimit),
    (19, encOption (fun e : Ext => [byte e.val]) t.steered ++ encOption (fun n => [byte n]) t.steeredClass ++
      encOption (fun p : PendingStep => encWide p.offset ++ [byte p.source.val]) t.pendingStep),
    (20, countersRead [c.processed, c.setAside, c.stepsRequested, c.clamped, c.hardExcursions,
      c.excursions, c.locks, c.holdoverEntries, c.holdoverExpiries])]

/-- The TIME section (chapter 1, 1.5). -/
def timeEntries (s : State) (x : Elapsed) : List (Nat × List Byte) :=
  let t := s.timebase
  [(0, encStamp (s.reading x)), (1, beInt 4 t.rate), (2, beInt 4 t.trim), (3, beInt 4 t.rateLimit),
    (4, encOption (fun r : StepRecord =>
        (match r.origin with | .steering => 0#8 | .command => 1#8) :: (encWide r.offset ++ encStamp r.after))
      t.record ++ beBytes 4 t.stepCount.toNat)]

/-- A port map: a count of its entries and a byte for each (R168). -/
def mapRead (m : List SlotEntry) : List Byte :=
  byte m.length :: m.map fun e => byte e.code

/-- A bank's entries (R116). -/
def bankEntries (k : Bank) : List (Nat × List Byte) :=
  [(0, [byte k.planId]), (1, [byte k.role.code])] ++
  (List.finRange 6).map fun p => (8 + p.val, mapRead k.maps[p])

/-- The PLANS section (R116). -/
def planEntries (s : State) : List (Nat × List Byte) :=
  let t := s.cycleTimer
  bankEntries s.plans.a ++ atBase 256 (bankEntries s.plans.b) ++
  [(512, beBytes 2 t.epoch),
    (513, encOption (beBytes 6) t.cycle ++ encOption (fun n => [byte n]) t.slot ++ encBool t.cut ++
      encBool t.resume),
    (514, match s.plans.pendingBank, s.plans.relabel with
      | some .a, _ => [1#8, 0#8]
      | some .b, _ => [1#8, 1#8]
      | none, some i => [2#8, byte i]
      | none, none => [0#8])]

/-- A port's entries (R148). -/
def portEntries (q : PortUnit) : List (Nat × List Byte) :=
  let c := q.counters
  [(0, encBool (decide (q.state ≠ .off))), (1, [byte q.settings.budget]), (2, beBytes 2 q.settings.stagger),
    (3, [byte q.settings.mute]), (4, beBytes 4 q.settings.ingress), (5, beBytes 4 q.settings.egress),
    (8, [byte q.state.code, match q.link with | .up => 0#8 | .down => 1#8]), (9, encOption mapRead q.map),
    (10, encOption (fun w : CycleWord => w.plan :: beBytes 3 w.cycle.toNat) q.word ++
      encBool q.openingSent ++ encBool q.trimmed),
    (11, beBytes 2 q.seq.toNat),
    (12, byte q.answers.length :: q.answers.flatMap fun a =>
      beBytes 6 a.requester ++ beBytes 2 a.seq.toNat ++ encStamp a.arrival ++ [byte a.remaining]),
    (13, encBool q.overrun),
    (16, countersRead [c.marks, c.states, c.muted, c.replies, c.cancelled, c.taken, c.duplicates,
      c.overruns, c.expired, c.dropped, c.badFrames, c.unexpected, c.linkLosses])]

/-- A pulse output's entries (R160). -/
def pulseEntries (o : PulseUnit) : List (Nat × List Byte) :=
  [(0, beInt 4 o.offset), (1, beBytes 4 o.width), (2, [byte o.squelch]),
    (8, encBool o.high ++ beBytes 4 o.fall ++ encStamp o.next),
    (12, countersRead [o.sent, o.squelched, o.overlapped])]

/-- A coded-time output's entries (R160). -/
def codedEntries (o : CodedUnit) : List (Nat × List Byte) :=
  [(0, beBytes 2 o.lead), (1, beBytes 2 o.divisor), (2, [byte o.parity.code]),
    (8, (match o.line with | .idle => 0#8 | .sending _ _ _ _ => 1#8) :: (encStamp o.next ++ beBytes 6 o.names)),
    (12, countersRead [o.sent, o.skipped])]

/-- A link's state, counters, and notice and fault entries in CONTROL (R181, R194). -/
def linkEntries (s : State) (l : Link) : List (Nat × List Byte) :=
  let k := s.links[l]
  let c := k.counters
  let n := s.notice.links[l]
  [(4 * l.val + 8, [byte k.commands.length, byte k.responses.length] ++ encBool k.escalated ++
      encBool k.dropped),
    (4 * l.val + 9, countersRead [c.taken, c.empty, c.dropped, c.part, c.bad, c.delivered])] ++
  atBase (32 + 16 * l.val)
    [(0, [byte n.mask.toNat]), (1, encBool !n.nest), (2, [byte n.mode.code]), (3, [byte n.delay]),
      (4, [byte n.admitMask.toNat]), (8, [byte n.latch.toNat]),
      (9, byte n.stack.length :: n.stack.map fun c => byte ((classBit c).val + 1)),
      (10, byte n.faults.length :: encBool n.overflow)]

/-- The ACCESS section (R179). -/
def accessEntries (a : Access) : List (Nat × List Byte) :=
  ((List.finRange 3).map fun l => (l.val, beBytes 2 a.rights[l].read.toNat ++ beBytes 2 a.rights[l].write.toNat)) ++
  ((List.finRange 4).map fun g => (8 + g.val,
    encBool a.guards[g].inUse ++ byte a.guards[g].sect :: (beBytes 2 a.guards[g].first ++
      beBytes 2 a.guards[g].last))) ++
  [(16, encBool a.lock), (17, encBool (decide (a.strap = .high)))]

/-- The listed indices of a section and what each reads as (R64, R106, R116, R148, R160, R179, R181, R194;
chapter 1, 1.5). -/
def entriesOf (s : State) (x : Elapsed) : Nat → List (Nat × List Byte)
  | 0 => [(0, beBytes 8 6208), (1, beBytes 8 8), (2, beBytes 8 unitIdentity.toNat)]
  | 1 => (0, beBytes 4 s.executor.resetCount.toNat) :: (List.finRange 3).flatMap (linkEntries s)
  | 2 => ((List.finRange 4).flatMap fun e => atBase (32 * e.val) (sourceEntries s e)) ++
      (atBase 128 localEntries ++ selectorEntries s.selector)
  | 3 => steeringEntries s
  | 4 => timeEntries s x
  | 5 => planEntries s
  | 6 => (List.finRange 6).flatMap fun p => atBase (32 * p.val) (portEntries s.ports[p])
  | 7 => ((List.finRange 4).flatMap fun k => atBase (16 * k.val) (pulseEntries s.pulses[k])) ++
      (List.finRange 2).flatMap fun m => atBase (64 + 16 * m.val) (codedEntries s.coded[m])
  | 8 => accessEntries s.access
  | _ => []

/-! ### Writes of entries (R178) -/

/-- The listed indices of a section that a write finds read-only, or written only by their own command (R64,
R106, R116, R148, R160, R179, R181, R194; chapter 1, 1.5). -/
def readOnlyOf : Nat → List Nat
  | 0 => [0, 1, 2]
  | 1 => [0, 8, 9, 12, 13, 16, 17] ++ (List.range 3).flatMap fun l => [8, 9, 10].map (32 + 16 * l + ·)
  | 2 =>
    ((List.range 4).flatMap fun e =>
      ([5, 6, 7, 8, 9, 10, 11, 12, 24, 25] ++ if e < 2 then [] else [3]).map (32 * e + ·)) ++
    (List.range 13).map (128 + ·) ++ [167, 168]
  | 3 => [0, 1, 2, 3, 4, 5, 19, 20]
  | 4 => [0, 1, 4]
  | 5 => [0, 1, 256, 257, 513, 514]
  | 6 => (List.range 6).flatMap fun p => [8, 9, 10, 11, 12, 13, 16].map (32 * p + ·)
  | 7 => (List.range 6).flatMap fun k => [8, 12].map (16 * k + ·)
  | 8 => [16, 17]
  | _ => []

/-- The index is that of a port map, whose write tests the bank's role before the value (R115, R116). -/
abbrev isMapIndex (sect index : Nat) : Prop :=
  sect = 5 ∧ (8 ≤ index ∧ index < 14 ∨ 264 ≤ index ∧ index < 270)

/-- The command of the table that a WRITE ENTRY is (log entry 5). -/
def writeCommand (sect index : Nat) (value : List Byte) : Instr :=
  match writeRow sect index value with
  | .writeEntry => .writeEntry
  | .rateLimit => .rateLimitWrite
  | .pairingMode => .pairingModeWrite
  | .autoRateArm => .autoRateArmWrite
  | .sourceEnable => .sourceEnable
  | .sourceDisable => .sourceDisable
  | .autoUpgrade => .autoUpgradeWrite
  | .programmedClass => .programmedClassWrite
  | .steeringOptions => .steeringOptionsWrite
  | .portMap => .portMapWrite
  | .epochLength => .epochLengthWrite
  | .portEnable => .portEnable
  | .portDisable => .portDisable
  | .accessTable => .accessTableWrite
  | .guardEntry => .guardEntryWrite
  | .noticeMask => .noticeMaskWrite
  | .nestMode => .nestModeWrite

end Sys2Proof.Safety
end

