-- ==== Sys2Proof/Certificates/Slice0/Obligations.lean ====
section
/-! DEFINITION. The statements for the provers. -/

open Sys2Proof Sys2Proof.Machine Sys2Proof.Config Sys2Proof.Safety

/-! ### The machine -/

/-- A step takes the command at the front of the queue and runs it on the state with the queue's rest; with
no command waiting the part idles, which is the model's choice (log entry 2). -/
def Obligations.StepRunsFrontCommand : Prop :=
  (∀ (c : Instr) (rest : List Instr) (s : State),
    step { s with pending := c :: rest } = exec c { s with pending := rest }) ∧
  ∀ s : State, s.pending = [] → step s = .next s

/-- POWER_ON_RESET leaves every block at the values of the power-on columns of R17, R43, R61, R87, R109, R127,
R151, R162, R184 and R195, whatever the state before it. The commands that wait go on waiting, which is the
model's choice (log entry 36), and so are the values of the fields the columns do not name: a rise's and a
transmission's place, a passed time, a stagger and cycle in hand, the frames sent, whether the complete
condition is met, the early reports, the events in flight (log entry 27). -/
def Obligations.PowerOnResetValues : Prop :=
  ∀ (strap : Level) (ups : Vector LinkLevel 2) (links : Vector LinkLevel 6) (s : State),
    ∃ t, exec (.powerOnReset strap ups links) s = .next t ∧ t.pending = s.pending ∧
      t.timebase = ⟨⟨0, 0, 0⟩, 0, 0, 1717986, none, 0⟩ ∧
      (∀ u : InUnit, t.inputs[u] =
        ⟨.idle, none, 0, .nothing, .idle, .waitBreak, none, .idle, 0,
          ⟨100000, 406, .none, false, .follows, 800⟩, ⟨0, 0, 0, 0, 0, 0, 0, 0, 0, 0⟩⟩) ∧
      (∀ u : UpUnit, t.uplinks[u] =
        ⟨false, ups[u], none, none, none, 0, [], false, false, false, none, 0,
          ⟨0, 0, u.val + 1, 20, 1, 1600000⟩, ⟨0, 0, 0, 0, 0, 0, 0, 0, 0, 0, 0, 0, 0, 0, 0, 0⟩, []⟩) ∧
      (∀ e : Ext, t.selector.entries[e] =
        ⟨.disabled, 0, 6, 0, 0, none, 0, 0, 0, 0, none, none, 0, 0, 0, 0⟩) ∧
      t.selector.selected = localSource ∧ t.selector.stack = [] ∧
      t.selector.settings = ⟨10, 30, 3, 16000, 60, true, false⟩ ∧
      t.steering =
        ⟨.free, 0, 0, 0, [], 0, none, none, none, none, 0, ⟨true, true, true⟩, ⟨true, false, false⟩,
          ⟨16000000, 1600, 8, 16000, 3, 1, 3, 3, 7, 3600, 86400⟩, ⟨0, 0, 0, 0, 0, 0, 0, 0, 0⟩⟩ ∧
      t.cycleTimer = ⟨none, none, false, false, 10⟩ ∧
      t.plans.a = ⟨0, .inactive, Vector.replicate 6 (List.replicate 40 .idle)⟩ ∧
      t.plans.b = t.plans.a ∧ t.plans.relabel = none ∧
      (∀ p : Port, t.ports[p] =
        ⟨.off, links[p], none, none, false, false, 0, 0, [], 0, [], false, ⟨40, 0, 8, 0, 0⟩,
          ⟨0, 0, 0, 0, 0, 0, 0, 0, 0, 0, 0, 0, 0⟩, []⟩) ∧
      (∀ k : PulseOut, t.pulses[k] = ⟨false, 0, 0, ⟨1, 0, 0⟩, none, 0, 100000, 8, 0, 0, 0⟩) ∧
      (∀ m : CodedOut, t.coded[m] = ⟨.idle, 0, ⟨1, 0, 0⟩, 1, none, 0, 406, .none, 0, 0⟩) ∧
      (∀ l : Link,
        t.links[l] = ⟨[], [], false, none, none, false, ⟨0, 0, 0, 0, 0, 0⟩⟩ ∧
        t.notice.links[l] = ⟨0, 0, true, [], .delay, 0, .delay, 0, false, false, [], false, 15⟩) ∧
      t.executor = ⟨none, 2, 0⟩ ∧ t.access.lock = false ∧ t.access.strap = strap ∧
      t.access.rights = #v[⟨511, 510⟩, ⟨511, 0⟩, ⟨511, 0⟩] ∧
      (∀ g : Fin 4, t.access.guards[g] = ⟨false, 0, 0, 0⟩) ∧
      t.notice.completion = none ∧ t.notice.completeMet = false ∧ t.notice.early = [] ∧
      t.flight =
        { rateWords := [], stepRequests := [], toCycleTimer := [], stepsToSelector := []
          stepsToSteering := [], cyclesToSelector := [], cyclesToSteering := [], cyclesToNotice := []
          excursions := [], goodEvents := [], selections := [], latches := [], faults := []
          stepsToInput := #v[[], []], stepsToUplink := #v[[], []], stepsToPulse := #v[[], [], [], []]
          stepsToCoded := #v[[], []], cyclesToUplink := #v[[], []], toPort := #v[[], [], [], [], [], []]
          toSelector := #v[[], [], [], []], reports := #v[[], [], [], [], [], []] }

/-- After power-on reset every promise that the steps keep holds, at either level of the strap and with any
state of the Ethernet links. -/
def Obligations.ResetMeetsEveryPromise : Prop :=
  ∀ (strap : Level) (ups : Vector LinkLevel 2) (links : Vector LinkLevel 6) (pending : List Instr),
    let s := State.powerOn strap ups links pending
    TimeNormal s ∧ RatesBounded s ∧ LinksSound s ∧ PlansSound s ∧ FallbackSound s ∧ TimersSound s ∧
    UnitsSound s ∧ SteeringSound s ∧ IntegralBounded s ∧ HistoriesBounded s ∧ PortsSound s ∧
    ServingSound s ∧ NoticesSound s ∧ AccessSound s

/-! ### Promises that every step keeps -/

/-- Station time stays normalized, the rate limit in its range, the rate word within it (R1, R7, R8). -/
def Obligations.TimebaseStaysInRange : Prop :=
  ∀ s t : State, TimeNormal s → RatesBounded s → step s = .next t → TimeNormal t ∧ RatesBounded t

/-- Each link's queues hold at most four frames, and a running command's response finds room (R170, R172,
R173). -/
def Obligations.LinkQueuesStayBounded : Prop :=
  ∀ s t : State, LinksSound s → step s = .next t → LinksSound t

/-- At most one bank is ACTIVE, at most one change is pending (R114, R117). No port is SERVING while no bank
is ACTIVE (R129). -/
def Obligations.BanksAndServingStaySound : Prop :=
  (∀ s t : State, PlansSound s → step s = .next t → PlansSound t) ∧
  (∀ s t : State, ServingSound s → step s = .next t → ServingSound t)

/-- The fallback stack names different sources, none selected and none DISABLED, and a selected external
source is USABLE (R75, R88). -/
def Obligations.FallbackStackStaysSound : Prop :=
  ∀ s t : State, FallbackSound s → step s = .next t → FallbackSound t

/-- The retry timer runs exactly in FAULTED and the restore timer exactly in USABLE (R72, R78); a tracker is
IDLE and an uplink unit IDLE exactly while the entry is DISABLED (R39, R40, R58). -/
def Obligations.EntriesStaySound : Prop :=
  ∀ s t : State, TimersSound s → UnitsSound s → step s = .next t → TimersSound t ∧ UnitsSound t

/-- A steered source is named exactly in ACQUIRE and LOCKED and a holdover origin exactly in HOLDOVER; once
it has taken the selections on their way, the steering unit steers by the selected source, LOCAL being FREE
or HOLDOVER, but for the stretch of a SERVICE RESET that one of the two has taken and the other not (R88,
R100, R102). The selections on their way are the model's (log entry 3), and so are the stretch of a SERVICE
RESET, block by block, and what it leaves of a selection (log entries 21 and 22). -/
def Obligations.SteeringFollowsSelection : Prop :=
  ∀ s t : State, SteeringSound s → step s = .next t → SteeringSound t

/-- The integral accumulator stays below 2^60 in magnitude (R93; chapter 5, state table). The rate history
ring holds at most 16 words, a delay window at most 8 delays of 0 to 16,000,000 fu (R53, R96). -/
def Obligations.LoopHistoryStaysBounded : Prop :=
  (∀ s t : State, IntegralBounded s → step s = .next t → IntegralBounded t) ∧
  (∀ s t : State, HistoriesBounded s → step s = .next t → HistoriesBounded t)

/-- A port's answer queue holds at most eight different queries and its departure queue two departures, and
both are empty unless it is SERVING (R134, R141). -/
def Obligations.PortQueuesStayBounded : Prop :=
  ∀ s t : State, PortsSound s → step s = .next t → PortsSound t

/-- The in-service stacks stay in strictly rising priority and the fault queues within sixteen entries
(R187, R191). -/
def Obligations.NoticeStacksStayRising : Prop :=
  ∀ s t : State, NoticesSound s → step s = .next t → NoticesSound t

/-- Every link keeps the read right to IDENTITY and none gets the write right to it, by the table (R175,
R179). With the lock flag set, no command but power-on reset changes the access table, the guards or the
lock flag, and none but power-on reset ever changes the override value (R180, R184). -/
def Obligations.AccessStaysSoundAndLocked : Prop :=
  (∀ s t : State, AccessSound s → step s = .next t → AccessSound t) ∧
  (∀ (c : Instr) (s t : State), notPowerOn c = true → exec c s = .next t →
     (s.access.lock = true → t.access = s.access) ∧ t.access.strap = s.access.strap)

/-- Station time is changed by the advance, by steps and by power-on reset, and by nothing else (R1). -/
def Obligations.OnlyTicksAndStepsMoveTime : Prop :=
  ∀ (c : Instr) (s t : State), movesTime c = false → exec c s = .next t →
    t.timebase.time = s.timebase.time

/-! ### Byte formats -/

/-- The bytes of every exchange frame whose fields lie in range are read back as that frame, whatever
padding follows them (R166). -/
def Obligations.ExchangeFramesRoundTrip : Prop :=
  ∀ (f : Frame) (padding : List Byte), FrameFits f → readFrame (f.encode ++ padding) = some f

/-- The sentence a coded-time output sends passes the format checks of a reference input, which reads its
fields back (R158, R164). -/
def Obligations.CodedSentenceReadBack : Prop :=
  ∀ t : TimeOfDay, TimeOfDayFits t →
    ∃ (body : List Byte) (check : Byte),
      todSentence t = [0xF0#8, 0x31#8, 8#8] ++ body ++ [check] ∧ body.length = 8 ∧
      sentenceOk 0x31#8 8 body check = true ∧ readTimeOfDay body = t

/-- A command frame of at most 64 payload bytes is read as its code, tag and payload when its bytes sum to 0
modulo 256, and answered BAD_CHECK with any other check, as is a frame whose length byte exceeds 64, its
second byte being its tag all the same (R167, R174). A response frame is tag, status, length, payload and the
check that makes it sum to 0, each status with its number (R167). The code names the command and the payload
its fields in the order of R168; a payload that does not hold them is BAD_VALUE, but for READ TIME, which
ignores its payload, and a code not listed is BAD_COMMAND (R167, R168, R174). That a payload longer than its
layout is BAD_VALUE too is the model's reading (log entry 29). -/
def Obligations.ManagementFramesChecked : Prop :=
  (∀ (code tag check : Byte) (payload : List Byte), payload.length ≤ 64 →
    let frame := code :: tag :: BitVec.ofNat 8 payload.length :: (payload ++ [check])
    frameTag frame = tag ∧
    (byteSum frame = 0#8 → readCommandFrame frame = readCommand code payload) ∧
    (byteSum frame ≠ 0#8 → readCommandFrame frame = .error .badCheck)) ∧
  (∀ (code tag length : Byte) (rest : List Byte), 64 < length.toNat →
    frameTag (code :: tag :: length :: rest) = tag ∧
    readCommandFrame (code :: tag :: length :: rest) = .error .badCheck) ∧
  (∀ (tag : Byte) (st : Status) (payload : List Byte),
    byteSum (responseFrame tag st payload) = 0#8 ∧
    ∃ check, responseFrame tag st payload =
      tag :: statusCode st :: BitVec.ofNat 8 payload.length :: (payload ++ [check])) ∧
  ([Status.ok, .okClamped, .denied, .guarded, .locked, .roleLocked, .pendingExists, .badValue, .badIndex,
      .badCommand, .badCheck, .refused, .empty].map statusCode =
    [0x00#8, 0x01#8, 0x10#8, 0x11#8, 0x12#8, 0x13#8, 0x14#8, 0x20#8, 0x21#8, 0x22#8, 0x23#8, 0x30#8,
      0x31#8]) ∧
  (∀ a b c : Byte,
    readCommand 0x01#8 [a, b, c] = .ok (.readEntry a.toNat (b.toNat * 256 + c.toNat)) ∧
    readCommand 0x30#8 [a, b, c] = .ok (.armPlan a.toNat (b.toNat * 256 + c.toNat)) ∧
    readCommand 0x20#8 [a] = .ok (.switchSource a.toNat) ∧
    ∀ value : List Byte, readCommand 0x02#8 (a :: b :: c :: value) =
      .ok (.writeEntry a.toNat (b.toNat * 256 + c.toNat) value)) ∧
  (∀ seconds nanos : BitVec 32,
    readCommand 0x11#8 (beBytes 4 seconds.toNat ++ beBytes 4 nanos.toNat) =
      .ok (.stepTime seconds.toInt nanos.toInt)) ∧
  (∀ payload : List Byte,
    readCommand 0x10#8 payload = .ok .readTime ∧
    readCommand 0x40#8 payload = .ok (.clearPortFlags (payload.map fun b => b.toNat)) ∧
    (payload.length < 3 → readCommand 0x02#8 payload = .error .badValue) ∧
    (∀ x ∈ [(0x01#8, 3), (0x11#8, 8), (0x20#8, 1), (0x30#8, 3)],
      payload.length ≠ x.2 → readCommand x.1 payload = .error .badValue) ∧
    (∀ x ∈ [(0x21#8, Command.discardFallback), (0x31#8, .disarmPlan), (0x50#8, .takeNotice),
        (0x51#8, .endService), (0x52#8, .peekFault), (0x53#8, .popFault), (0x54#8, .clearFaultOverflow),
        (0x60#8, .lockAccess), (0x61#8, .serviceReset), (0x62#8, .linkReset)],
      readCommand x.1 payload = if payload = [] then .ok x.2 else .error .badValue) ∧
    ∀ code : Byte,
      code ∉ [0x01#8, 0x02#8, 0x10#8, 0x11#8, 0x20#8, 0x21#8, 0x30#8, 0x31#8, 0x40#8, 0x50#8, 0x51#8,
        0x52#8, 0x53#8, 0x54#8, 0x60#8, 0x61#8, 0x62#8] →
      readCommand code payload = .error .badCommand)

/-! ### Chapter 1 -/

/-- On each tick station time moves on by exactly 8 × 2^32 + r units of 2^-32 ns, seconds modulo 2^48, and
stays normalized; the tick changes nothing but station time, what other blocks count in ticks, the placed
times that it passes, the departure instants that it reaches, and the announcements on their way to the cycle
timer (R2). A tick that carries nanoseconds across 10^9 issues a second boundary announcement with the new
seconds value (R3), one that carries them across k × 25 ms within the second issues the crossing (R111), each
with the reading at its instant, worked back from the fraction at the tick's end (R3), or at the tick's very
end that tick's station time (R4); any other tick issues nothing. The tick counts a measurement's low and the
rest of a measured lead (R27), a request and a sentence in transmission (R35, R158) and a HIGH line's fall
count (R154), and marks the departures whose instant has come (R135). A rise or due time that the advance
carries station time across has passed, with its place in the tick and the line at that place (R152, R157).
Which of a rise and a fall at one place comes first, and that a tick takes a line LOW or IDLE whose end is
due, is log entry 10; that transmissions and measurements are counted so is log entry 26, and that a departure
keeps that its instant has come log entry 20. That a place outside the tick is placed at its nearer end is log
entry 14; that a time passed and not decided waits, and that a waiting step announcement is taken before a
crossing is looked for, is log entry 12. -/
def Obligations.TickAdvancesAndAnnounces : Prop :=
  ∀ s : State, TimeNormal s → RatesBounded s →
    let adv : Nat := (34359738368 + s.timebase.rate).toNat
    let sum : Nat := s.timebase.time.ns * 2 ^ 32 + s.timebase.time.frac + adv
    let k : Nat := sum / 2 ^ 32 / 25000000
    let read (t : State) (past : Nat) (r : Stamp) : Prop :=
      (past = 0 → r = t.reading 0) ∧
      (past ≠ 0 → ∃ part : Elapsed, part.val = min 127 ((2 ^ 35 - past) / 2 ^ 28) ∧ r = s.reading part)
    let noted (old new : Option Passing) (waits : List StepAnnouncement) (next : Stamp)
        (busy : Elapsed → Prop) : Prop :=
      (waits ≠ [] → new = old) ∧
      (waits = [] →
        (∀ p, old = some p → new = some { p with since := p.since + adv }) ∧
        (old = none → Passes s.timebase.time.units adv next busy new))
    ∃ t, exec .oscillatorTick s = .next t ∧
      (t.timebase.time.units : Int) =
        ((s.timebase.time.units : Int) + 34359738368 + s.timebase.rate) %
          (2 ^ 48 * 1000000000 * 2 ^ 32) ∧
      TimeNormal t ∧
      t = { s with
        timebase := { s.timebase with time := t.timebase.time }
        inputs := t.inputs, ports := t.ports, pulses := t.pulses, coded := t.coded
        flight := { s.flight with toCycleTimer := t.flight.toCycleTimer } } ∧
      (if 1000000000 * 2 ^ 32 ≤ sum then
        ∃ r, read t (sum - 1000000000 * 2 ^ 32) r ∧ t.flight.toCycleTimer =
          s.flight.toCycleTimer ++ [.boundary ((s.timebase.time.sec + 1) % 2 ^ 48) r]
      else if k ≠ s.timebase.time.ns / 25000000 then
        ∃ r, read t (sum - k * 25000000 * 2 ^ 32) r ∧
          t.flight.toCycleTimer = s.flight.toCycleTimer ++ [.slot k r]
      else t.flight.toCycleTimer = s.flight.toCycleTimer) ∧
      (∀ u : InUnit, t.inputs[u] = { s.inputs[u] with
        receiver := match s.inputs[u].receiver with
          | .counting p n => .counting p (n + 1)
          | .leadWait n low => .leadWait (n - 1) low
          | r => r
        transmitter := match s.inputs[u].transmitter with
          | .idle => .idle
          | .sending d p chars n => .sending d p chars (n - 1) }) ∧
      (∀ p : Port, t.ports[p] = { s.ports[p] with
        departures := s.ports[p].departures.map fun d =>
          { d with came := d.came || decide (0 ≤ t.timebase.time.stamp.diff d.due) } }) ∧
      (∀ o : PulseOut,
        let v := s.pulses[o]
        t.pulses[o] = { v with
          high := v.high && decide (v.fall ≠ 0), fall := v.fall - 1, passed := t.pulses[o].passed } ∧
        noted v.passed t.pulses[o].passed s.flight.stepsToPulse[o] v.next fun part =>
          v.high = true ∧ v.fall ≠ 0 ∧ ¬(v.fall = 1 ∧ v.risePart ≤ part)) ∧
      ∀ m : CodedOut,
        let v := s.coded[m]
        t.coded[m] = { v with
          line := match v.line with
            | .sending d p chars (n + 1) => .sending d p chars n
            | _ => .idle
          passed := t.coded[m].passed } ∧
        noted v.passed t.coded[m].passed s.flight.stepsToCoded[m] v.next fun part =>
          ∃ d p chars n, v.line = .sending d p chars (n + 1) ∧ ¬(n = 0 ∧ v.beginPart ≤ part)

/-- A rate word taken is clamped to ±rate limit (R7); a write of the rate limit stores it clamped and clamps
the rate word in effect at once (R8); a write of trim stores it clamped and leaves the rate word alone (R9).
-/
def Obligations.RateWordLimitAndTrim : Prop :=
  (∀ (s : State) (w : Int) (ws : List Int), s.flight.rateWords = w :: ws →
    exec .rateWordTaken s = .next
      { s with
        timebase := { s.timebase with
          rate := clamp (-s.timebase.rateLimit) s.timebase.rateLimit w }
        flight := { s.flight with rateWords := ws } }) ∧
  ∀ (s : State) (r : Running),
    NumericWrite .rateLimitWrite s r 4 3 4 0 6871947 (fun m =>
      { s with timebase := { s.timebase with rateLimit := m, rate := clamp (-m) m s.timebase.rate } }) ∧
    NumericWrite .writeEntry s r 4 2 4 (-6871947) 6871947 (fun m =>
      { s with timebase := { s.timebase with trim := m } })

/-- An automatic step request that reaches the timebase is applied and announced (R10, R11); that a departure
whose instant had come by the reading just before the step keeps that it has, so that it may still leave after
a backward step, is log entry 20 (R135), and that the announcement carries the time the timebase holds,
without the fu elapsed in the tick, is log entry 46. STEP TIME's checks and effect in the order of R14, and
READ TIME's stamp, rate word and step count (R13). -/
def Obligations.StepsAppliedAndTimeRead : Prop :=
  (∀ (s : State) (d : Int) (ds : List Int) (x : Elapsed), s.flight.stepRequests = d :: ds →
     TimeNormal s →
     ∃ t, exec (.stepRequestApplied x) s = .next t ∧
       Stepped { s with flight := { s.flight with stepRequests := ds } } t .steering d x) ∧
  ((∀ (s : State) (r : Running) (sec ns : Int) (x : Elapsed), Runs s r (.stepTime sec ns) →
     TimeNormal s →
     if s.access.canWrite r.link 4 = false then
       exec (.stepTime x) s = .next (s.respond r .denied [])
     else if s.access.guarded 4 0 = true then
       exec (.stepTime x) s = .next (s.respond r .guarded [])
     else if ns < -999999999 ∨ 999999999 < ns then
       exec (.stepTime x) s = .next (s.respond r .badValue [])
     else if (0 < sec ∧ ns < 0) ∨ (sec < 0 ∧ 0 < ns) then
       exec (.stepTime x) s = .next (s.respond r .badValue [])
     else if sec = 0 ∧ ns = 0 then
       exec (.stepTime x) s = .next (s.respond r .ok (encStamp (s.reading x)))
     else
       ∃ t, Stepped s t .command (sec * 16000000000 + ns * 16) x ∧
         exec (.stepTime x) s = .next (t.respond r .ok (encStamp (t.reading x)))) ∧
   ∀ (s : State) (r : Running) (x : Elapsed), Runs s r .readTime →
     exec (.readTime x) s = .next
       (if s.access.canRead r.link 4 = true then
         s.respond r .ok
           (encStamp (s.reading x) ++ beInt 4 s.timebase.rate ++ beBytes 4 s.timebase.stepCount.toNat)
       else s.respond r .denied []))

/-! ### Chapter 2 -/

/-- A pulse captured by a unit: in SEEKING and inside the window X − W to X + W it is accepted, moves X one
second on and is reported; elsewhere it is stray; a disabled unit samples nothing (R18 to R21, R23). In
FOLLOWS an accepted pulse is held; in PRECEDES one that finds no sentence held is an orphan, and one that
finds a sentence held within its window pairs with it, into an event judged and formed as R32 says (R30 to
R32). A GOOD pair's scale offset is presented at once while the steering unit steers by the unit's source,
where R105 says while that source is selected: the two differ between a selection and the steering unit's
taking it, and following the steered source then is the model's choice (log entry 40). A held item whose
window ended before the pulse is UNPAIRED first (R30, R31). A window passed with no pulse flywheels X one
second, counts the interval and reports a MISS (R22), the passing being read at the end of a tick, so that a
pulse captured past the window within that very tick is reported STRAY before the MISS. The spec leaves that
order open, and also whether a forward step not yet taken passes a window, that of the pulse or that of a held
item: the model's choices (log entry 45). A step announcement starts a new pulse sequence in an enabled unit
and changes nothing in a disabled one (R38). An interval counted past 2^32−1 is a free value (log entry 9). -/
def Obligations.PulseTrackerEvents : Prop :=
  let counted (n : Count) : Count := if n = BitVec.allOnes 32 then intervalsPastEnd else n + 1
  (∀ (s : State) (u : InUnit) (x : Elapsed),
     let i := s.inputs[u]
     let c := s.reading x
     let becomes (t : State) : Prop := exec (.pulseEdge u x) s = .next t
     -- the pulse is accepted, and the intervals count is then n
     let accepted (n : Count) : Prop :=
       (i.tracker = .seeking ∧ n = 0) ∨
       ∃ e h, i.tracker = .tracking e h ∧ (c.diff e).natAbs ≤ h * 16 ∧ n = counted i.intervals
     let after (n : Count) (held : Held) (counters : InputCounters) : State :=
       s.modInput u fun _ =>
         { i with
           tracker := .tracking (c.plus 16000000000) i.settings.halfWidth
           intervals := n, held := held, counters := counters }
     (Overdue i.held c → exec (.pulseEdge u x) s = exec (.pulseEdge u x) (unpaired s u)) ∧
     (¬Overdue i.held c →
       (i.tracker = .idle → becomes s) ∧
       (∀ (e : Stamp) (h : Nat), i.tracker = .tracking e h → h * 16 < (c.diff e).natAbs →
         becomes (s.toSelector (inSource u) (.report .stray))) ∧
       ∀ n, accepted n →
         (i.settings.mode = .follows →
           becomes ((after n (.pulse c (c.plus (i.settings.window * 16000000))) i.counters).toSelector
             (inSource u) (.report .accepted))) ∧
         (i.settings.mode = .precedes → i.held = .nothing →
           becomes ((after n .nothing { i.counters with orphans := i.counters.orphans + 1 }).toSelector
             (inSource u) (.report .accepted))) ∧
         ∀ (tod : TimeOfDay) (w : Stamp) (comp : Int),
           i.settings.mode = .precedes → i.held = .sentence tod w → s.compensation (inSource u) = some comp →
           ∃ v, Judged tod i.anchor n c comp v ∧
             becomes (pairFormed (after n .nothing i.counters) u tod c comp v [.report .accepted]))) ∧
  ((∀ (s : State) (u : InUnit) (e : Stamp) (w : Nat), s.inputs[u].tracker = .tracking e w →
     0 < s.timebase.time.stamp.diff (e.plus (w * 16)) →
     exec (.pulseWindowMiss u) s = .next
       ((s.modInput u fun i =>
         { i with
           tracker := .tracking (e.plus 16000000000) i.settings.halfWidth
           intervals := counted i.intervals }).toSelector (inSource u) (.report .miss))) ∧
   ∀ (s : State) (u : InUnit) (a : StepAnnouncement) (rest : List StepAnnouncement),
     s.flight.stepsToInput[u] = a :: rest →
     let taken := { s with flight :=
       { s.flight with stepsToInput := s.flight.stepsToInput.set u rest } }
     exec (.inputUnitStep u) s = .next
       (if s.selector.entries[inSource u].state = .disabled then taken
       else taken.modInput u fun i =>
         { i with tracker := .seeking, anchor := none, intervals := 0, held := .nothing }))

/-- The last character of a right time-of-day sentence that finds a held pulse in FOLLOWS forms a phase event,
judged UNLOCKED_RECEIVER, SECONDS_JUMP or GOOD in that order with e = capture − reference − compensation; the
anchor moves, and only a GOOD event takes the scale offset (R16, R29, R30, R32). The scale offset is presented
at once while the steering unit steers by the unit's source, where R105 says while that source is selected:
the two differ between a selection and the steering unit's taking it, and following the steered source then is
the model's choice (log entry 40). In PRECEDES a sentence that completes while another is held makes the held
one an UNPAIRED event, and is held itself with a window of its own (R31, R33). A held item whose window ended
before the sentence is UNPAIRED first, and the sentence then finds nothing held (R30, R31, R33); that a
forward step not yet taken also ends the window is the model's choice (log entry 45). -/
def Obligations.PairedPulseGivesPhaseEvent : Prop :=
  ∀ (s : State) (u : InUnit) (d : Nat) (p : Parity) (body : List Byte) (check : Byte) (bit : Bool)
    (x : Elapsed),
    let i := s.inputs[u]
    let tod := readTimeOfDay body
    let done := { i with receiver := .idle, assembler := .waitBreak, held := .nothing }
    i.receiver = .character d p → parityGood p check bit = true →
    i.assembler = .check 0x31#8 8 body → sentenceOk 0x31#8 8 body check = true →
    (Overdue i.held (s.reading x) →
      exec (.characterReceived u check bit x) s =
        exec (.characterReceived u check bit x) (unpaired s u)) ∧
    (∀ (c w : Stamp) (comp : Int),
      i.settings.mode = .follows → i.held = .pulse c w → (s.reading x).diff w ≤ 0 →
      s.compensation (inSource u) = some comp →
      ∃ v, Judged tod i.anchor i.intervals c comp v ∧
        exec (.characterReceived u check bit x) s = .next
          (pairFormed (s.modInput u fun _ => done) u tod c comp v [])) ∧
    ∀ (old : TimeOfDay) (w : Stamp), i.settings.mode = .precedes → i.held = .sentence old w →
      exec (.characterReceived u check bit x) s = .next
        ((s.modInput u fun _ =>
          { done with
            held := .sentence tod ((s.reading x).plus (i.settings.window * 16000000)) }).toSelector
          (inSource u)
          (.phase ⟨inSource u, .bad .unpaired, some ⟨old.seconds, 0, 0⟩, none,
            s.compensation (inSource u)⟩))

/-- Characters short of a whole sentence: a bad parity verdict is counted and sends the assembler to
WAIT_BREAK; a good character in WAIT_BREAK is counted as unframed; the lead, the kind, the length (0 goes
straight to the check) and the body characters move the assembler on, a sentence that fails a check is
counted, and one that finds nothing held is an orphan in FOLLOWS and held in PRECEDES; a right descriptor
becomes the entry's record, with the upgrade test when that changes the effective class (R24, R26, R28 to R31,
R36, R80), and one out of range is counted (R36). The serial receiver's other events: the start edge, a false
start, a framing error, a break, its end with the partial sentence counted, and the auto-rate measurement with
its divisor (R24, R25, R27, R28, R42). That any low of 11 bit times from a falling edge is a break is log
entry 24; the rest of the measured lead, with the parity of its start edge, is log entry 25, and its ticks log
entry 26; that a request in transmission when the measurement ends keeps its old divisor, where R27 gives the
transmit wire the measured one, is the model's choice (log entry 39). -/
def Obligations.SerialLineBuildsSentences : Prop :=
  (∀ (s : State) (u : InUnit) (d : Nat) (p : Parity) (c : Byte) (bit : Bool) (x : Elapsed),
     s.inputs[u].receiver = .character d p →
     let i := s.inputs[u]
     let result (j : InputUnit) : Prop :=
       exec (.characterReceived u c bit x) s = .next (s.modInput u fun _ => { j with receiver := .idle })
     (parityGood p c bit = false →
       result { i with
         assembler := .waitBreak
         counters := { i.counters with parity := i.counters.parity + 1 } }) ∧
     (parityGood p c bit = true →
       (i.assembler = .waitBreak →
         result { i with counters := { i.counters with unframed := i.counters.unframed + 1 } }) ∧
       (i.assembler = .lead → c = 0xF0#8 → result { i with assembler := .kind }) ∧
       (i.assembler = .lead → c ≠ 0xF0#8 →
         result { i with
           assembler := .waitBreak
           counters := { i.counters with badSentences := i.counters.badSentences + 1 } }) ∧
       (i.assembler = .kind → result { i with assembler := .length c }) ∧
       (∀ k, i.assembler = .length k → 48 < c.toNat →
         result { i with
           assembler := .waitBreak
           counters := { i.counters with badSentences := i.counters.badSentences + 1 } }) ∧
       (∀ k, i.assembler = .length k → c = 0#8 → result { i with assembler := .check k 0 [] }) ∧
       (∀ k, i.assembler = .length k → 0 < c.toNat → c.toNat ≤ 48 →
         result { i with assembler := .body k c.toNat [] }) ∧
       (∀ k n got, i.assembler = .body k n got → got.length + 1 < n →
         result { i with assembler := .body k n (got ++ [c]) }) ∧
       (∀ k n got, i.assembler = .body k n got → got.length + 1 = n →
         result { i with assembler := .check k n (got ++ [c]) }) ∧
       (∀ k n got, i.assembler = .check k n got → sentenceOk k n got c = false →
         result { i with
           assembler := .waitBreak
           counters := { i.counters with badSentences := i.counters.badSentences + 1 } }) ∧
       (∀ n got, i.assembler = .check 0x31#8 n got → sentenceOk 0x31#8 n got c = true → i.held = .nothing →
         (i.settings.mode = .follows →
           result { i with
             assembler := .waitBreak
             counters := { i.counters with orphans := i.counters.orphans + 1 } }) ∧
         (i.settings.mode = .precedes →
           result { i with
             assembler := .waitBreak
             held := .sentence (readTimeOfDay got)
               ((s.reading x).plus (i.settings.window * 16000000)) })) ∧
       ∀ n got, i.assembler = .check 0x44#8 n got → sentenceOk 0x44#8 n got c = true →
         (readDescriptor got = none →
           result { i with
             assembler := .waitBreak
             counters := { i.counters with badDescriptors := i.counters.badDescriptors + 1 } }) ∧
         ∀ v, readDescriptor got = some v →
           let before := s.modInput u fun _ =>
             { i with
               receiver := .idle, assembler := .waitBreak
               counters := { i.counters with descriptors := i.counters.descriptors + 1 } }
           ∃ t, ClassJudged before (before.modEntry (inSource u) fun m => { m with descriptor := some v })
               (inSource u) t ∧
             exec (.characterReceived u c bit x) s = .next t)) ∧
  (∀ (s : State) (u : InUnit),
     let i := s.inputs[u]
     let becomes (c : Instr) (j : InputUnit) : Prop := exec c s = .next (s.modInput u fun _ => j)
     (s.selector.entries[inSource u].state = .disabled → becomes (.receiveFallingEdge u) i) ∧
     (s.selector.entries[inSource u].state ≠ .disabled →
       (i.receiver = .idle ∨ i.receiver = .lowIdle →
         becomes (.receiveFallingEdge u)
           { i with receiver := .character i.settings.divisor i.settings.parity }) ∧
       (i.receiver = .measuring →
         becomes (.receiveFallingEdge u) { i with receiver := .counting i.settings.parity 0 }) ∧
       ∀ n low, i.receiver = .leadWait n low →
         becomes (.receiveFallingEdge u) { i with receiver := .leadWait n true }) ∧
     (∀ d p, i.receiver = .character d p →
       becomes (.falseStart u) { i with receiver := .idle } ∧
       becomes (.framingError u)
         { i with
           receiver := .idle, assembler := .waitBreak
           counters := { i.counters with framing := i.counters.framing + 1 } }) ∧
     ((∃ d p, i.receiver = .character d p) ∨ (∃ p n, i.receiver = .counting p n) ∨ i.receiver = .lowIdle ∨
         (∃ n, i.receiver = .leadWait n true) →
       becomes (.breakDetected u) { i with receiver := .inBreak }) ∧
     (i.receiver = .inBreak →
       becomes (.breakEnd u)
         { i with
           receiver := if i.settings.armed = true then .measuring else .idle
           assembler := .lead
           counters := { i.counters with
             badSentences := i.counters.badSentences +
               (if i.assembler = .waitBreak ∨ i.assembler = .lead then 0 else 1) } }) ∧
     (∀ p n, i.receiver = .counting p n →
       let d := (clamp 1 65535 (halfAway n 80 - 1)).toNat
       becomes (.autoRateMeasurement u)
         { i with
           receiver := .leadWait (characterBits p * (16 * (d + 1)) - n) false
           assembler := if i.assembler = .lead then .kind else i.assembler
           settings := { i.settings with divisor := d, armed := false }
           counters := { i.counters with measurements := i.counters.measurements + 1 } }) ∧
     ∀ low, i.receiver = .leadWait 0 low →
       becomes (.measuredLeadEnd u) { i with receiver := if low = true then .lowIdle else .idle })

/-- A held pulse or sentence whose window has ended is dropped as a BAD event with cause UNPAIRED (R33); that
the window also ends when a forward step not yet taken by the unit alone carries station time past its end,
where R38 drops the item with no event once the step is taken, is the model's choice (log entry 45). At the
request timer's 0 with no descriptor held a request begins at the divisor and parity in effect, or is
counted as skipped while one is in transmission, and the timer is set to 10; with a descriptor held the timer
stops (R34, R35; a row of its own: log entry 7); the transmitter is idle once the last bit is sent (R35). A
write of the pairing mode applies at once and drops a held item; ARMED arms, and CLEAR abandons a measurement
and sends the assembler to WAIT_BREAK, with the line still low when its low has begun (R25, R42). A write of
half-width, divisor, parity or pairing window changes the setting alone, clamped to its range or refused when
undefined (R42, R64, R178; the numbers of enumerated values: log entry 30). That CLEAR leaves the rest of a
measured lead alone is log entry 25. -/
def Obligations.HeldItemsRequestsAndModes : Prop :=
  ((∀ (s : State) (u : InUnit) (c w : Stamp), s.inputs[u].held = .pulse c w →
     0 < s.timebase.time.stamp.diff w →
     exec (.pairingWindowEnd u) s = .next
       ((s.modInput u fun i => { i with held := .nothing }).toSelector (inSource u)
         (.phase ⟨inSource u, .bad .unpaired, none, some c, s.compensation (inSource u)⟩))) ∧
   (∀ (s : State) (u : InUnit) (tod : TimeOfDay) (w : Stamp), s.inputs[u].held = .sentence tod w →
     0 < s.timebase.time.stamp.diff w →
     exec (.pairingWindowEnd u) s = .next
       ((s.modInput u fun i => { i with held := .nothing }).toSelector (inSource u)
         (.phase ⟨inSource u, .bad .unpaired, some ⟨tod.seconds, 0, 0⟩, none,
           s.compensation (inSource u)⟩))) ∧
   (∀ (s : State) (u : InUnit), s.inputs[u].requestTimer = some 0 →
     exec (.requestTimerExpiry u) s = .next
       (s.modInput u fun i =>
         if s.selector.entries[inSource u].descriptor = none then asked i
         else { i with requestTimer := none })) ∧
   ∀ (s : State) (u : InUnit) (d : Nat) (p : Parity) (bs : List Byte),
     s.inputs[u].transmitter = .sending d p bs 0 →
     exec (.descriptorRequestDone u) s = .next (s.modInput u fun i => { i with transmitter := .idle })) ∧
  ∀ (s : State) (r : Running) (u : InUnit),
    let set (f : InputSettings → InputSettings) : State :=
      s.modInput u fun i => { i with settings := f i.settings }
    EnumWrite .pairingModeWrite s r 2 (32 * u.val + 20) 2 (fun b =>
      s.modInput u fun i =>
        { i with
          settings := { i.settings with mode := if b = 0#8 then .follows else .precedes }
          held := .nothing }) ∧
    EnumWrite .autoRateArmWrite s r 2 (32 * u.val + 19) 2 (fun b =>
      s.modInput u fun i =>
        let j := { i with settings := { i.settings with armed := decide (b = 1#8) } }
        match i.receiver with
        | .measuring => if b = 0#8 then { j with receiver := .idle, assembler := .waitBreak } else j
        | .counting _ _ => if b = 0#8 then { j with receiver := .lowIdle, assembler := .waitBreak } else j
        | _ => j) ∧
    NumericWrite .writeEntry s r 2 (32 * u.val + 16) 4 1000 500000
      (fun m => set fun c => { c with halfWidth := m.toNat }) ∧
    NumericWrite .writeEntry s r 2 (32 * u.val + 17) 2 1 65535
      (fun m => set fun c => { c with divisor := m.toNat }) ∧
    EnumWrite .writeEntry s r 2 (32 * u.val + 18) 3 (fun b =>
      set fun c => { c with parity := if b = 0#8 then .none else if b = 1#8 then .even else .odd }) ∧
    NumericWrite .writeEntry s r 2 (32 * u.val + 21) 2 10 990
      (fun m => set fun c => { c with window := m.toNat })

/-! ### Chapter 3 -/

/-- A MARK at a RUNNING unit with its link up: an opening mark is held, a held sample before it counted as
incomplete; a closing mark releases the held sample whose word it carries, and discards one of another word;
a mark with both flags releases its own times; one with neither only counts (R45 to R48). A release sets the
forward difference and the released flag and hands on the event of R50. A frame that fails a check counts as
bad and a QUERY as unexpected, and changes nothing else; an IDLE unit, or one whose link is down, takes no
frame (R44). -/
def Obligations.UplinkFramesConfirmed : Prop :=
  (∀ (s : State) (u : UpUnit) (bytes : List Byte) (m : MarkFields) (x : Elapsed),
     s.uplinks[u].running = true → s.uplinks[u].link = .up → uplinkFrame bytes = some (.mark m) →
     let i := s.uplinks[u]
     let t1 := (Stamp.mk m.seconds m.nanos 0).plus m.correction
     let t2 := (s.reading x).plus (-(i.settings.ingress : Int))
     let c := { i.counters with marks := i.counters.marks + 1 }
     let lost := { c with
       incomplete := c.incomplete + (if i.sample.isSome = true then 1 else 0) }
     let becomes (j : UplinkUnit) : Prop :=
       exec (.uplinkMark u bytes x) s = .next (s.modUplink u fun _ => j)
     let releases (k : UplinkCounters) (a b : Stamp) : Prop :=
       exec (.uplinkMark u bytes x) s = .next
         ((s.modUplink u fun _ =>
           { i with
             sample := none, forward := some (b.diff a), released := true
             counters := { k with released := k.released + 1 } }).toSelector (upSource u)
           (.phase ⟨upSource u,
             match s.compensation (upSource u) with
             | none => .bad .badDelayAbsent
             | some d =>
               .good (clamp (-1099511627775) 1099511627775 (b.diff a - d)) (b.diff a - d),
             some a, some b, s.compensation (upSource u)⟩))
     (m.opening = false → m.closing = false → becomes { i with counters := c }) ∧
     (m.opening = true → m.closing = false →
       becomes { i with sample := some ⟨t1, t2, m.word⟩, counters := lost }) ∧
     (m.opening = true → m.closing = true → releases lost t1 t2) ∧
     (m.opening = false → m.closing = true →
       (i.sample = none → becomes { i with counters := { c with unopened := c.unopened + 1 } }) ∧
       ∀ h, i.sample = some h →
         (h.word = m.word → releases c h.t1 h.t2) ∧
         (h.word ≠ m.word →
           becomes { i with sample := none, counters := { c with mismatch := c.mismatch + 1 } }))) ∧
  (∀ (s : State) (u : UpUnit) (bytes : List Byte) (x : Elapsed),
     let counted (f : UplinkCounters → UplinkCounters) : Prop :=
       exec (.uplinkUnexpectedFrame u bytes) s = .next
         (s.modUplink u fun i => { i with counters := f i.counters })
     (s.uplinks[u].running = true → s.uplinks[u].link = .up →
       (uplinkFrame bytes = none → counted fun c => { c with badFrames := c.badFrames + 1 }) ∧
       ∀ r q, uplinkFrame bytes = some (.query r q) →
         counted fun c => { c with unexpected := c.unexpected + 1 }) ∧
     ((s.uplinks[u].running = false ∨ s.uplinks[u].link = .down) →
       exec (.uplinkMark u bytes x) s = .next s ∧ exec (.uplinkStateMark u bytes x) s = .next s ∧
       exec (.uplinkReply u bytes) s = .next s ∧ exec (.uplinkUnexpectedFrame u bytes) s = .next s))

/-- A STATE gives the unit its class and scale offset; a changed effective class of a USABLE or selected entry
makes the upgrade test; and the frame is then a mark for confirmation like a MARK of the same fields (R49,
R80). The scale offset is presented at once while the steering unit steers by this source, where R105 says
while it is selected: the two differ between a selection and the steering unit's taking it, and following the
steered source then is the model's choice (log entry 40). -/
def Obligations.StateMarkSetsUpstreamClass : Prop :=
  ∀ (s : State) (u : UpUnit) (bytes other : List Byte) (m : MarkFields) (t : Trailer) (x : Elapsed),
    s.uplinks[u].running = true → s.uplinks[u].link = .up →
    uplinkFrame bytes = some (.state m t) → uplinkFrame other = some (.mark m) →
    let taken := s.modUplink u fun i => { i with lastClass := some m.cls, lastScale := t.scale }
    (∃ v, exec (.uplinkStateMark u bytes x) s = .next v) ∧
    ∃ judged, ClassJudged s taken (upSource u) judged ∧
      exec (.uplinkStateMark u bytes x) s =
        exec (.uplinkMark u other x) (judged.modSteering fun v =>
          { v with scale := if v.steered = some (upSource u) then t.scale else v.scale })

/-- A REPLY that matches the outstanding query clears it, and forms half the round trip rounded toward zero:
accepted within 0 to the max delay, the oldest of eight delays giving way, and a bad delay otherwise; without
a forward difference it forms none; any other REPLY is dropped (R53). At the query slot a scheduled query of a
RUNNING unit with its link up leaves at the slot start's instant when none is outstanding, with the next
sequence and t3 = that instant's reading + egress delay, and is skipped with a count when one is; in a cut
cycle, with the link down or unscheduled, nothing is sent or counted (R51, R52). At a cycle start a RUNNING
unit ages its outstanding query or gives it up at the second, reports ACCEPTED or MISS for a judged cycle, and
starts a judged cycle (R54); with a query slot of 0 the new cycle's query slot is handled in it (R51).
QUERY_LOST is such a cycle start (log entry 6). The elapsed part at which these rows are run decides nothing
(log entry 16). The settings, the link and what is outstanding are read as they stand when the row is run, and
a cycle start made before a step and taken after it is a cycle start as any other: the model's choices (log
entry 48). -/
def Obligations.UplinkRangesAndJudges : Prop :=
  (∀ (s : State) (u : UpUnit) (bytes : List Byte) (r : Nat) (q : Seq) (sec ns c cls : Nat),
     s.uplinks[u].running = true → s.uplinks[u].link = .up →
     uplinkFrame bytes = some (.reply r q sec ns c cls) →
     let i := s.uplinks[u]
     let t4 := (Stamp.mk sec ns 0).plus c
     let n := i.counters
     let becomes (j : UplinkUnit) : Prop :=
       exec (.uplinkReply u bytes) s = .next (s.modUplink u fun _ => j)
     ((i.outstanding = none ∨ ∃ o, i.outstanding = some o ∧ (o.requester ≠ r ∨ o.seq ≠ q)) →
       becomes { i with counters := { n with repliesDropped := n.repliesDropped + 1 } }) ∧
     ∀ o, i.outstanding = some o → o.requester = r → o.seq = q →
       let n1 := { n with repliesMatched := n.repliesMatched + 1 }
       (i.forward = none →
         becomes { i with
           outstanding := none
           counters := { n1 with repliesNoForward := n1.repliesNoForward + 1 } }) ∧
       ∀ f, i.forward = some f →
         let delay := (f + t4.diff o.t3).tdiv 2
         if 0 ≤ delay ∧ delay ≤ i.settings.maxDelay then
           becomes { i with
             outstanding := none
             window := (if i.window.length < 8 then i.window else i.window.drop 1) ++ [delay]
             counters := { n1 with delaysAccepted := n1.delaysAccepted + 1 } }
         else
           becomes { i with
             outstanding := none, counters := { n1 with badDelays := n1.badDelays + 1 } }) ∧
  (∀ (s : State) (u : UpUnit) (k n : Nat) (cut : Bool) (instant : Stamp)
     (rest : List CycleEvent) (x : Elapsed),
     s.flight.cyclesToUplink[u] = .slot k n cut instant :: rest →
     let i := s.uplinks[u]
     let taken := { s with flight :=
       { s.flight with cyclesToUplink := s.flight.cyclesToUplink.set u rest } }
     let becomes (j : UplinkUnit) : Prop :=
       exec (.uplinkQuerySlot u x) s = .next (taken.modUplink u fun _ => j)
     let scheduled := i.running = true ∧ i.link = .up ∧ cut = false ∧ i.cut = false ∧
       (n % i.settings.interval = 0 ∨ i.window = [])
     (¬scheduled → becomes i) ∧
     (scheduled →
       (i.outstanding = none →
         becomes { i with
           seq := i.seq + 1
           outstanding := some ⟨i.seq + 1, i.settings.requester,
             instant.plus i.settings.egress, 0⟩
           sent := i.sent ++ [⟨BitVec.allOnes 48, uplinkAddress u, 0x9C5A#16,
             .query i.settings.requester (i.seq + 1)⟩]
           counters := { i.counters with queriesSent := i.counters.queriesSent + 1 } }) ∧
       ∀ o, i.outstanding = some o →
         becomes { i with
           counters := { i.counters with queriesSkipped := i.counters.queriesSkipped + 1 } })) ∧
  (∀ (s : State) (u : UpUnit) (n : Nat) (resume : Bool) (instant : Stamp) (rest : List CycleEvent)
      (x : Elapsed),
     s.flight.cyclesToUplink[u] = .start n resume instant :: rest → s.uplinks[u].running = true →
     let i := s.uplinks[u]
     let taken := { s with flight :=
       { s.flight with cyclesToUplink := s.flight.cyclesToUplink.set u rest } }
     let result (o : Option Outstanding) (c : UplinkCounters) : State :=
       let j := { i with
         outstanding := o, released := false, judging := true, cut := false, counters := c }
       let t := taken.modUplink u fun _ =>
         if i.settings.slot = 0 then j.querySlot u n false instant else j
       if i.judging = true then
         t.toSelector (upSource u) (.report (if i.released = true then .accepted else .miss))
       else t
     (i.outstanding = none →
       exec (.uplinkCycleStart u x) s = .next (result none i.counters)) ∧
     ∀ o, i.outstanding = some o →
       (o.seen = 0 →
         exec (.uplinkCycleStart u x) s = .next (result (some { o with seen := 1 }) i.counters)) ∧
       (o.seen ≠ 0 →
         let lost := result none { i.counters with queriesLost := i.counters.queriesLost + 1 }
         exec (.uplinkCycleStart u x) s = .next lost ∧ exec (.queryLost u x) s = .next lost))

/-- A step at a RUNNING unit clears the held sample, the outstanding query with a count, the forward
difference and both flags, keeps the delay window, and cuts the cycle (R56); a link loss also empties the
delay window and keeps the flags (R57); an IDLE unit changes nothing but its link; a link that comes up
changes only its state. A write of a unit setting stores it, clamped to its range, and changes nothing else
(R59, R64, R178). -/
def Obligations.UplinkStepAndLink : Prop :=
  ∀ (s : State) (u : UpUnit),
    let i := s.uplinks[u]
    let c := { i.counters with
      queriesAbandoned := i.counters.queriesAbandoned + (if i.outstanding.isSome = true then 1 else 0) }
    (∀ (a : StepAnnouncement) (rest : List StepAnnouncement), s.flight.stepsToUplink[u] = a :: rest →
      let taken := { s with flight :=
        { s.flight with stepsToUplink := s.flight.stepsToUplink.set u rest } }
      exec (.uplinkStep u) s = .next
        (if i.running = true then
          taken.modUplink u fun _ =>
            { i with
              sample := none, outstanding := none, forward := none, released := false
              judging := false, cut := true, counters := c }
        else taken)) ∧
    (i.link = .up →
      exec (.uplinkLinkDown u) s = .next
        (s.modUplink u fun _ =>
          if i.running = true then
            { i with
              link := .down, sample := none, outstanding := none, forward := none, window := []
              counters := c }
          else { i with link := .down })) ∧
    exec (.uplinkLinkUp u) s = .next (s.modUplink u fun _ => { i with link := .up }) ∧
    ∀ r : Running,
      let set (f : UplinkSettings → UplinkSettings) : State :=
        s.modUplink u fun _ => { i with settings := f i.settings }
      let numeric (offset bytes : Nat) (lo hi : Int) (f : Nat → UplinkSettings → UplinkSettings) : Prop :=
        NumericWrite .writeEntry s r 2 (32 * (upSource u).val + offset) bytes lo hi fun m => set (f m.toNat)
      numeric 16 4 0 1600000 (fun n c => { c with ingress := n }) ∧
      numeric 17 4 0 1600000 (fun n c => { c with egress := n }) ∧
      numeric 18 6 0 281474976710655 (fun n c => { c with requester := n }) ∧
      numeric 19 1 0 39 (fun n c => { c with slot := n }) ∧
      numeric 20 1 1 16 (fun n c => { c with interval := n }) ∧
      numeric 21 4 0 16000000 (fun n c => { c with maxDelay := n })

/-! ### Chapter 4 -/

/-- The effective class of a source is the advertised one and else the programmed one; the effective
compensation of an input is its cable delay plus the advertised device delay, or the programmed one, and that
of an uplink its mean delay plus the asymmetry, absent while its delay window is empty (R63); the mean is
rounded toward zero (R53). LOCAL's class is 7 (R62). A write of priority, device delay or, at an input, cable
delay stores it, clamped to its range, and makes no switch (R64, R86, R178). -/
def Obligations.EffectiveClassAndCompensation : Prop :=
  (∀ s : State, s.classOf localSource = 7 ∧
    (∀ u : InUnit,
      let n := s.selector.entries[inSource u]
      s.effectiveClass (inSource u) =
        (match n.descriptor with | some ⟨_, some c, _⟩ => c | _ => n.cls) ∧
      s.compensation (inSource u) = some
        ((n.cableDelay : Int) +
          (match n.descriptor with | some ⟨some d, _, _⟩ => d | _ => n.deviceDelay))) ∧
    ∀ u : UpUnit,
      let n := s.selector.entries[upSource u]
      let w := s.uplinks[u].window
      s.effectiveClass (upSource u) = s.uplinks[u].lastClass.getD n.cls ∧
      s.compensation (upSource u) =
        if w = [] then none else some (w.sum.tdiv w.length + n.deviceDelay)) ∧
  ∀ (s : State) (r : Running),
    (∀ e : Ext,
      NumericWrite .writeEntry s r 2 (32 * e.val + 1) 1 0 7
        (fun m => s.modEntry e fun n => { n with priority := m.toNat }) ∧
      NumericWrite .writeEntry s r 2 (32 * e.val + 4) 4 (-16000000) 16000000
        (fun m => s.modEntry e fun n => { n with deviceDelay := m })) ∧
    ∀ u : InUnit, NumericWrite .writeEntry s r 2 (32 * u.val + 3) 4 0 1600000000
      (fun m => s.modEntry (inSource u) fun n => { n with cableDelay := m.toNat })

/-- Enabled written YES to a DISABLED entry makes it ABSENT with runs, learned values and timers at their
start, and starts its unit; written YES to an enabled entry changes nothing (R65, R40, R58). Enabled written
NO to an enabled entry makes it DISABLED, clears its runs, learned values, timers, descriptor and stack entry,
and stops its unit; counters and settings stay (R65, R39, R58). When it was selected, the mask is withdrawn
and the best-ranked USABLE source is selected, or LOCAL, without a push (R65, R73, R74, R76); when the cleared
descriptor or upstream class changes the effective class of an entry that was USABLE or selected, the upgrade
test is made (R37, R80); when it was the stack top, the new top is tested for revert, unless the upgrade made
it the top (R78). That the failure switch comes before the upgrade test, and that before the revert test, is
the model's reading (log entry 17). Any other value is BAD_VALUE (R178; the numbers of NO and YES: log entry
30). -/
def Obligations.EnableAndDisableSource : Prop :=
  (∀ (s : State) (r : Running) (e : Ext),
     Runs s r (.writeEntry 2 (32 * e.val) [1#8]) → Permitted s r 2 (32 * e.val) →
     let n := s.selector.entries[e]
     (n.state ≠ .disabled → exec .sourceEnable s = .next (s.respond r .ok [1#8])) ∧
     (n.state = .disabled →
       exec .sourceEnable s = .next
         (State.respond
           { s with
             selector := { s.selector with
               entries := s.selector.entries.set e
                 { n with
                   state := .absent, goodRun := 0, missRun := 0, learned := 0, learnedCount := 0
                   retry := none, restore := none } }
             inputs := if h : e.val < 2 then
                 s.inputs.set e.val
                   { s.inputs[e.val] with
                     tracker := .seeking, anchor := none, intervals := 0, held := .nothing
                     receiver := .idle, assembler := .waitBreak }
               else s.inputs
             uplinks := if h : 2 ≤ e.val then
                 s.uplinks.set (e.val - 2) { s.uplinks[e.val - 2] with running := true }
               else s.uplinks } r .ok [1#8]))) ∧
  (∀ (s : State) (r : Running) (e : Ext),
     Runs s r (.writeEntry 2 (32 * e.val) [0#8]) → Permitted s r 2 (32 * e.val) →
     let n := s.selector.entries[e]
     (n.state = .disabled → exec .sourceDisable s = .next (s.respond r .ok [0#8])) ∧
     (n.state ≠ .disabled →
       let off : State := { s with
         selector := { s.selector with
           entries := s.selector.entries.set e
             { n with
               state := .disabled, goodRun := 0, missRun := 0, learned := 0, learnedCount := 0
               retry := none, restore := none, descriptor := none }
           stack := s.selector.stack.filter fun t => decide (t.source ≠ e) }
         inputs := if h : e.val < 2 then
             s.inputs.set e.val
               { s.inputs[e.val] with
                 tracker := .idle, anchor := none, intervals := 0, held := .nothing
                 receiver := .idle, assembler := .waitBreak, requestTimer := none, lastScale := 0 }
           else s.inputs
         uplinks := if h : 2 ≤ e.val then
             s.uplinks.set (e.val - 2)
               { s.uplinks[e.val - 2] with
                 running := false, sample := none, forward := none, outstanding := none
                 window := [], released := false, judging := false, cut := false
                 lastClass := none, lastScale := 0 }
           else s.uplinks }
       let usable (a : Ext) : Prop := off.selector.entries[a].state = .usable
       let masked : State := { off with
         steering := { off.steering with options := off.steering.options.without off.steering.mask } }
       let top (v : State) : Option Ext := v.selector.stack.head?.map (·.source)
       ∃ left judged t, exec .sourceDisable s = .next (t.respond r .ok [0#8]) ∧
         (s.selector.selected ≠ toSource e → left = off) ∧
         (s.selector.selected = toSource e →
           ∃ target : Source,
             ((target = localSource ∧ ∀ a, ¬usable a) ∨
               ∃ b, target = toSource b ∧ RanksFirst off usable b) ∧
             left = selecting masked target (optionsFor masked target)) ∧
         ClassJudged s left e judged ∧
         (top s = some e ∧ top judged = top left → RevertTested judged t) ∧
         (¬(top s = some e ∧ top judged = top left) → t = judged))) ∧
  ∀ (s : State) (r : Running) (e : Ext) (value : List Byte), value ≠ [0#8] → value ≠ [1#8] →
    Runs s r (.writeEntry 2 (32 * e.val) value) → Permitted s r 2 (32 * e.val) →
    exec .writeEntry s = .next (s.respond r .badValue [])

/-- A pulse report by the state of its entry: discarded while DISABLED, counted while ABSENT when a MISS, and
otherwise the miss run and the counters; the miss run that reaches the miss limit faults the entry with
SRC_LOSS (R67, R72). A phase event is counted and learned from, L moving by (e − L) / 8 rounded toward zero
(R68): in TRIAL it makes or breaks the good run, an event held in disagreement counting as bad (R69; between a
selection and the steering unit's taking it the test reads the state before, log entry 40); a GOOD event of
the selected USABLE source goes on to the steering unit; in USABLE an unlocked receiver or a seconds jump
faults the entry (R70). A fault of the selected source pushes it with its cause and makes the failure switch
(R72, R76). The entry whose good run reaches Q becomes USABLE with its restore timer at 0 (R69): while LOCAL
is selected the best-ranked USABLE source is then selected at once (R79), otherwise the upgrade test is made
(R80); when it is the stack top, and still is, it is tested for revert (R78). That the qualifying event itself
is handed to the steering unit when its source is then selected is log entry 15. An ACCEPTED or STRAY report,
or a phase event, of an ABSENT entry moves it into TRIAL, where its input unit asks for the descriptor and
sets the request timer to 10, and is then taken as one of a TRIAL entry (R34, R35, R66). -/
def Obligations.SelectorEventsByState : Prop :=
  (∀ (s : State) (e : Ext) (k : ReportKind) (rest : List UnitEvent),
     s.flight.toSelector[e] = .report k :: rest →
     let taken := { s with flight := { s.flight with toSelector := s.flight.toSelector.set e rest } }
     let n := s.selector.entries[e]
     let becomes (m : SourceEntry) : Prop :=
       exec (.selectorPulseReport e) s = .next (taken.modEntry e fun _ => m)
     let run := min 10 (n.missRun + 1)
     (n.state = .disabled → becomes n) ∧
     (n.state ≠ .disabled → n.state ≠ .absent →
       (k = .accepted → becomes { n with missRun := 0 }) ∧
       (k = .stray → becomes { n with strays := n.strays + 1 })) ∧
     (k = .miss →
       (n.state = .absent ∨ n.state = .faulted → becomes { n with misses := n.misses + 1 }) ∧
       (n.state = .trial ∨ n.state = .usable →
         (run < s.selector.settings.missLimit →
           becomes { n with misses := n.misses + 1, missRun := run }) ∧
         (s.selector.settings.missLimit ≤ run →
           let missed := taken.modEntry e fun _ => { n with misses := n.misses + 1 }
           (s.selector.selected ≠ toSource e →
             exec (.selectorPulseReport e) s = .next (faulted missed e 1)) ∧
           (s.selector.selected = toSource e →
             ∃ t, FaultedAndLeft missed e 1 .loss t ∧ exec (.selectorPulseReport e) s = .next t)))) ∧
     (n.state = .absent → k ≠ .miss →
       exec (.selectorPulseReport e) s = exec (.selectorPulseReport e) (intoTrial s e))) ∧
  ∀ (s : State) (e : Ext) (ev : PhaseEvent) (rest : List UnitEvent),
     s.flight.toSelector[e] = .phase ev :: rest →
     let taken := { s with flight := { s.flight with toSelector := s.flight.toSelector.set e rest } }
     let n := s.selector.entries[e]
     let becomes (m : SourceEntry) : Prop :=
       exec (.selectorPhaseEvent e) s = .next (taken.modEntry e fun _ => m)
     let bad := { n with bad := n.bad + 1 }
     (n.state = .disabled → becomes n) ∧
     (n.state = .absent →
       exec (.selectorPhaseEvent e) s = exec (.selectorPhaseEvent e) (intoTrial s e)) ∧
     (∀ cause, ev.validity = .bad cause →
       (n.state = .trial → becomes { bad with goodRun := 0 }) ∧
       (n.state = .faulted → becomes bad) ∧
       (n.state = .usable → cause = .unpaired ∨ cause = .badDelayAbsent → becomes bad) ∧
       ∀ code as, (cause = .secondsJump ∧ code = 2 ∧ as = .secondsJump) ∨
           (cause = .unlockedReceiver ∧ code = 3 ∧ as = .unlockedReceiver) →
         n.state = .usable →
         let counted := taken.modEntry e fun _ => bad
         (s.selector.selected ≠ toSource e →
           exec (.selectorPhaseEvent e) s = .next (faulted counted e code)) ∧
         (s.selector.selected = toSource e →
           ∃ t, FaultedAndLeft counted e code as t ∧ exec (.selectorPhaseEvent e) s = .next t)) ∧
     ∀ c x, ev.validity = .good c x →
       let learned := { n with
         learned := n.learned + (c - n.learned).tdiv 8, learnedCount := min 255 (n.learnedCount + 1) }
       let held := s.steering.state = .locked ∧ s.selector.selected ≠ toSource e ∧
         8 ≤ learned.learnedCount ∧
         s.selector.settings.disagreement < (learned.learned.natAbs : Int)
       (n.state = .faulted → becomes { learned with good := n.good + 1 }) ∧
       (n.state = .usable → s.selector.selected ≠ toSource e →
         becomes { learned with good := n.good + 1 }) ∧
       (n.state = .usable → s.selector.selected = toSource e →
         let t := taken.modEntry e fun _ => { learned with good := n.good + 1 }
         exec (.selectorPhaseEvent e) s = .next
           { t with flight := { t.flight with goodEvents := s.flight.goodEvents ++ [ev] } }) ∧
       (n.state = .trial → held → becomes { learned with bad := n.bad + 1, goodRun := 0 }) ∧
       (n.state = .trial → ¬held →
         let run := { learned with good := n.good + 1, goodRun := n.goodRun + 1 }
         (n.goodRun + 1 < s.selector.settings.qualify → becomes run) ∧
         (s.selector.settings.qualify ≤ n.goodRun + 1 →
           let usable := taken.modEntry e fun _ => { run with state := .usable, restore := some 0 }
           let v := { usable with
             inputs := if h : e.val < 2 then
                 s.inputs.set e.val { s.inputs[e.val] with requestTimer := none }
               else s.inputs }
           let top (z : State) : Prop := ∃ d rest, z.selector.stack = d :: rest ∧ d.source = e
           ∃ w t,
             (s.selector.selected = localSource →
               ∃ b, RanksFirst v (fun a => v.selector.entries[a].state = .usable) b ∧
                 w = selecting v (toSource b) (optionsFor v (toSource b))) ∧
             (s.selector.selected ≠ localSource → UpgradeTested v w) ∧
             (top v ∧ top w → RevertTested w t) ∧ (¬(top v ∧ top w) → t = w) ∧
             exec (.selectorPhaseEvent e) s = .next
               (if t.selector.selected = toSource e then
                 { t with flight := { t.flight with goodEvents := t.flight.goodEvents ++ [ev] } }
               else t)))

/-- An excursion report of a source that is not USABLE is discarded; a USABLE source is faulted with
SRC_EXCURSION (R71, R72). When it was selected it is pushed with its cause, its learned values and the
options, the mask is withdrawn, and the best-ranked USABLE source is selected, or LOCAL when there is none
(R73 to R76). -/
def Obligations.ExcursionFaultsAndFailsOver : Prop :=
  ∀ (s : State) (x : Excursion) (rest : List Excursion), s.flight.excursions = x :: rest →
    let taken := { s with flight := { s.flight with excursions := rest } }
    let n := s.selector.entries[x.source]
    (n.state ≠ .usable → exec .excursionReport s = .next taken) ∧
    (n.state = .usable → s.selector.selected ≠ toSource x.source →
      exec .excursionReport s = .next (faulted taken x.source 4)) ∧
    (n.state = .usable → s.selector.selected = toSource x.source →
      ∃ t, FaultedAndLeft taken x.source 4 (if x.hard = true then .excursionHard else .excursion) t ∧
        exec .excursionReport s = .next t)

/-- At a cycle start each FAULTED entry's retry timer counts down and brings it to TRIAL at 0, where its
input unit begins a new pulse sequence and asks for the descriptor, and each USABLE entry's restore timer
counts up to 3,600 (R19, R34, R72, R84); then the revert test is made on the stack top (R78, R84).
RETRY_TIMER_EXPIRY is that cycle start (log entry 6). -/
def Obligations.SelectorTimersCount : Prop :=
  ∀ (s : State) (n : Nat) (rest : List Nat),
    s.flight.cyclesToSelector = n :: rest →
    let expires (e : Ext) : Prop := s.selector.entries[e].state = .faulted ∧
      ∃ k ≤ 1, s.selector.entries[e].retry = some k
    ∃ v t, exec .selectorCycleStart s = .next t ∧
      (∀ e : Ext, s.selector.entries[e].state = .faulted → s.selector.entries[e].retry = some 1 →
        exec (.retryTimerExpiry e) s = .next t) ∧
      RevertTested v t ∧
      v = { s with
        selector := { s.selector with entries := v.selector.entries }
        inputs := v.inputs
        flight := { s.flight with cyclesToSelector := rest } } ∧
      (∀ u : InUnit,
        (expires (inSource u) → v.inputs[u] = asked { s.inputs[u] with
          tracker := .seeking, anchor := none, intervals := 0, held := .nothing }) ∧
        (¬expires (inSource u) → v.inputs[u] = s.inputs[u])) ∧
      ∀ e : Ext, v.selector.entries[e] =
        let m := s.selector.entries[e]
        match m.state, m.retry, m.restore with
        | .faulted, some k, _ =>
          if k ≤ 1 then
            { m with state := .trial, goodRun := 0, missRun := 0, retry := none, restore := none }
          else { m with retry := some (k - 1) }
        | .usable, _, some k => { m with restore := some (min 3600 (k + 1)) }
        | _, _, _ => m

/-- When the selector takes a step announcement, every external entry's learned offset and learned count
become 0 and every stack entry's stored learned count becomes 0; states, runs, timers and the order of the
stack are kept (R85). -/
def Obligations.SelectorForgetsAtStep : Prop :=
  ∀ (s : State) (a : StepAnnouncement) (rest : List StepAnnouncement),
    s.flight.stepsToSelector = a :: rest →
    exec .selectorStep s = .next
      { s with
        flight := { s.flight with stepsToSelector := rest }
        selector := { s.selector with
          entries := s.selector.entries.map fun n => { n with learned := 0, learnedCount := 0 }
          stack := s.selector.stack.map fun t => { t with learnedCount := 0 } } }

/-- SWITCH SOURCE's checks in order, and the switch: the external source left is pushed with cause MANUAL and
the options as they stand, the mask is withdrawn, the target selected; from LOCAL there is no push and no
mask, and a target at the stack top gets its options back (R74, R81). DISCARD FALLBACK is checked for access
and guards as SWITCH SOURCE is and answers EMPTY at an empty stack; otherwise it removes the top entry, and
the new top is tested for revert at once: not due, it stays; due and in agreement, it is selected with its
saved options; due and in disagreement, its entry is removed, REVERT_REFUSED logged and the next top tested
(R78, R82). -/
def Obligations.FallbackCommands : Prop :=
  (∀ (s : State) (r : Running) (target : Nat), Runs s r (.switchSource target) →
     let answers (t : State) (st : Status) (payload : List Byte) : Prop :=
       exec .switchSource s = .next (t.respond r st payload)
     if s.access.canWrite r.link 2 = false then answers s .denied []
     else if s.access.guarded 2 167 = true then answers s .guarded []
     else if 4 < target then answers s .badIndex []
     else if target = 4 then answers s .refused []
     else
       ∀ e : Ext, e.val = target →
         if s.selector.entries[e].state ≠ .usable then answers s .refused []
         else if s.selector.selected = toSource e then
           answers s .ok [byte target, byte s.selector.stack.length]
         else
           (s.selector.selected = localSource →
             let t := selecting s (toSource e) (optionsFor s (toSource e))
             answers t .ok [byte target, byte t.selector.stack.length]) ∧
           ∀ a : Ext, s.selector.selected = toSource a →
             let n := s.selector.entries[a]
             let top : StackEntry :=
               ⟨a, .manual, s.timebase.time.sec, n.learned, n.learnedCount, s.steering.options⟩
             let pushed := { s with selector := { s.selector with
               entries := s.selector.entries.set a
                 { n with restore := if n.state = .usable then some 0 else n.restore }
               stack := top :: s.selector.stack.filter fun t => decide (t.source ≠ a) } }
             let t := selecting pushed (toSource e) (s.steering.options.without s.steering.mask)
             answers t .ok [byte target, byte t.selector.stack.length]) ∧
  ∀ (s : State) (r : Running), Runs s r .discardFallback →
     let answers (st : Status) : Prop := exec .discardFallback s = .next (s.respond r st [])
     if s.access.canWrite r.link 2 = false then answers .denied
     else if s.access.guarded 2 168 = true then answers .guarded
     else if s.selector.stack = [] then answers .empty
     else
       ∀ (gone : StackEntry) (stack : List StackEntry), s.selector.stack = gone :: stack →
         let t := { s with selector := { s.selector with stack := stack } }
         ∃ v, RevertTested t v ∧
           exec .discardFallback s = .next (v.respond r .ok [byte gone.source.val, byte stack.length])

/-- Auto-upgrade written ON selects the best-ranked USABLE source when its effective class is strictly lower
than the selected external source's, without push or mask; written OFF it changes the setting only. A
programmed class written is stored clamped to 7, and the same test follows when it changes the effective class
of a USABLE or selected entry (R63, R80). A write of another selector-wide setting stores it, clamped to its
range or refused when undefined, and does nothing else (R64, R86, R178; the numbers of ON and OFF: log entry
30). -/
def Obligations.UpgradeNeedsStrictlyLowerClass : Prop :=
  ∀ (s : State) (r : Running),
    (∀ (value : List Byte), Runs s r (.writeEntry 2 166 value) → Permitted s r 2 166 →
      (∀ b : Byte, value = [b] → b.toNat < 2 →
        let t := { s with selector := { s.selector with
          settings := { s.selector.settings with autoUpgrade := decide (b = 0#8) } } }
        ∃ v, UpgradeTested t v ∧ exec .autoUpgradeWrite s = .next (v.respond r .ok [b])) ∧
      ((∀ b : Byte, value = [b] → 2 ≤ b.toNat) →
        exec .autoUpgradeWrite s = .next (s.respond r .badValue []))) ∧
    (∀ (e : Ext) (value : List Byte), Runs s r (.writeEntry 2 (32 * e.val + 2) value) →
      Permitted s r 2 (32 * e.val + 2) →
      (value.length ≠ 1 → exec .programmedClassWrite s = .next (s.respond r .badValue [])) ∧
      ∀ b : Byte, value = [b] →
        let c := min 7 b.toNat
        ∃ v, ClassJudged s (s.modEntry e fun n => { n with cls := c }) e v ∧
          exec .programmedClassWrite s = .next
            (v.respond r (if b.toNat ≤ 7 then .ok else .okClamped) [byte c])) ∧
    let set (f : SelectorSettings → SelectorSettings) : State :=
      { s with selector := { s.selector with settings := f s.selector.settings } }
    let numeric (index bytes : Nat) (lo hi : Int) (f : Int → SelectorSettings → SelectorSettings) : Prop :=
      NumericWrite .writeEntry s r 2 index bytes lo hi fun m => set (f m)
    numeric 160 1 2 60 (fun m c => { c with qualify := m.toNat }) ∧
    numeric 161 2 1 3600 (fun m c => { c with retryTime := m.toNat }) ∧
    numeric 162 1 1 10 (fun m c => { c with missLimit := m.toNat }) ∧
    numeric 163 4 160 16000000 (fun m c => { c with disagreement := m }) ∧
    numeric 164 2 0 3600 (fun m c => { c with waitToRestore := m.toNat }) ∧
    EnumWrite .writeEntry s r 2 165 2 (fun b => set fun c => { c with revertive := decide (b = 0#8) })

/-! ### Chapter 5 -/

/-- What the filter hands for an event that is processed and decides no step: the error clamped to ±Ts,
converted by 2^31 / 10^9 and rounded half away from zero, P and I by the shifts, the candidate −(P + I)
clamped to the rate limit, A kept when it was clamped (R92, R93); then the lock test in ACQUIRE (R94), and in
LOCKED the excursion tests and the ring (R95, R96). In ACQUIRE with STEP_PERMIT an exact error beyond Ts
requests a step of its negative and clears A and the lock count (R91); an event of another source, in FREE or
HOLDOVER, or with a step pending, is only counted as set aside (R90). That a selection on its way is taken
before the event is log entry 11. -/
def Obligations.GoodEventsProcessed : Prop :=
  ((∀ e : Int, rateUnits (-e) = -rateUnits e ∧
     (0 ≤ e → (2 * rateUnits e - 1) * 1000000000 ≤ 2 * e * 2147483648 ∧
       2 * e * 2147483648 < (2 * rateUnits e + 1) * 1000000000)) ∧
   ∀ (s : State) (ev : PhaseEvent) (rest : List PhaseEvent) (c x : Int),
     s.flight.selections = [] → s.flight.goodEvents = ev :: rest → ev.validity = .good c x →
     let v := s.steering
     let g := v.settings
     v.steered = some ev.source → v.pendingStep = none →
     let shifts := if v.state = .acquire ∧ v.options.fastAcquire = true then (g.pa, g.ia) else (g.pt, g.it)
     let er := rateUnits (clamp (-g.ts) g.ts c)
     let sum := v.integral + er
     let candidate := -(er.tdiv (2 ^ shifts.1) + sum.tdiv (2 ^ shifts.2))
     let limit := s.timebase.rateLimit
     let word := clamp (-limit) limit candidate
     let within := (candidate.natAbs : Int) ≤ limit
     let n := { v.counters with
       processed := v.counters.processed + 1
       clamped := v.counters.clamped + (if within then 0 else 1) }
     let w := { v with
       integral := if within then sum else v.integral, steeredClass := some (s.effectiveClass ev.source) }
     let result (f : Steering) (latches : List NoticeClass) (reports : List Excursion) : Prop :=
       exec .steeringPhaseEvent s = .next
         { s with
           steering := f
           flight := { s.flight with
             goodEvents := rest, rateWords := s.flight.rateWords ++ [word]
             latches := s.flight.latches ++ latches
             excursions := s.flight.excursions ++ reports } }
     (v.state = .acquire → ¬(v.options.stepPermit = true ∧ g.ts < (x.natAbs : Int)) →
       let run := if (c.natAbs : Int) ≤ g.tl then v.lockCount + 1 else 0
       (run < g.lockCount → result { w with lockCount := run, counters := n } [] []) ∧
       (g.lockCount ≤ run →
         result
           { w with
             state := .locked, lockCount := 0, excursionCount := 0
             counters := { n with locks := n.locks + 1 } } [.steeringState] [])) ∧
     (v.state = .locked →
       let ring := (if v.ring.length < 16 then v.ring else v.ring.drop 1) ++ [word]
       (g.ts < (c.natAbs : Int) →
         result
           { w with
             ring := ring, excursionCount := 0
             counters := { n with hardExcursions := n.hardExcursions + 1 } } [] [⟨ev.source, true⟩]) ∧
       ((c.natAbs : Int) ≤ g.ts → g.tx < (c.natAbs : Int) →
         (v.excursionCount + 1 < g.excursionCount →
           result { w with ring := ring, excursionCount := v.excursionCount + 1, counters := n } [] []) ∧
         (g.excursionCount ≤ v.excursionCount + 1 →
           result
             { w with
               ring := ring, excursionCount := 0, counters := { n with excursions := n.excursions + 1 } }
             [] [⟨ev.source, false⟩])) ∧
       ((c.natAbs : Int) ≤ g.ts → (c.natAbs : Int) ≤ g.tx →
         result { w with ring := ring, excursionCount := 0, counters := n } [] []))) ∧
  (∀ (s : State) (ev : PhaseEvent) (rest : List PhaseEvent) (c x : Int),
     s.flight.selections = [] → s.flight.goodEvents = ev :: rest → ev.validity = .good c x →
     let v := s.steering
     (v.state = .acquire → v.steered = some ev.source → v.pendingStep = none →
       v.options.stepPermit = true → v.settings.ts < (x.natAbs : Int) →
       exec .steeringPhaseEvent s = .next
         { s with
           steering := { v with
             integral := 0, lockCount := 0, pendingStep := some ⟨-x, ev.source⟩
             steeredClass := some (s.effectiveClass ev.source)
             counters := { v.counters with
               processed := v.counters.processed + 1
               stepsRequested := v.counters.stepsRequested + 1 } }
           flight := { s.flight with
             goodEvents := rest, stepRequests := s.flight.stepRequests ++ [-x] } }) ∧
     (v.state = .free ∨ v.state = .holdover ∨ v.steered ≠ some ev.source ∨ v.pendingStep ≠ none →
       exec .steeringPhaseEvent s = .next
         { s with
           steering := { v with
             counters := { v.counters with setAside := v.counters.setAside + 1 } }
           flight := { s.flight with goodEvents := rest } }))

/-- A step announcement of either origin clears the integral and the two counts and keeps the rest (R98);
one of origin STEERING ends the pending step and logs STEP_APPLIED with its source and the low 24 bits of
station seconds (R97). -/
def Obligations.StepAnnouncementClearsLoop : Prop :=
  ∀ (s : State) (a : StepAnnouncement) (rest : List StepAnnouncement),
    s.flight.stepsToSteering = a :: rest →
    let cleared := { s.steering with integral := 0, lockCount := 0, excursionCount := 0 }
    (a.origin = .command ∨ s.steering.pendingStep = none →
      exec .steeringStepAnnouncement s = .next
        { s with steering := cleared, flight := { s.flight with stepsToSteering := rest } }) ∧
    ∀ p, a.origin = .steering → s.steering.pendingStep = some p →
      exec .steeringStepAnnouncement s = .next
        { s with
          steering := { cleared with pendingStep := none }
          flight := { s.flight with
            stepsToSteering := rest
            faults := s.flight.faults ++
              [(.steering, ⟨16, p.source.val, s.timebase.time.sec % 16777216⟩)] } }

/-- A selection of an external source takes the unit to ACQUIRE on it from any state, its integral and ring
kept, presents the offset its unit then holds (log entry 40), and latches STEERING_STATE unless it was in
ACQUIRE (R88, R99). A selection of LOCAL takes a unit that steers by a source to HOLDOVER with four or more
words in the ring, handing their mean rounded toward zero and logging HOLDOVER_ENTERED, and to FREE with
fewer, with no fault (R100, R101). -/
def Obligations.SelectionsMoveSteering : Prop :=
  (∀ (s : State) (e : Ext) (rest : List Source), s.flight.selections = toSource e :: rest →
     exec .steeringSelectExternal s = .next
       { s with
         steering := { s.steering with
           state := .acquire, steered := some e, steeredClass := some (s.effectiveClass e)
           lockCount := 0, excursionCount := 0, age := 0, origin := none, scale := s.unitScale e }
         flight := { s.flight with
           selections := rest
           latches := s.flight.latches ++
             (if s.steering.state = .acquire then [] else [.steeringState]) } }) ∧
  (∀ (s : State) (e : Ext) (c0 : Nat) (rest : List Source),
     s.flight.selections = localSource :: rest → s.steering.steered = some e →
     s.steering.steeredClass = some c0 →
     let left := { s.steering with
       steered := none, steeredClass := none, lockCount := 0, excursionCount := 0 }
     let latches := s.flight.latches ++ [.steeringState]
     (s.steering.ring.length < 4 →
       exec .steeringSelectLocal s = .next
         { s with
           steering := { left with state := .free }
           flight := { s.flight with selections := rest, latches := latches } }) ∧
     (4 ≤ s.steering.ring.length →
       exec .steeringSelectLocal s = .next
         { s with
           steering := { left with
             state := .holdover, age := 0, origin := some ⟨e, c0⟩
             counters := { left.counters with holdoverEntries := left.counters.holdoverEntries + 1 } }
           flight := { s.flight with
             selections := rest, latches := latches
             rateWords := s.flight.rateWords ++ [s.steering.ring.sum.tdiv s.steering.ring.length]
             faults := s.flight.faults ++
               [(.steering, ⟨17, e.val, (s.cycleTimer.cycle.getD 0) % 16777216⟩)] } }))

/-- At each cycle start in HOLDOVER the age is incremented; when it reaches the holdover limit the unit enters
FREE, HOLDOVER_EXPIRED is logged with the origin's index and the low 24 bits of that cycle's number, and
STEERING_STATE is latched; in any other state a cycle start changes nothing (R102). HOLDOVER_EXPIRY is that
cycle start, which is the model's choice (log entry 6), and so is that a cycle start taken while a selection
waits is handled in the state before (log entry 49). -/
def Obligations.HoldoverAgesAndExpires : Prop :=
  ∀ (s : State) (n : Nat) (rest : List Nat), s.flight.cyclesToSteering = n :: rest →
    let f := { s.flight with cyclesToSteering := rest }
    (s.steering.state ≠ .holdover → exec .steeringCycleStart s = .next { s with flight := f }) ∧
    (s.steering.state = .holdover → s.steering.age + 1 < s.steering.settings.holdoverLimit →
      exec .steeringCycleStart s = .next
        { s with steering := { s.steering with age := s.steering.age + 1 }, flight := f }) ∧
    ∀ o, s.steering.state = .holdover → s.steering.origin = some o →
      s.steering.settings.holdoverLimit ≤ s.steering.age + 1 →
      let t := { s with
        steering := { s.steering with
          state := .free, age := 0, origin := none
          counters := { s.steering.counters with
            holdoverExpiries := s.steering.counters.holdoverExpiries + 1 } }
        flight := { f with
          faults := f.faults ++ [(.steering, ⟨18, o.source.val, n % 16777216⟩)]
          latches := f.latches ++ [.steeringState] } }
      exec .steeringCycleStart s = .next t ∧ exec .holdoverExpiry s = .next t

/-- The holdover class is c0 + 1 + (age / H), rounded toward zero and limited to 7 (R103); the effective
output class is the source's in LOCKED, the larger of 6 and it in ACQUIRE, the holdover class in HOLDOVER
and 7 in FREE (R104). -/
def Obligations.HoldoverAndOutputClass : Prop :=
  ∀ s : State,
    (∀ o, s.steering.origin = some o →
      s.holdoverClass = some (min 7 (o.cls + 1 + s.steering.age / s.steering.settings.holdoverStep)) ∧
      (s.steering.state = .holdover →
        s.outputClass = min 7 (o.cls + 1 + s.steering.age / s.steering.settings.holdoverStep))) ∧
    (s.steering.state = .free → s.outputClass = 7) ∧
    ∀ e, s.steering.steered = some e → s.selector.selected = toSource e →
      (s.steering.state = .locked → s.outputClass = s.effectiveClass e) ∧
      (s.steering.state = .acquire → s.outputClass = max 6 (s.effectiveClass e))

/-- A write of the steering options replaces the current options, one of the fallback mask the mask; a byte
that names anything but the three options is refused with BAD_VALUE (R89). A write of another steering setting
stores it, clamped to its range, and changes nothing else (R106, R107, R178). A port map is written whole to
an INACTIVE bank, forty entries of the four kinds and nothing else, and refused with ROLE_LOCKED for a PENDING
or ACTIVE one (R115); the epoch length is stored clamped to 1 to 3,600 (R126). -/
def Obligations.OptionsMapsAndEpochWritten : Prop :=
  (∀ (s : State) (r : Running),
    let options (b : Byte) : StepOptions := ⟨b.getLsbD 0, b.getLsbD 1, b.getLsbD 2⟩
    let set (f : SteeringSettings → SteeringSettings) : State :=
      { s with steering := { s.steering with settings := f s.steering.settings } }
    let numeric (index bytes : Nat) (lo hi : Int) (f : Int → SteeringSettings → SteeringSettings) : Prop :=
      NumericWrite .writeEntry s r 3 index bytes lo hi fun m => set (f m)
    EnumWrite .steeringOptionsWrite s r 3 6 8
      (fun b => { s with steering := { s.steering with options := options b } }) ∧
    EnumWrite .steeringOptionsWrite s r 3 7 8
      (fun b => { s with steering := { s.steering with mask := options b } }) ∧
    numeric 8 6 1600 16000000000 (fun m c => { c with ts := m }) ∧
    numeric 9 4 16 1600000 (fun m c => { c with tl := m }) ∧
    numeric 10 1 1 60 (fun m c => { c with lockCount := m.toNat }) ∧
    numeric 11 4 160 16000000 (fun m c => { c with tx := m }) ∧
    numeric 12 1 1 10 (fun m c => { c with excursionCount := m.toNat }) ∧
    numeric 13 1 0 24 (fun m c => { c with pa := m.toNat }) ∧
    numeric 14 1 0 24 (fun m c => { c with ia := m.toNat }) ∧
    numeric 15 1 0 24 (fun m c => { c with pt := m.toNat }) ∧
    numeric 16 1 0 24 (fun m c => { c with it := m.toNat }) ∧
    numeric 17 4 1 86400 (fun m c => { c with holdoverStep := m.toNat }) ∧
    numeric 18 4 60 604800 (fun m c => { c with holdoverLimit := m.toNat })) ∧
  (∀ (s : State) (r : Running) (bank : Fin 2) (p : Port) (value : List Byte),
     let index := 256 * bank.val + 8 + p.val
     let nm : BankName := if bank.val = 0 then .a else .b
     let carries (map : List SlotEntry) : Prop :=
       map.length = 40 ∧ value = 40#8 :: map.map (fun e => BitVec.ofNat 8 e.code)
     Runs s r (.writeEntry 5 index value) → Permitted s r 5 index →
     ((s.plans.bank nm).role ≠ .inactive → exec .portMapWrite s = .next (s.respond r .roleLocked [])) ∧
     ((s.plans.bank nm).role = .inactive → (∀ map, ¬carries map) →
       exec .portMapWrite s = .next (s.respond r .badValue [])) ∧
     ∀ map, (s.plans.bank nm).role = .inactive → carries map →
       exec .portMapWrite s = .next
         (State.respond
           { s with plans := s.plans.modBank nm fun k => { k with maps := k.maps.set p map } }
           r .ok value)) ∧
  ∀ (s : State) (r : Running),
    NumericWrite .epochLengthWrite s r 5 512 2 1 3600
      (fun m => { s with cycleTimer := { s.cycleTimer with epoch := m.toNat } })

/-! ### Chapter 6 -/

/-- A second boundary makes a cycle start: the announced seconds value becomes the cycle, slot 0 begins, the
cut and resume flags clear (R110); at an activation point (R113) a PENDING bank becomes ACTIVE and the former
ACTIVE one INACTIVE, or a relabel gives the ACTIVE bank its plan ID, and PLAN_ACTIVATED is on its way (R120);
every taker is handed the cycle, the ports with the bank then ACTIVE (R121), the uplink units and the notice
unit with the resume mark (R110); the request timers of TRIAL inputs count down (R34). The start of slot k
becomes the current slot and is handed on with the current cycle, the cut flag and its instant; before the
first cycle start none is announced (R111). A step announcement sets the cut and resume flags, keeps cycle and
slot, and sends the cut to the ports (R112). The model's own choices: the request timers are counted in this
row, before the selector takes the cycle start (log entry 43), and one that reaches 0 stands at 0 with nothing
sent until REQUEST_TIMER_EXPIRY, outside the state table's range (log entry 7); an uplink unit is handed only
the slot start that is its query slot's (log entry 16), and a step before the first cycle start sets the cut
flag too (log entry 38). -/
def Obligations.CyclesAndSlotsMade : Prop :=
  (∀ (s : State) (n : Nat) (instant : Stamp) (rest : List TimebaseEvent),
     s.flight.toCycleTimer = .boundary n instant :: rest → PlansSound s →
     let point := n % s.cycleTimer.epoch = 0 ∨ s.plans.activeBank = none ∨ s.cycleTimer.resume = true
     let change := s.plans.pendingBank.isSome = true ∨ s.plans.relabel.isSome = true
     ∃ t, exec .cycleStart s = .next t ∧
       t = { s with
         inputs := t.inputs, plans := t.plans
         cycleTimer := { s.cycleTimer with
           cycle := some n, slot := some 0, cut := false, resume := false }
         flight := { s.flight with
           toCycleTimer := rest
           latches := t.flight.latches
           toPort := s.flight.toPort.map
             (· ++ [.start n (t.plans.activeBank.map fun nm => (nm, (t.plans.bank nm).planId))])
           cyclesToUplink := s.flight.cyclesToUplink.map (· ++ [.start n s.cycleTimer.resume instant])
           cyclesToSelector := s.flight.cyclesToSelector ++ [n]
           cyclesToSteering := s.flight.cyclesToSteering ++ [n]
           cyclesToNotice := s.flight.cyclesToNotice ++ [.start n s.cycleTimer.resume instant] } } ∧
       (¬(point ∧ change) → t.plans = s.plans ∧ t.flight.latches = s.flight.latches) ∧
       (point → change → t.flight.latches = s.flight.latches ++ [.planActivated]) ∧
       (∀ nm, point → s.plans.pendingBank = some nm →
         t.plans.relabel = s.plans.relabel ∧
         t.plans.bank nm = { s.plans.bank nm with role := .active } ∧
         t.plans.bank nm.other = { s.plans.bank nm.other with role := .inactive }) ∧
       (∀ nm i, point → s.plans.activeBank = some nm → s.plans.relabel = some i →
         t.plans.relabel = none ∧ t.plans.bank nm = { s.plans.bank nm with planId := i } ∧
         t.plans.bank nm.other = s.plans.bank nm.other) ∧
       ∀ u : InUnit, t.inputs[u] =
         if s.selector.entries[inSource u].state = .trial then
           { s.inputs[u] with requestTimer := s.inputs[u].requestTimer.map (· - 1) }
         else s.inputs[u]) ∧
  ((∀ (s : State) (k : Nat) (instant : Stamp) (rest : List TimebaseEvent),
     s.flight.toCycleTimer = .slot k instant :: rest →
     (s.cycleTimer.cycle = none →
       exec .slotStart s = .next { s with flight := { s.flight with toCycleTimer := rest } }) ∧
     ∀ n, s.cycleTimer.cycle = some n →
       ∃ t, exec .slotStart s = .next t ∧
         t = { s with
           cycleTimer := { s.cycleTimer with slot := some k }
           flight := { s.flight with
             toCycleTimer := rest
             toPort := s.flight.toPort.map (· ++ [.slot k n s.cycleTimer.cut])
             cyclesToUplink := t.flight.cyclesToUplink
             cyclesToNotice := s.flight.cyclesToNotice ++ [.slot k n s.cycleTimer.cut instant] } } ∧
         ∀ u : UpUnit, t.flight.cyclesToUplink[u] = s.flight.cyclesToUplink[u] ++
           (if s.uplinks[u].settings.slot = k then [.slot k n s.cycleTimer.cut instant] else [])) ∧
   ∀ (s : State) (a : StepAnnouncement) (rest : List TimebaseEvent),
     s.flight.toCycleTimer = .step a :: rest →
     exec .cycleCut s = .next
       { s with
         cycleTimer := { s.cycleTimer with cut := true, resume := true }
         flight := { s.flight with
           toCycleTimer := rest, toPort := s.flight.toPort.map (· ++ [.cut]) } })

/-- ARM PLAN's checks in order and its table by role and pending change (R117); DISARM PLAN's checks, and the
withdrawal of a PENDING bank or a relabel, or EMPTY when nothing is pending (R118). That PENDING_EXISTS of ARM
PLAN comes without the roles and the pending change, and EMPTY of DISARM PLAN without the two roles, is the
model's choice (log entry 41). -/
def Obligations.ArmAndDisarmPlan : Prop :=
  (∀ (s : State) (r : Running) (bank planId : Nat), Runs s r (.armPlan bank planId) →
    let answers (st : Status) : Prop := exec .armPlan s = .next (s.respond r st [])
    if s.access.canWrite r.link 5 = false then answers .denied
    else if 1 < bank then answers .badIndex
    else if s.access.guarded 5 (256 * bank) = true then answers .guarded
    else if 255 < planId then answers .badValue
    else
      let nm : BankName := if bank = 0 then .a else .b
      let role := (s.plans.bank nm).role
      let arms (p : PlanStore) : Prop :=
        exec .armPlan s = .next (State.respond { s with plans := p } r .ok
          ([byte p.a.role.code, byte p.b.role.code] ++ p.pendingBytes))
      (role = .inactive →
        if s.plans.pendingBank ≠ none ∨ s.plans.relabel ≠ none then answers .pendingExists
        else arms (s.plans.modBank nm fun k => { k with role := .pending, planId := planId })) ∧
      (role = .pending → arms (s.plans.modBank nm fun k => { k with planId := planId })) ∧
      (role = .active →
        if s.plans.pendingBank ≠ none then answers .pendingExists
        else arms { s.plans with relabel := some planId })) ∧
  ∀ (s : State) (r : Running), Runs s r .disarmPlan →
    let answers (st : Status) : Prop := exec .disarmPlan s = .next (s.respond r st [])
    let done (p : PlanStore) : Prop :=
      exec .disarmPlan s = .next (State.respond { s with plans := p } r .ok
        [byte p.a.role.code, byte p.b.role.code])
    if s.access.canWrite r.link 5 = false then answers .denied
    else if s.access.guarded 5 514 = true then answers .guarded
    else
      (∀ nm, s.plans.pendingBank = some nm →
        done (s.plans.modBank nm fun k => { k with role := .inactive })) ∧
      (s.plans.pendingBank = none → s.plans.relabel ≠ none → done { s.plans with relabel := none }) ∧
      (s.plans.pendingBank = none → s.plans.relabel = none → answers .empty)

/-! ### Chapter 7 -/

/-- The effective map keeps the bank's entries, in slot order, up to the first that would take the total
weight above the budget; from there on every entry is IDLE (R122). IDLE weighs 0, MARK 1, STATE 2 and ANSWER 4
(R114). -/
def Obligations.EffectiveMapKeepsToBudget : Prop :=
  [SlotEntry.idle, .mark, .state, .answer].map SlotEntry.weight = [0, 1, 2, 4] ∧
  ∀ (budget : Nat) (map : List SlotEntry),
    ∃ k ≤ map.length,
      trimMap budget map = map.take k ++ List.replicate (map.length - k) .idle ∧
      ((map.take k).map SlotEntry.weight).sum ≤ budget ∧
      ∀ e, map[k]? = some e →
        budget < ((map.take (k + 1)).map SlotEntry.weight).sum ∧ e ≠ .idle

/-- A cycle start taken by a port. A port that is SERVING, or ARMED with its link UP, serves the cycle of
the bank named: leftover departures cancelled, the answer queue aged, the effective map and the cycle word
derived, slot 0 scheduled, PLAN_OVER_BUDGET logged when the map becomes trimmed, and one report made (R121
to R124, R129, R133, R144, R189). Any other port, or no bank named, clears its map, word and flags and
reports that it does not serve. ANSWER_ENTRY_EXPIRY is a cycle start at which an entry expires (log entry
6). A slot start schedules the departure of its entry at slot start + stagger, or cancels it at a full queue,
and with the cut flag set schedules nothing (R134); that its instant has come, as with a stagger of 0, is
marked on it (log entry 20). -/
def Obligations.PortServesCycle : Prop :=
  (∀ (s : State) (p : Port) (n : Nat) (named : Option (BankName × Nat)) (rest : List PortEvent),
    s.flight.toPort[p] = .start n named :: rest →
    let q := s.ports[p]
    let able := q.state = .serving ∨ (q.state = .armed ∧ q.link = .up)
    let taken := { s with flight := { s.flight with toPort := s.flight.toPort.set p rest } }
    (named = none ∨ ¬able →
      exec (.portCycleStart p) s = .next
        ((taken.modPort p fun _ =>
          { q with map := none, word := none, trimmed := false, openingSent := false, cycle := n }).portReport
            p ⟨n, .notServing⟩)) ∧
    ∀ (nm : BankName) (planId : Nat), named = some (nm, planId) → able →
      let map : List SlotEntry := (s.plans.bank nm).maps[p]
      let eff := trimMap q.settings.budget map
      let left := (q.answers.map fun a => { a with remaining := a.remaining - 1 }).filter
        fun a => decide (a.remaining ≠ 0)
      let v := { q with
        state := .serving, map := some eff, word := some ⟨BitVec.ofNat 8 planId, BitVec.ofNat 24 n⟩
        trimmed := decide (eff ≠ map), openingSent := false, stagger := q.settings.stagger, cycle := n
        answers := left, departures := []
        counters := { q.counters with
          cancelled := q.counters.cancelled +
            BitVec.ofNat 32 (q.departures.map Departure.cancelCount).sum
          expired := q.counters.expired + BitVec.ofNat 32 (q.answers.length - left.length) } }
      let due : Stamp := (Stamp.mk n 0 0).plus (q.settings.stagger * 16000)
      let came : Bool := decide (q.settings.stagger = 0) || decide (0 ≤ s.timebase.time.stamp.diff due)
      let first : List Departure :=
        match (eff[0]? : Option SlotEntry) with
        | some .mark => [⟨due, came, .mark 0⟩]
        | some .state => [⟨due, came, .state 0⟩]
        | some .answer => [⟨due, came, .reply none⟩]
        | _ => []
      let w := { v with departures := first }
      let t := taken.modPort p fun _ => w
      let report : List (FaultOrigin × FaultEntry) :=
        if eff ≠ map ∧ q.trimmed = false then [(.port p, ⟨32, p.val + 1, planId⟩)] else []
      let logged := { t with flight := { t.flight with faults := t.flight.faults ++ report } }
      let marks := SlotEntry.mark ∈ eff ∨ SlotEntry.state ∈ eff
      exec (.portCycleStart p) s = .next
        (logged.portReport p ⟨n, if marks then .marksDue else .noneDue⟩) ∧
      ((∃ a ∈ q.answers, a.remaining ≤ 1) →
        exec (.answerEntryExpiry p) s = exec (.portCycleStart p) s)) ∧
  ∀ (s : State) (p : Port) (k n : Nat) (cut : Bool) (rest : List PortEvent),
    s.flight.toPort[p] = .slot k n cut :: rest →
    let q := s.ports[p]
    let taken := { s with flight := { s.flight with toPort := s.flight.toPort.set p rest } }
    let becomes (v : PortUnit) : Prop := exec (.portSlotStart p) s = .next (taken.modPort p fun _ => v)
    let due : Stamp := (Stamp.mk n (k * 25000000) 0).plus (q.stagger * 16000)
    let came : Bool := decide (q.stagger = 0) || decide (0 ≤ s.timebase.time.stamp.diff due)
    (q.state ≠ .serving ∨ cut = true → becomes q) ∧
    ∀ map e w, q.state = .serving → cut = false → q.map = some map → map[k]? = some e →
      (e = .idle → becomes q) ∧
      (((e = .mark ∧ w = .mark k) ∨ (e = .state ∧ w = .state k) ∨ (e = .answer ∧ w = .reply none)) →
        becomes
          (if q.departures.length < 2 then { q with departures := q.departures ++ [⟨due, came, w⟩] }
          else { q with counters := { q.counters with cancelled := q.counters.cancelled + 1 } }))

/-- A mark whose instant has come, even when a backward step has since taken station time behind it, is muted
with a count when the output class is at or above the mute threshold (R139); otherwise it leaves with the next
sequence number, its stamp and correction from the reading, the opening flag on the first mark of the cycle
and the closing flag on the last of the effective map, the class and flags of the station status, and in a
STATE the trailer (R124, R125, R136 to R138). A reply departure takes up to four of the oldest entries out of
the answer queue, and their replies leave in order, each with the output class as it leaves (R145, R146). How
many of them leave in one command, n of 1 to 4 (0 changes nothing), and that the group stays at the head of
the departure queue until its last reply has left, are the model's (log entry 19); a group begun keeps that
its instant has come, so that the rest of it leaves one after another whatever a step makes of station time
(log entry 20). A departure whose instant has not come stays (R134, R135; log entry 20). Every frame leaves
for the broadcast address from the port's own, with Ethernet type 0x9C5A (R166). -/
def Obligations.MarksAndRepliesLeave : Prop :=
  (∀ (s : State) (p : Port) (x : Elapsed) (d : Departure) (slot : Nat)
     (rest : List Departure) (map : List SlotEntry) (word : CycleWord),
     s.ports[p].state = .serving → s.ports[p].departures = d :: rest →
     d.what = .mark slot ∨ d.what = .state slot → d.came = true ∨ 0 ≤ (s.reading x).diff d.due →
     s.ports[p].map = some map → s.ports[p].word = some word →
     let q := s.ports[p]
     let now := s.reading x
     if q.settings.mute ≤ s.outputClass then
       exec (.markDeparture p x) s = .next
         (s.modPort p fun _ =>
           { q with
             departures := rest, counters := { q.counters with muted := q.counters.muted + 1 } })
     else
       let closing := decide (SlotEntry.mark ∉ map.drop (slot + 1) ∧ SlotEntry.state ∉ map.drop (slot + 1))
       let m : MarkFields := {
         seconds := now.sec, nanos := now.ns, correction := now.fu + q.settings.egress, seq := q.seq + 1
         opening := !q.openingSent, closing := closing
         holdover := decide (s.steering.state = .holdover), untraceable := decide (s.outputClass = 7)
         cls := s.outputClass, word := word }
       let trailer : Trailer :=
         ⟨s.steering.state.code, s.selectedKind, s.presentedAge, s.steering.scale, word.plan.toNat, slot⟩
       let isState := d.what = .state slot
       let t := s.modPort p fun _ =>
         { q with
           departures := rest, seq := q.seq + 1, openingSent := true
           sent := q.sent ++ [⟨BitVec.allOnes 48, portAddress p, 0x9C5A#16,
             if isState then .state m trailer else .mark m⟩]
           counters := { q.counters with
             marks := q.counters.marks + 1
             states := q.counters.states + (if isState then 1 else 0) } }
       exec (.markDeparture p x) s = .next
         (if closing = true then t.portReport p ⟨q.cycle, .closed⟩ else t)) ∧
  (∀ (s : State) (p : Port) (n : Nat) (x : Elapsed) (d : Departure) (rest : List Departure),
     s.ports[p].departures = d :: rest → d.came = false → (s.reading x).diff d.due < 0 →
     exec (.markDeparture p x) s = .next s ∧ exec (.replyDeparture p n x) s = .next s) ∧
  (∀ (s : State) (p : Port) (x : Elapsed), exec (.replyDeparture p 0 x) s = .next s) ∧
  (∀ (s : State) (p : Port) (n : Nat) (x : Elapsed) (d : Departure) (taken : Option (List Answer))
     (rest : List Departure), 1 ≤ n → n ≤ 4 →
     s.ports[p].state = .serving → s.ports[p].departures = d :: rest → d.what = .reply taken →
     d.came = true ∨ 0 ≤ (s.reading x).diff d.due →
     let q := s.ports[p]
     let group := match taken with | some l => l | none => q.answers.take 4
     let waiting := match taken with | some _ => q.answers | none => q.answers.drop 4
     exec (.replyDeparture p n x) s = .next
       (s.modPort p fun _ =>
         { q with
           answers := waiting
           departures := if group.length ≤ n then rest
             else { d with came := true, what := .reply (some (group.drop n)) } :: rest
           sent := q.sent ++ (group.take n).map fun a =>
             ⟨BitVec.allOnes 48, portAddress p, 0x9C5A#16,
               .reply a.requester a.seq a.arrival.sec a.arrival.ns a.arrival.fu s.outputClass⟩
           counters := { q.counters with
             replies := q.counters.replies + BitVec.ofNat 32 (min n group.length) } }))

/-- A QUERY at a SERVING port joins the answer queue with its arrival stamp less the ingress delay and two
cycles remaining; a duplicate is counted, and at a full queue an overrun is counted and logged the first time
(R141, R142). A frame that fails a check, or a MARK, STATE or REPLY, is counted (R140); a port that is not
SERVING takes no frame. The cut cancels what is scheduled (R135); that it ends a reply group already begun
too, each reply left counting one, is the model's reading of R112 and R150 (log entry 18). -/
def Obligations.QueriesAndCutsAtPorts : Prop :=
  (∀ (s : State) (p : Port) (bytes : List Byte) (r : Nat) (sq : Seq) (x : Elapsed),
    s.ports[p].state = .serving → readFrame bytes = some (.query r sq) →
    let q := s.ports[p]
    let becomes (v : PortUnit) (log : List (FaultOrigin × FaultEntry)) : Prop :=
      exec (.queryReceived p bytes x) s = .next
        (({ s with flight := { s.flight with faults := s.flight.faults ++ log } } : State).modPort p
          fun _ => v)
    let known := ∃ a ∈ q.answers, a.requester = r ∧ a.seq = sq
    (known →
      becomes { q with counters := { q.counters with duplicates := q.counters.duplicates + 1 } } []) ∧
    (¬known → q.answers.length < 8 →
      becomes
        { q with
          answers := q.answers ++ [⟨r, sq, (s.reading x).plus (-(q.settings.ingress : Int)), 2⟩]
          counters := { q.counters with taken := q.counters.taken + 1 } } []) ∧
    (¬known → 8 ≤ q.answers.length →
      becomes
        { q with
          overrun := true, counters := { q.counters with overruns := q.counters.overruns + 1 } }
        (if q.overrun = true then []
        else [(.port p, ⟨48, p.val + 1, (s.cycleTimer.cycle.getD 0) % 16777216⟩)]))) ∧
  (∀ (s : State) (p : Port) (bytes : List Byte) (x : Elapsed),
    let counted (f : PortCounters → PortCounters) : Prop :=
      exec (.portUnexpectedFrame p bytes) s = .next
        (s.modPort p fun q => { q with counters := f q.counters })
    (s.ports[p].state = .serving → readFrame bytes = none →
      counted fun c => { c with badFrames := c.badFrames + 1 }) ∧
    (∀ f, s.ports[p].state = .serving → readFrame bytes = some f → (∀ r q, f ≠ .query r q) →
      counted fun c => { c with unexpected := c.unexpected + 1 }) ∧
    (s.ports[p].state ≠ .serving →
      exec (.queryReceived p bytes x) s = .next s ∧ exec (.portUnexpectedFrame p bytes) s = .next s)) ∧
  ∀ (s : State) (p : Port) (rest : List PortEvent), s.flight.toPort[p] = .cut :: rest →
    let q := s.ports[p]
    let taken := { s with flight := { s.flight with toPort := s.flight.toPort.set p rest } }
    exec (.portCut p) s = .next
      (taken.modPort p fun _ =>
        if q.state = .serving then
          { q with
            departures := []
            counters := { q.counters with
              cancelled := q.counters.cancelled +
                BitVec.ofNat 32 (q.departures.map Departure.cancelCount).sum } }
        else q)

/-- Enabled YES makes an OFF port ARMED and changes no other (R128); enabled NO makes any other port OFF with
its queues emptied and counted (R132); any other value is BAD_VALUE (R178; the numbers of NO and YES: log
entry 30). A link loss makes an ARMED or SERVING port DOWN, empties and counts its queues and logs PORT_DOWN
(R130); a link that comes up makes a DOWN port ARMED (R131). A write of a port setting stores it, clamped to
its range, and changes nothing else at once (R148, R149, R178). CLEAR PORT FLAGS checks in the order of R147,
clears the overrun flag of each port named and answers what it was; that a port named twice is answered twice
is the model's choice (log entry 42). -/
def Obligations.PortStatesAndFlags : Prop :=
  (∀ (s : State) (p : Port),
    let q := s.ports[p]
    let emptied := { q with
      departures := [], answers := []
      counters := { q.counters with
        cancelled := q.counters.cancelled +
          BitVec.ofNat 32 (q.departures.map Departure.cancelCount).sum
        dropped := q.counters.dropped + BitVec.ofNat 32 q.answers.length } }
    (∀ r, Runs s r (.writeEntry 6 (32 * p.val) [1#8]) → Permitted s r 6 (32 * p.val) →
      exec .portEnable s = .next
        ((s.modPort p fun _ => { q with state := if q.state = .off then .armed else q.state }).respond
          r .ok [1#8])) ∧
    (∀ r, Runs s r (.writeEntry 6 (32 * p.val) [0#8]) → Permitted s r 6 (32 * p.val) →
      exec .portDisable s = .next
        ((s.modPort p fun _ =>
          if q.state = .off then q
          else { emptied with
            state := .off, overrun := false, map := none, word := none, trimmed := false
            openingSent := false }).respond r .ok [0#8])) ∧
    (q.link = .up →
      (q.state = .armed ∨ q.state = .serving →
        let t := s.modPort p fun _ => { emptied with
          state := .down, link := .down
          counters := { emptied.counters with linkLosses := q.counters.linkLosses + 1 } }
        exec (.portLinkDown p) s = .next
          { t with flight := { t.flight with
            faults := s.flight.faults ++
              [(.port p, ⟨49, p.val + 1, (s.cycleTimer.cycle.getD 0) % 16777216⟩)] } }) ∧
      (q.state = .off ∨ q.state = .down →
        exec (.portLinkDown p) s = .next (s.modPort p fun _ => { q with link := .down }))) ∧
    exec (.portLinkUp p) s = .next
      (s.modPort p fun _ =>
        { q with link := .up, state := if q.state = .down then .armed else q.state }) ∧
    ∀ r,
      (∀ value : List Byte, value ≠ [0#8] → value ≠ [1#8] →
        Runs s r (.writeEntry 6 (32 * p.val) value) → Permitted s r 6 (32 * p.val) →
        exec .writeEntry s = .next (s.respond r .badValue [])) ∧
      let numeric (offset bytes : Nat) (lo hi : Int) (f : Nat → PortSettings → PortSettings) : Prop :=
        NumericWrite .writeEntry s r 6 (32 * p.val + offset) bytes lo hi fun m =>
          s.modPort p fun _ => { q with settings := f m.toNat q.settings }
      numeric 1 1 1 160 (fun n c => { c with budget := n }) ∧
      numeric 2 2 0 20000 (fun n c => { c with stagger := n }) ∧
      numeric 3 1 0 8 (fun n c => { c with mute := n }) ∧
      numeric 4 4 0 1600000 (fun n c => { c with ingress := n }) ∧
      numeric 5 4 0 1600000 (fun n c => { c with egress := n })) ∧
  ∀ (s : State) (r : Running) (named : List Nat), Runs s r (.clearPortFlags named) →
    let answers (st : Status) : Prop := exec .clearPortFlags s = .next (s.respond r st [])
    if s.access.canWrite r.link 6 = false then answers .denied
    else if named = [] ∨ 6 < named.length then answers .badValue
    else if ∃ n ∈ named, n = 0 ∨ 6 < n then answers .badIndex
    else if ∃ n ∈ named, s.access.guarded 6 (32 * (n - 1) + 13) = true then answers .guarded
    else
      exec .clearPortFlags s = .next
        (State.respond
          { s with ports := Vector.ofFn fun p =>
              if p.val + 1 ∈ named then { s.ports[p] with overrun := false } else s.ports[p] }
          r .ok
          (named.flatMap fun n =>
            [byte n, if ∃ p : Port, p.val + 1 = n ∧ s.ports[p].overrun = true then 1#8 else 0#8]))

/-! ### Chapter 8 -/

/-- A placing finds the first time s seconds + offset strictly after its starting time, for whole s modulo
2^48 (R152, R157). -/
def Obligations.PlacingIsFirstTimeAfter : Prop :=
  ∀ (start : Nat) (offset : Int),
    ∃ k : Int,
      placeAfter start offset =
        ((k % 2 ^ 48).toNat, Stamp.ofFu ((k * 1000000000 + offset) * 16)) ∧
      (start : Int) < (k * 1000000000 + offset) * 2 ^ 32 ∧
      ((k - 1) * 1000000000 + offset) * 2 ^ 32 ≤ start

/-- A rise time that has passed raises a line that was LOW at that instant for width × 125 ticks, unless the
output class reaches the squelch threshold or the acquisition squelch stands, is counted as overlapped when
the line was HIGH, and the next rise time is placed from it (R152, R153, R161); when the advance has gone
beyond that one too, it has passed as well, with the line as the decision left it. While none has passed,
nothing is decided. A fall count of 0 makes the line LOW (R154); any other count leaves it. A step places the
next rise time from the time just after it, keeps line and count, and tests it against the advance since
(R155); a rise time that has passed is decided before the step is taken, so that each counts once (R161; log
entry 12). The place in its tick of a time found passed only when it is placed is worked back over the whole
advance and clamped (log entry 14), the line at a tie of places is log entry 10, and the placing from the time
that the announcement carries log entries 13 and 46; the line at a time found passed when a step is taken late
is the one that stands then (log entry 50). A write of offset, width or squelch threshold stores it, clamped
to its range, and leaves the rise time placed and a HIGH line's count as they stand (R156, R160, R178). -/
def Obligations.PulseOutputsRiseAndFall : Prop :=
  ∀ (s : State) (k : PulseOut),
    let o := s.pulses[k]
    let becomes (c : Instr) (v : PulseUnit) : Prop := exec c s = .next (s.modPulse k fun _ => v)
    let start := o.next.fuCount * 2 ^ 28
    let next := (placeAfter start o.offset).2
    let squelched := o.squelch ≤ s.outputClass ∨
      (s.steering.state = .acquire ∧ s.steering.options.squelch = true)
    (o.passed = none → becomes (.pulseRiseTime k) o) ∧
    (∀ p, o.passed = some p →
      (p.busy = true → ∃ again, Passes start p.since next
          (fun part => ¬(o.fall = 0 ∧ o.risePart ≤ part)) again ∧
        becomes (.pulseRiseTime k)
          { o with next := next, passed := again, overlapped := o.overlapped + 1 }) ∧
      (p.busy = false → squelched → ∃ again, Passes start p.since next (fun _ => False) again ∧
        becomes (.pulseRiseTime k)
          { o with next := next, passed := again, high := false, squelched := o.squelched + 1 }) ∧
      (p.busy = false → ¬squelched → ∃ again, Passes start p.since next (fun _ => True) again ∧
        becomes (.pulseRiseTime k)
          { o with
            next := next, passed := again, high := true, fall := o.width * 125, risePart := p.part
            sent := o.sent + 1 }) ∧
      becomes (.pulseOutputStep k) o) ∧
    becomes (.pulseFall k) { o with high := if o.fall = 0 then false else o.high } ∧
    (∀ (a : StepAnnouncement) (rest : List StepAnnouncement), s.flight.stepsToPulse[k] = a :: rest →
      o.passed = none →
      let taken := { s with flight :=
        { s.flight with stepsToPulse := s.flight.stepsToPulse.set k rest } }
      let placed := (placeAfter a.after.units o.offset).2
      ∃ again,
        Passes a.after.units (advanceSince a.after.units rest s.timebase.time) placed
          (fun part => o.high = true ∧ ¬(o.fall = 0 ∧ o.risePart ≤ part)) again ∧
        exec (.pulseOutputStep k) s = .next
          (taken.modPulse k fun _ => { o with next := placed, passed := again })) ∧
    ∀ r : Running,
      NumericWrite .writeEntry s r 7 (16 * k.val) 4 (-500000000) 500000000
        (fun m => s.modPulse k fun _ => { o with offset := m }) ∧
      NumericWrite .writeEntry s r 7 (16 * k.val + 1) 4 1 500000
        (fun m => s.modPulse k fun _ => { o with width := m.toNat }) ∧
      NumericWrite .writeEntry s r 7 (16 * k.val + 2) 1 0 8
        (fun m => s.modPulse k fun _ => { o with squelch := m.toNat })

/-- A due time that has passed begins a sentence on a line that was IDLE at that instant, with the status as
it stands and at the divisor and parity in effect, for 14 bit times and twelve characters, or is skipped with
a count when it was SENDING, and the next due time is placed from it (R157, R158, R161); when the advance has
gone beyond that one too, it has passed as well. The line is IDLE again after the last bit, and no earlier
(counted in ticks: log entry 26). A step places the next due time from the time just after it, keeps the
transmission, and tests it against the advance since (R159); a due time that has passed is decided before the
step is taken, so that each counts once (R161; log entry 12). The place in its tick of a time found passed
only when it is placed is worked back over the whole advance and clamped (log entry 14), the line at a tie of
places is log entry 10, and the placing from the time that the announcement carries log entries 13 and 46; the
line at a time found passed when a step is taken late is the one that stands then (log entry 50). On the wire
stand 13 bit times low, one high, and of each character the start bit, the data least significant bit first,
the parity bit that makes the ones even or odd, and the stop bit, each for 16 × (D + 1) ticks; the wire idles
high (R158). A write of lead, divisor or parity stores it, clamped to its range or refused when undefined, and
leaves the due time placed and a transmission in progress as they stand (R159, R160, R178; the numbers of the
parities: log entry 30). -/
def Obligations.CodedOutputsSendSentences : Prop :=
  (∀ (s : State) (m : CodedOut),
    let o := s.coded[m]
    let start := o.next.fuCount * 2 ^ 28
    let r := placeAfter start (o.lead * 1000000)
    let tod : TimeOfDay :=
      ⟨o.names, s.steering.scale, decide (s.steering.state = .locked), s.outputClass⟩
    let becomes (c : Instr) (v : CodedUnit) : Prop := exec c s = .next (s.modCoded m fun _ => v)
    (o.passed = none → becomes (.codedDueTime m) o) ∧
    (∀ p, o.passed = some p →
      (p.busy = false → ∃ again,
        Passes start p.since r.2 (fun _ => True) again ∧
        becomes (.codedDueTime m)
          { o with
            next := r.2, names := r.1, passed := again, sent := o.sent + 1, beginPart := p.part
            line := .sending o.divisor o.parity (todSentence tod)
              ((14 + 12 * characterBits o.parity) * (16 * (o.divisor + 1))) }) ∧
      (p.busy = true → ∃ again,
        Passes start p.since r.2
          (fun part => (∃ d q chars n, o.line = .sending d q chars (n + 1)) ∨ part < o.beginPart) again ∧
        becomes (.codedDueTime m)
          { o with next := r.2, names := r.1, passed := again, skipped := o.skipped + 1 }) ∧
      becomes (.codedOutputStep m) o) ∧
    (∀ d p chars n, o.line = .sending d p chars n →
      becomes (.codedTransmissionDone m) { o with line := if n = 0 then .idle else o.line }) ∧
    (∀ (a : StepAnnouncement) (rest : List StepAnnouncement), s.flight.stepsToCoded[m] = a :: rest →
      o.passed = none →
      let taken := { s with flight :=
        { s.flight with stepsToCoded := s.flight.stepsToCoded.set m rest } }
      let v := placeAfter a.after.units (o.lead * 1000000)
      ∃ again,
        Passes a.after.units (advanceSince a.after.units rest s.timebase.time) v.2
          (fun part => ∃ d q chars n, o.line = .sending d q chars n ∧ ¬(n = 0 ∧ o.beginPart ≤ part))
          again ∧
        exec (.codedOutputStep m) s = .next
          (taken.modCoded m fun _ => { o with next := v.2, names := v.1, passed := again })) ∧
    ∀ r : Running,
      NumericWrite .writeEntry s r 7 (64 + 16 * m.val) 2 0 500
        (fun n => s.modCoded m fun _ => { o with lead := n.toNat }) ∧
      NumericWrite .writeEntry s r 7 (64 + 16 * m.val + 1) 2 1 65535
        (fun n => s.modCoded m fun _ => { o with divisor := n.toNat }) ∧
      EnumWrite .writeEntry s r 7 (64 + 16 * m.val + 2) 3 (fun b =>
        s.modCoded m fun _ =>
          { o with parity := if b = 0#8 then .none else if b = 1#8 then .even else .odd })) ∧
  CodedLine.idle.wire = true ∧
  ∀ (d : Nat) (p : Parity) (chars : List Byte) (n : Nat),
    let bit := (transmissionTicks d p chars.length - n) / (16 * (d + 1))
    let level := (CodedLine.sending d p chars n).wire
    let ones (c : Byte) : Nat := ((List.range 8).filter fun i => c.getLsbD i).length
    0 < n → n ≤ (14 + chars.length * characterBits p) * (16 * (d + 1)) →
    (bit < 13 → level = false) ∧ (bit = 13 → level = true) ∧
    ∀ (i j : Nat) (c : Byte), bit = 14 + i * characterBits p + j → j < characterBits p →
      chars[i]? = some c →
      (j = 0 → level = false) ∧ (∀ b < 8, j = b + 1 → level = c.getLsbD b) ∧
      (j = 9 → p = .even → level = decide (ones c % 2 = 1)) ∧
      (j = 9 → p = .odd → level = decide (ones c % 2 = 0)) ∧
      (j + 1 = characterBits p → level = true)

/-! ### Chapter 10 -/

/-- Selecting a link samples its status byte, clears the dropped flag and puts its oldest response in delivery
(R169). The four bits of the status byte are command queue full, response present, attention and command
dropped (R167, R169), and attention stands while the response queue is not empty or a class is deliverable
(R186). For every byte clocked in one is clocked out: the status byte, then the response in delivery, then
0x00 (R167); the response leaves the queue once its last byte is out, and not before (R169). A whole command
frame, one that a length byte above 64 ends at that byte too, joins the command queue, or is dropped with the
flag at a full one, and the bytes after it are ignored, as all bytes of an empty frame are (R170). Releasing
ends the transaction, delivers a response wholly clocked out, and counts an empty or a partial frame (R169,
R170); that a release with no byte clocked in counts neither is log entry 28. -/
def Obligations.TransactionsOnLinks : Prop :=
  ∀ (s : State) (l : Link),
    let k := s.links[l]
    let becomes (c : Instr) (v : LinkUnit) : Prop := exec c s = .next (s.modLink l fun _ => v)
    let bit (i : Nat) : Prop := (s.statusByte l).getLsbD i = true
    let delivered (v : LinkUnit) : LinkUnit :=
      { v with
        responses := v.responses.drop 1, delivery := none
        counters := { v.counters with delivered := v.counters.delivered + 1 } }
    ((bit 0 ↔ 4 ≤ k.commands.length) ∧ (bit 1 ↔ k.responses ≠ []) ∧
      (bit 2 ↔ k.responses ≠ [] ∨ ∃ c, Deliverable s.notice.links[l] c) ∧
      (bit 3 ↔ k.dropped = true) ∧ ∀ i, 4 ≤ i → ¬bit i) ∧
    (k.transaction = none →
      becomes (.selectAsserted l)
        { k with
          transaction := some ⟨s.statusByte l, [], false, []⟩, dropped := false
          delivery := k.responses.head? }) ∧
    (∀ (t : Transaction), k.transaction = some t →
      let whole := ∃ f, k.delivery = some f ∧ 1 + f.length ≤ t.out.length
      (whole → becomes (.responseDelivered l) (delivered k)) ∧
      (¬whole → becomes (.responseDelivered l) k) ∧
      -- what each byte clocked in clocks out
      (∀ b : Byte, ∃ v w, exec (.commandFrameReceived l [b]) s = .next (s.modLink l fun _ => v) ∧
        v.transaction = some w ∧ w.status = t.status ∧ v.delivery = k.delivery ∧
        v.responses = k.responses ∧
        w.out = t.out ++
          [if t.out = [] then t.status
            else (((k.delivery.getD [])[t.out.length - 1]?).getD 0#8)]) ∧
      -- bytes ignored: after the frame's end, and in an empty frame
      (t.ended = true ∨ t.received = [0#8] → ∀ b : Byte, ∃ o : Byte,
        becomes (.commandFrameReceived l [b]) { k with transaction := some { t with out := t.out ++ [o] } }) ∧
      let after := if whole then delivered k else k
      becomes (.selectReleased l)
        { after with
          transaction := none, delivery := none
          counters :=
            if t.ended = true ∨ t.received = [] then after.counters
            else if t.received = [0#8] then { after.counters with empty := after.counters.empty + 1 }
            else { after.counters with part := after.counters.part + 1 } }) ∧
    (∀ (st code tag length : Byte) (rest : List Byte),
      k.transaction = some ⟨st, [], false, []⟩ → code ≠ 0#8 →
      (length.toNat ≤ 64 ∧ rest.length = length.toNat + 1) ∨ (64 < length.toNat ∧ rest = []) →
      let frame := code :: tag :: length :: rest
      let out := st :: (List.range (frame.length - 1)).map fun i => ((k.delivery.getD [])[i]?).getD 0#8
      (k.commands.length < 4 →
        becomes (.commandFrameReceived l frame)
          { k with
            transaction := some ⟨st, frame, true, out⟩, commands := k.commands ++ [frame]
            escalated := if k.commands.length = 3 then true
              else if k.commands.length + 1 ≤ 2 then false else k.escalated
            counters := { k.counters with taken := k.counters.taken + 1 } }) ∧
      (4 ≤ k.commands.length →
        becomes (.commandFrameReceived l frame)
          { k with
            transaction := some ⟨st, frame, true, out⟩, dropped := true
            counters := { k.counters with dropped := k.counters.dropped + 1 } }))

/-- The IDLE executor grants one eligible link, an escalated one before the others and else the first after
the link last served in the order A, B, C; its oldest command leaves the queue and runs, or is answered at
once when its frame is bad (R172 to R174). A response joins the end of its link's response queue with the
command's tag, and the executor becomes IDLE (R167, R173). -/
def Obligations.ExecutorGrantsAndAnswers : Prop :=
  (∀ (s : State) (l : Link) (frame : List Byte) (rest : List (List Byte)),
     s.executor.running = none → s.links[l].commands = frame :: rest →
     let eligible (m : Link) : Prop := s.links[m].commands ≠ [] ∧ s.links[m].responses.length < 4
     let before (m n : Link) : Prop := -- m comes before n after the link last served
       (m.val + 2 - s.executor.lastServed.val) % 3 < (n.val + 2 - s.executor.lastServed.val) % 3
     eligible l →
     (s.links[l].escalated = false → ∀ m, eligible m → s.links[m].escalated = false) →
     (∀ m, eligible m → m ≠ l → s.links[m].escalated = s.links[l].escalated → before l m) →
     let k := { s.links[l] with
       commands := rest
       escalated := if 4 ≤ rest.length then true
         else if rest.length ≤ 2 then false else s.links[l].escalated }
     match readCommandFrame frame with
     | .ok c =>
       exec .commandGrant s = .next
         { s.modLink l (fun _ => k) with
           executor := { s.executor with
             lastServed := l, running := some ⟨l, (frame[1]?).getD 0#8, c, []⟩ } }
     | .error st =>
       exec .commandGrant s = .next
         { s.modLink l (fun _ => { k with
             responses := k.responses ++ [responseFrame ((frame[1]?).getD 0#8) st []]
             counters := { k.counters with
               bad := k.counters.bad + (if st = .badCheck then 1 else 0) } }) with
           executor := { s.executor with lastServed := l } }) ∧
  (∀ (s : State) (r : Running) (st : Status) (payload : List Byte),
     s.respond r st payload =
       { s with
         links := s.links.set r.link
           { s.links[r.link] with
             responses := s.links[r.link].responses ++ [responseFrame r.tag st payload] }
         executor := { s.executor with running := none } })

/-- READ ENTRY's checks in order, and what each listed index of the nine sections reads as, no other index
being listed (R64, R106, R116, R148, R160, R177, R179, R181, R194), each field encoded by R163 and an entry as
its fields in order (R168). WRITE ENTRY's checks in order, whichever row of the table the write is: a section
above 8, the right to it, an index not listed, the lock, the guards, a read-only entry, and a value of another
byte count than the entry's (R175, R176, R178); a port map has its own order (R115). What a write of each
setting stores, clamps and refuses stands with the statements of its chapter. Where the manual gives no byte
table for an entry of several parts, the layout is log entry 31, and what the assembly buffer reads before it
is filled log entry 44; the numbers of enumerated and clear or set values are log entry 30, and the rest of a
measured lead reads as CHARACTER by log entry 25; LOCAL's priority and the unit identity are free constants
(log entries 32 and 33), as is a signed value that does not fit its eight bytes (log entry 8). -/
def Obligations.EntryChecksInOrder : Prop :=
  (∀ (s : State) (r : Running) (sect index : Nat) (x : Elapsed), Runs s r (.readEntry sect index) →
    let answers (st : Status) (v : List Byte) : Prop := exec (.readEntry x) s = .next (s.respond r st v)
    if 8 < sect then answers .badIndex []
    else if s.access.canRead r.link sect = false ∧ ¬OwnSetting r sect index then answers .denied []
    else
      (index ∉ (entriesOf s x sect).map (fun v => v.1) → answers .badIndex []) ∧
      ∀ v, (index, v) ∈ entriesOf s x sect → answers .ok v) ∧
  ∀ (s : State) (r : Running) (sect index : Nat) (value : List Byte),
    Runs s r (.writeEntry sect index value) →
    let answers (st : Status) : Prop :=
      exec (writeCommand sect index value) s = .next (s.respond r st [])
    if 8 < sect then answers .badIndex
    else if s.access.canWrite r.link sect = false ∧ ¬OwnSetting r sect index then answers .denied
    else if index ∉ (entriesOf s 0 sect).map (fun v => v.1) then answers .badIndex
    else if sect = 8 ∧ s.access.lock = true then answers .locked
    else if s.access.guarded sect index = true then answers .guarded
    else if index ∈ readOnlyOf sect then answers .refused
    else
      ¬isMapIndex sect index → ∀ v, (index, v) ∈ entriesOf s 0 sect → value.length ≠ v.length →
        answers .badValue

/-- A write of an access table entry, after DENIED, LOCKED and GUARDED in that order (R178), stores both sets
when the read set holds IDENTITY and the write set does not, a write of a guard entry stores its four fields
when first is not above last, and either is otherwise refused with BAD_VALUE, as one of another byte count is
(R179); LOCK ACCESS sets the lock after its checks (R180). The numbers of NO and YES are log entry 30. -/
def Obligations.AccessWritesAndLock : Prop :=
  (∀ (s : State) (r : Running) (l : Link) (value : List Byte), Runs s r (.writeEntry 8 l.val value) →
    let answers (st : Status) : Prop := exec .accessTableWrite s = .next (s.respond r st [])
    if s.access.canWrite r.link 8 = false then answers .denied
    else if s.access.lock = true then answers .locked
    else if s.access.guarded 8 l.val = true then answers .guarded
    else
      (value.length ≠ 4 → answers .badValue) ∧
      ∀ rd wr : BitVec 16,
        value = [rd.toNat / 256, rd.toNat, wr.toNat / 256, wr.toNat].map (BitVec.ofNat 8) →
        if rd.toNat < 512 ∧ wr.toNat < 512 ∧ rd.getLsbD 0 = true ∧ wr.getLsbD 0 = false then
          exec .accessTableWrite s = .next
            (State.respond
              { s with access := { s.access with
                rights := s.access.rights.set l ⟨rd.setWidth 9, wr.setWidth 9⟩ } } r .ok value)
        else answers .badValue) ∧
  (∀ (s : State) (r : Running) (k : Fin 4) (value : List Byte), Runs s r (.writeEntry 8 (k.val + 8) value) →
    let answers (st : Status) : Prop := exec .guardEntryWrite s = .next (s.respond r st [])
    if s.access.canWrite r.link 8 = false then answers .denied
    else if s.access.lock = true then answers .locked
    else if s.access.guarded 8 (k.val + 8) = true then answers .guarded
    else
      (value.length ≠ 6 → answers .badValue) ∧
      ∀ (use sect : Byte) (first last : BitVec 16),
        value = use :: sect ::
          [first.toNat / 256, first.toNat, last.toNat / 256, last.toNat].map (BitVec.ofNat 8) →
        if use.toNat < 2 ∧ sect.toNat < 9 ∧ first.toNat ≤ last.toNat then
          exec .guardEntryWrite s = .next
            (State.respond
              { s with access := { s.access with
                guards := s.access.guards.set k
                  ⟨decide (use = 1#8), sect.toNat, first.toNat, last.toNat⟩ } } r .ok value)
        else answers .badValue) ∧
  ∀ (s : State) (r : Running), Runs s r .lockAccess →
    if s.access.canWrite r.link 8 = false then
      exec .lockAccess s = .next (s.respond r .denied [])
    else if s.access.lock = true then exec .lockAccess s = .next (s.respond r .locked [])
    else if s.access.guarded 8 16 = true then exec .lockAccess s = .next (s.respond r .guarded [])
    else exec .lockAccess s = .next
      (State.respond { s with access := { s.access with lock := true } } r .ok [])

/-- LINK RESET empties the issuing link's queues, clears its flags, its latch and its in-service stack, and
leaves its own response alone in the response queue; no other link changes (R182). A SERVICE RESET is checked
as a write of CONTROL 0, DENIED or GUARDED; it hands the blocks named their reset, each once, and is answered
when every block has taken it (R183): one that names some blocks only leaves the command running with those
noted, and one that names all, in any order and in one or more commands, comes to the end. From the start to
the end in the order of R183 in one command it leaves every block at the values of its chapter's service reset
column, sets the link counters to 0, counts the reset and answers OK; station time, the settings, the access
table, the outputs in progress, the sequences, the completion record and the cycle are kept (R17, R43, R61,
R87, R109, R127, R151, R162, R183, R184, R195). The operand that names the blocks is the model's (log entry
21), and so are the moment at which the link counters become 0 (log entry 23) and what the columns do not name
(log entry 27); what is on its way at the reset and is not withdrawn is log entry 22. -/
def Obligations.ResetsByCommand : Prop :=
  (∀ (s : State) (r : Running), Runs s r .linkReset →
     let k := s.links[r.link]
     let n := s.notice.links[r.link]
     exec .linkReset s = .next
       { s with
         links := s.links.set r.link
           { k with
             commands := [], responses := [responseFrame r.tag .ok []], dropped := false
             delivery := none, escalated := false }
         notice := { s.notice with links := s.notice.links.set r.link { n with latch := 0, stack := [] } }
         executor := { s.executor with running := none } }) ∧
  (∀ (s : State) (r : Running) (blocks : List ResetBlock), Runs s r .serviceReset → r.resetTaken = [] →
     (s.access.canWrite r.link 1 = false →
       exec (.serviceReset blocks) s = .next (s.respond r .denied [])) ∧
     (s.access.canWrite r.link 1 = true → s.access.guarded 1 0 = true →
       exec (.serviceReset blocks) s = .next (s.respond r .guarded []))) ∧
  (∀ (s : State) (r : Running), Runs s r .serviceReset → r.resetTaken = [] → Permitted s r 1 0 →
     ∃ t, exec (.serviceReset allBlocks) s = .next t ∧
       t.timebase = { s.timebase with
         rate := clamp (-s.timebase.rateLimit) s.timebase.rateLimit s.timebase.trim } ∧
       (∀ u : InUnit,
         t.inputs[u] = { s.inputs[u] with
           tracker := if s.selector.entries[inSource u].state = .disabled then .idle else .seeking
           anchor := none, intervals := 0, held := .nothing, receiver := .idle, assembler := .waitBreak
           requestTimer := none, lastScale := 0, counters := ⟨0, 0, 0, 0, 0, 0, 0, 0, 0, 0⟩ }) ∧
       (∀ u : UpUnit,
         t.uplinks[u] = { s.uplinks[u] with
           sample := none, forward := none, outstanding := none, window := [], released := false
           judging := false, lastClass := none, lastScale := 0
           counters := ⟨0, 0, 0, 0, 0, 0, 0, 0, 0, 0, 0, 0, 0, 0, 0, 0⟩ }) ∧
       (∀ e : Ext,
         let n := s.selector.entries[e]
         t.selector.entries[e] =
           ⟨if n.state = .disabled then .disabled else .absent, n.priority, n.cls, n.cableDelay,
             n.deviceDelay, none, 0, 0, 0, 0, none, none, 0, 0, 0, 0⟩) ∧
       t.selector.selected = localSource ∧ t.selector.stack = [] ∧
       t.selector.settings = s.selector.settings ∧
       t.steering =
         ⟨.free, 0, 0, 0, [], 0, none, none, none, none, 0, s.steering.options, s.steering.mask,
           s.steering.settings, ⟨0, 0, 0, 0, 0, 0, 0, 0, 0⟩⟩ ∧
       t.cycleTimer = s.cycleTimer ∧ t.plans.relabel = none ∧ t.plans.pendingBank = none ∧
       t.plans.activeBank = s.plans.activeBank ∧
       (∀ nm, (t.plans.bank nm).planId = (s.plans.bank nm).planId ∧
         (t.plans.bank nm).maps = (s.plans.bank nm).maps) ∧
       (∀ p : Port,
         t.ports[p] = { s.ports[p] with
           state := .off, map := none, word := none, trimmed := false, openingSent := false
           departures := [], answers := [], overrun := false
           counters := ⟨0, 0, 0, 0, 0, 0, 0, 0, 0, 0, 0, 0, 0⟩ }) ∧
       t.pulses = s.pulses.map (fun o => { o with sent := 0, squelched := 0, overlapped := 0 }) ∧
       t.coded = s.coded.map (fun o => { o with sent := 0, skipped := 0 }) ∧
       t.links = (s.links.map fun k => { k with counters := ⟨0, 0, 0, 0, 0, 0⟩ }).set r.link
         { s.links[r.link] with
           counters := ⟨0, 0, 0, 0, 0, 0⟩
           responses := s.links[r.link].responses ++ [responseFrame r.tag .ok []] } ∧
       t.notice.links = s.notice.links.map (fun n =>
         { n with latch := 0, stack := [], faults := [], overflow := false }) ∧
       t.notice.completion = s.notice.completion ∧ t.notice.completeMet = s.notice.completeMet ∧
       t.notice.early = s.notice.early ∧
       t.executor = ⟨none, s.executor.lastServed, s.executor.resetCount + 1⟩ ∧ t.access = s.access) ∧
  ∀ (s : State) (r : Running) (blocks : List ResetBlock), Runs s r .serviceReset →
    (r.resetTaken = [] → Permitted s r 1 0) →
    let left := s.resetBlocks r.resetTaken blocks
    (∀ b, b ∈ left.2 ↔ b ∈ r.resetTaken ∨ b ∈ blocks) ∧
    ((∃ b, b ∉ r.resetTaken ∧ b ∉ blocks) →
      exec (.serviceReset blocks) s = .next
        { left.1 with
          executor := { left.1.executor with running := some { r with resetTaken := left.2 } } }) ∧
    ((∀ b, b ∈ r.resetTaken ∨ b ∈ blocks) →
      exec (.serviceReset blocks) s = .next
        (State.respond
          { left.1 with
            links := left.1.links.map fun k => { k with counters := ⟨0, 0, 0, 0, 0, 0⟩ }
            executor := { left.1.executor with resetCount := left.1.executor.resetCount + 1 } } r .ok []))

/-! ### Chapter 11 -/

/-- An event of a class latched on every link sets it in each link's latch (R185); TAKE NOTICE moves the
highest-priority deliverable class from the latch to the in-service stack, or answers NONE (R186, R187); END
SERVICE pops the top class, or answers REFUSED on an empty stack (R188). The attention line is asserted while
the response queue is not empty or a class is deliverable (R186). Writes of a link's mask and nest mode apply
at once; those of its cycle-notice mode, delay and admit mask store the setting alone, clamped to its range or
refused when undefined (R178, R186, R194; the numbers of the values: log entry 30). -/
def Obligations.NoticesLatchedTakenAndEnded : Prop :=
  (∀ (s : State) (c : NoticeClass) (old new : List NoticeClass), s.flight.latches = old ++ c :: new →
    c ∉ old →
    exec (.noticeLatch c) s = .next
      { s with
        flight := { s.flight with latches := old ++ new }
        notice := { s.notice with
          links := s.notice.links.map fun n =>
            { n with latch := n.latch ||| (1#6 <<< (classBit c).val) } } }) ∧
  (∀ (s : State) (r : Running), Runs s r .takeNotice →
    let n := s.notice.links[r.link]
    ((∀ c, ¬Deliverable n c) →
      exec .takeNotice s = .next
        (s.respond r .ok [0#8, byte n.latch.toNat, byte n.stack.length])) ∧
    ∀ c, Deliverable n c → (∀ d, Deliverable n d → (classBit c).val ≤ (classBit d).val) →
      let latch := n.latch &&& ~~~(1#6 <<< (classBit c).val)
      exec .takeNotice s = .next
        ((s.modNotice r.link fun v => { v with latch := latch, stack := c :: v.stack }).respond r .ok
          [byte ((classBit c).val + 1), byte latch.toNat, byte (n.stack.length + 1)])) ∧
  (∀ (s : State) (r : Running), Runs s r .endService →
    (s.notice.links[r.link].stack = [] → exec .endService s = .next (s.respond r .refused [])) ∧
    ∀ c rest, s.notice.links[r.link].stack = c :: rest →
      exec .endService s = .next
        ((s.modNotice r.link fun v => { v with stack := rest }).respond r .ok
          [byte ((classBit c).val + 1), byte rest.length])) ∧
  (∀ (s : State) (l : Link), s.attention l = true ↔
    s.links[l].responses ≠ [] ∨ ∃ c, Deliverable s.notice.links[l] c) ∧
  ∀ (s : State) (r : Running) (l : Link),
    let set (f : NoticeLink → NoticeLink) : State := s.modNotice l f
    EnumWrite .noticeMaskWrite s r 1 (32 + 16 * l.val) 64
      (fun b => set fun n => { n with mask := b.setWidth 6 }) ∧
    EnumWrite .nestModeWrite s r 1 (32 + 16 * l.val + 1) 2
      (fun b => set fun n => { n with nest := decide (b = 0#8) }) ∧
    EnumWrite .writeEntry s r 1 (32 + 16 * l.val + 2) 4 (fun b =>
      set fun n => { n with
        mode := if b = 0#8 then .delay else if b = 1#8 then .complete
          else if b = 2#8 then .either else .both }) ∧
    NumericWrite .writeEntry s r 1 (32 + 16 * l.val + 3) 1 0 39
      (fun m => set fun n => { n with delay := m.toNat }) ∧
    EnumWrite .writeEntry s r 1 (32 + 16 * l.val + 4) 16
      (fun b => set fun n => { n with admitMask := b.setWidth 4 })

/-- A cycle start begins a completion record, to which the early reports that name its cycle are applied in
the order they were taken, the others being dropped, clears each link's progress and meets a delay of 0; slot
d without the cut flag meets the delay condition. A report made at a cycle start fills the port's place, or is
held early when no record of its cycle number without a report of the port has begun; CLOSED is applied over
MARKS_DUE, held behind an early report of its port, and discarded otherwise. The complete condition is met
when the record becomes complete, unless a step has cut its cycle before, and stays met to the next cycle
start. Each of the three events latches CYCLE, once in a cycle, in the links whose mode is then met (R189,
R190). That the cut counts from CYCLE_CUT, and so also against a report or a cycle start that was made before
the cut and is taken after it, is the model's choice (log entry 47). -/
def Obligations.CycleNoticeOncePerCycle : Prop :=
  -- the record's cycle is cut: its next cycle start, on its way in `l`, is a resume start; or none is on its
  -- way and the cycle timer's cut flag is set
  let cut (s : State) (l : List CycleEvent) : Prop :=
    let slots (m : List CycleEvent) : Prop := ∀ e ∈ m, ∃ k n flag i, e = .slot k n flag i
    (∃ before n i after, l = before ++ .start n true i :: after ∧ slots before) ∨
      (slots l ∧ s.cycleTimer.cut = true)
  let complete (c : CompletionRecord) : Prop :=
    ∀ p : Port, c.reports[p] ≠ none ∧ c.reports[p] ≠ some .marksDue
  let met (n : NoticeLink) (whole : Prop) : Prop :=
    match n.modeNow with
    | .delay => n.delayMet = true
    | .complete => whole
    | .either => n.delayMet = true ∨ whole
    | .both => n.delayMet = true ∧ whole
  let judged (n m : NoticeLink) (whole : Prop) : Prop :=
    (n.done = false → met n whole →
      m = { n with done := true, latch := n.latch ||| (1#6 <<< 5) }) ∧
    (n.done = true ∨ ¬met n whole → m = n)
  let applied (c : CompletionRecord) (p : Port) (k : Report) : CompletionRecord :=
    if k = .closed ∧ c.reports[p] ≠ some .marksDue then c
    else { c with reports := c.reports.set p (some k) }
  (∀ (s : State) (cycle : Nat) (resume : Bool) (instant : Stamp) (rest : List CycleEvent),
    s.flight.cyclesToNotice = .start cycle resume instant :: rest →
    ∃ t c, exec .noticeCycleStart s = .next t ∧ t.notice.completion = some c ∧ c.cycle = cycle ∧
      t.notice.early = [] ∧
      t = { s with notice := t.notice, flight := { s.flight with cyclesToNotice := rest } } ∧
      c = (s.notice.early.filter fun x => decide (x.2.cycle = cycle)).foldl
        (fun v x => applied v x.1 x.2.report) ⟨cycle, #v[none, none, none, none, none, none]⟩ ∧
      (t.notice.completeMet = true ↔ complete c ∧ ¬cut s rest) ∧
      ∀ l : Link,
        let n := s.notice.links[l]
        judged
          { n with
            done := false, delayMet := decide (n.delay = 0), modeNow := n.mode, delayNow := n.delay }
          t.notice.links[l] (t.notice.completeMet = true)) ∧
  (∀ (s : State) (k cycle : Nat) (flag : Bool) (instant : Stamp) (rest : List CycleEvent)
      (c : CompletionRecord),
    s.flight.cyclesToNotice = .slot k cycle flag instant :: rest → s.notice.completion = some c →
    ∃ t, exec .noticeSlotStart s = .next t ∧
      t = { s with
        notice := { s.notice with links := t.notice.links, completeMet := t.notice.completeMet }
        flight := { s.flight with cyclesToNotice := rest } } ∧
      (t.notice.completeMet = true ↔ s.notice.completeMet = true ∨ complete c ∧ ¬cut s rest) ∧
      ∀ l : Link,
        let n := s.notice.links[l]
        judged
          { n with delayMet := n.delayMet || (decide (flag = false) && decide (n.delayNow = k)) }
          t.notice.links[l] (t.notice.completeMet = true)) ∧
  ∀ (s : State) (p : Port) (r : PortReport) (rest : List PortReport), s.flight.reports[p] = r :: rest →
    let early := s.notice.early ++ [(p, r)]
    let waiting := ∃ x ∈ s.notice.early, x.1 = p
    let begun (c : CompletionRecord) : Prop := c.cycle = r.cycle ∧ c.reports[p] = none
    ∃ t, exec (.portCompletionReport p) s = .next t ∧
      t = { s with notice := t.notice, flight := { s.flight with reports := s.flight.reports.set p rest } } ∧
      -- which reports are held early
      (r.report = .closed → t.notice.early = if waiting then early else s.notice.early) ∧
      (r.report ≠ .closed → s.notice.completion = none → t.notice.early = early) ∧
      (∀ c, r.report ≠ .closed → s.notice.completion = some c →
        t.notice.early = if begun c then s.notice.early else early) ∧
      -- which reports change the record
      (s.notice.completion = none → t.notice.completion = none ∧ t.notice.links = s.notice.links ∧
        t.notice.completeMet = s.notice.completeMet) ∧
      ∀ c, s.notice.completion = some c →
        ∃ c', t.notice.completion = some c' ∧
          (r.report = .closed → c' = if waiting ∨ c.cycle ≠ r.cycle then c else applied c p .closed) ∧
          (r.report ≠ .closed → c' = if begun c then applied c p r.report else c) ∧
          (t.notice.completeMet = true ↔
            s.notice.completeMet = true ∨ complete c' ∧ ¬cut s s.flight.cyclesToNotice) ∧
          ∀ l : Link, judged s.notice.links[l] t.notice.links[l] (t.notice.completeMet = true)

/-- A fault is offered to each link whose mask admits its group: appended and latched, or at a full queue
discarded with the overflow flag set and FAULT_LOGGED latched, or discarded while the flag is set (R191); PEEK
and POP read the oldest entry, or NONE, and POP removes it (R192); CLEAR FAULT OVERFLOW clears the flag and
answers what it was (R193). That the flag's byte is 0 clear and 1 set is log entry 30. -/
def Obligations.FaultQueuesTakeAndGive : Prop :=
  (∀ (s : State) (b : FaultOrigin) (f : FaultEntry) (old new : List (FaultOrigin × FaultEntry)),
    s.flight.faults = old ++ (b, f) :: new → (∀ x ∈ old, x.1 ≠ b) →
    let group := if f.code < 16 then 0 else if f.code < 32 then 1 else if f.code < 48 then 2 else 3
    ∃ t, exec (.faultOffered b) s = .next t ∧
      t = { s with
        flight := { s.flight with faults := old ++ new }
        notice := { s.notice with links := t.notice.links } } ∧
      ∀ l : Link,
        let n := s.notice.links[l]
        let latched := n.latch ||| (1#6 <<< 3)
        t.notice.links[l] =
          if n.admitMask.getLsbD group = false ∨ n.overflow = true then n
          else if n.faults.length < 16 then { n with faults := n.faults ++ [f], latch := latched }
          else { n with overflow := true, latch := latched }) ∧
  ∀ (s : State) (r : Running),
    let n := s.notice.links[r.link]
    let flag : Byte := if n.overflow = true then 1#8 else 0#8
    let entry : List Byte :=
      match n.faults with
      | [] => [0#8, 0#8, 0#8, 0#8, 0#8, 0#8]
      | f :: _ => [byte f.code, byte f.subject] ++ beBytes 4 f.detail
    (Runs s r .peekFault →
      exec .peekFault s = .next (s.respond r .ok (entry ++ [byte n.faults.length, flag]))) ∧
    (Runs s r .popFault →
      exec .popFault s = .next
        ((s.modNotice r.link fun v => { v with faults := n.faults.drop 1 }).respond r .ok
          (entry ++ [byte (n.faults.length - 1), flag]))) ∧
    (Runs s r .clearFaultOverflow →
      exec .clearFaultOverflow s = .next
        ((s.modNotice r.link fun v => { v with overflow := false }).respond r .ok
          [flag, byte n.faults.length]))
end

