-- ==== Sys2Proof/Laws/Bytes.lean ====
section
/-! SUPPORT. What the byte fields of chapter 9 answer: lengths, and reading back what was written
(R163, R167). -/

namespace Sys2Proof.Machine

@[simp] theorem length_beBytes (n v : Nat) : (beBytes n v).length = n := by
  induction n with
  | zero => rfl
  | succ n ih => simp [beBytes, ih]

@[simp] theorem length_beInt (n : Nat) (v : Int) : (beInt n v).length = n :=
  length_beBytes _ _

/-- The low `n` bytes of a number do not depend on what lies above them. -/
theorem beBytes_mod {n m : Nat} (h : n ≤ m) (v : Nat) : beBytes n (v % 256 ^ m) = beBytes n v := by
  induction n with
  | zero => rfl
  | succ n ih =>
    unfold beBytes
    rw [ih (by omega)]
    congr 1
    obtain ⟨k, rfl⟩ : ∃ k, m = n + (k + 1) := ⟨m - n - 1, by omega⟩
    apply BitVec.eq_of_toNat_eq
    rw [pow_add, Nat.mod_mul_right_div_self, pow_succ, Nat.mul_comm (256 ^ k) 256]
    exact Nat.mod_mul_right_mod _ _ _

/-- A field that is not negative has the bytes of the number. -/
theorem beInt_natCast (n v : Nat) : beInt n (v : Int) = beBytes n v := by
  unfold beInt
  rw [← Int.natCast_mod, Int.toNat_natCast, beBytes_mod (le_refl n)]

theorem ofBytes_append (xs ys : List Byte) :
    ofBytes (xs ++ ys) = ofBytes xs * 256 ^ ys.length + ofBytes ys := by
  have h : ∀ (ys : List Byte) (k : Nat),
      ys.foldl (fun acc b => acc * 256 + b.toNat) k =
        k * 256 ^ ys.length + ys.foldl (fun acc b => acc * 256 + b.toNat) 0 := by
    intro ys
    induction ys with
    | nil => intro k; simp
    | cons b bs ih =>
      intro k
      simp only [List.foldl_cons, List.length_cons]
      rw [ih (k * 256 + b.toNat), ih (0 * 256 + b.toNat)]
      ring
  unfold ofBytes
  rw [List.foldl_append, h]

theorem ofBytes_cons (b : Byte) (bs : List Byte) :
    ofBytes (b :: bs) = b.toNat * 256 ^ bs.length + ofBytes bs := by
  have := ofBytes_append [b] bs
  simpa [ofBytes] using this

theorem ofBytes_lt (bs : List Byte) : ofBytes bs < 256 ^ bs.length := by
  induction bs with
  | nil => simp [ofBytes]
  | cons b bs ih =>
    rw [ofBytes_cons, List.length_cons, pow_succ]
    have := b.isLt
    nlinarith

/-- The low `n` bytes of a number are read back as the number modulo 256 ^ n. -/
@[simp] theorem ofBytes_beBytes (n v : Nat) : ofBytes (beBytes n v) = v % 256 ^ n := by
  induction n with
  | zero => simp [beBytes, ofBytes, Nat.mod_one]
  | succ n ih =>
    rw [beBytes, ofBytes_cons, ih, length_beBytes, pow_succ, Nat.mod_mul]
    simp [byte]
    ring

/-- A signed field is read back whenever it fits. -/
theorem intOfBytes_beInt {n : Nat} {v : Int} (h : -(256 ^ n : Nat) ≤ 2 * v)
    (h' : 2 * v < (256 ^ n : Nat)) : intOfBytes (beInt n v) = v := by
  have hp : 0 < (256 ^ n : Nat) := by positivity
  have e : ofBytes (beInt n v) = (v % ((256 ^ n : Nat) : Int)).toNat := by
    rw [beInt, ofBytes_beBytes, Nat.mod_eq_of_lt]
    have := Int.emod_lt_of_pos v (show (0 : Int) < (256 ^ n : Nat) by omega)
    have := Int.emod_nonneg v (show ((256 ^ n : Nat) : Int) ≠ 0 by omega)
    omega
  unfold intOfBytes
  simp only [e, length_beInt]
  generalize (256 ^ n : Nat) = m at *
  rcases Int.lt_or_le v 0 with hv | hv
  · have : v % (m : Int) = v + m := by
      rw [← Int.add_emod_right, Int.emod_eq_of_lt] <;> omega
    split_ifs <;> omega
  · have : v % (m : Int) = v := Int.emod_eq_of_lt hv (by omega)
    split_ifs <;> omega

@[simp] theorem length_encField (lo hi v : Int) : (encField lo hi v).length = fieldWidth lo hi :=
  length_beInt _ _

/-- A number that is not negative is carried unsigned. -/
theorem encField_natCast (lo hi : Int) (n : Nat) :
    encField lo hi (n : Int) = beBytes (fieldWidth lo hi) n :=
  beInt_natCast _ _

theorem one_eq_beBytes (n : Nat) : one n = beBytes 1 n := by
  simp [one, beBytes]

/-- A field is taken only at its own byte count (R168). -/
theorem length_of_decField {lo hi v : Int} {bs : List Byte} (h : decField lo hi bs = some v) :
    bs.length = fieldWidth lo hi := by
  by_contra hl
  simp [decField, hl] at h

@[simp] theorem length_encStamp (a : Stamp) : (encStamp a).length = 11 := by
  simp [encStamp]

theorem slice_append_left {xs ys : List Byte} {off n : Nat} (h : off + n ≤ xs.length) :
    slice (xs ++ ys) off n = slice xs off n := by
  unfold slice
  rw [List.drop_append_of_le_length (by omega), List.take_append_of_le_length (by simp; omega)]

theorem slice_append_right (xs ys : List Byte) (off n : Nat) :
    slice (xs ++ ys) (xs.length + off) n = slice ys off n := by
  unfold slice
  rw [List.drop_append, List.drop_eq_nil_of_le (by omega)]
  simp

theorem byteSum_append (xs ys : List Byte) : byteSum (xs ++ ys) = byteSum xs + byteSum ys := by
  have h : ∀ (ys : List Byte) (k : Byte), ys.foldl (· + ·) k = k + ys.foldl (· + ·) 0#8 := by
    intro ys
    induction ys with
    | nil => intro k; simp
    | cons b bs ih =>
      intro k
      simp only [List.foldl_cons]
      rw [ih (k + b), ih (0#8 + b)]
      simp [BitVec.add_assoc]
  unfold byteSum
  rw [List.foldl_append, h]

@[simp] theorem length_encMark (m : MarkFields) : (encMark m).length = 22 := by
  simp [encMark, encWord]

@[simp] theorem length_encTrailer (t : Trailer) : (encTrailer t).length = 9 := by
  simp [encTrailer]

@[simp] theorem length_todSentence (t : TimeOfDay) : (todSentence t).length = 12 := by
  simp [todSentence]

end Sys2Proof.Machine
end

