-- ==== Sys2Proof/Laws/State.lean ====
section
/-! SUPPORT. What each update of the state leaves in each field: one lemma per field per update. -/

namespace Sys2Proof.Machine

variable (s : State)

/-! ### modInput: an input unit -/

@[simp] theorem State.modInput_timebase (u : InUnit) (f : InputUnit → InputUnit) :
    (s.modInput u f).timebase = s.timebase := rfl
@[simp] theorem State.modInput_inputs (u : InUnit) (f : InputUnit → InputUnit) :
    (s.modInput u f).inputs = s.inputs.set u (f s.inputs[u]) := rfl
@[simp] theorem State.modInput_uplinks (u : InUnit) (f : InputUnit → InputUnit) :
    (s.modInput u f).uplinks = s.uplinks := rfl
@[simp] theorem State.modInput_selector (u : InUnit) (f : InputUnit → InputUnit) :
    (s.modInput u f).selector = s.selector := rfl
@[simp] theorem State.modInput_steering (u : InUnit) (f : InputUnit → InputUnit) :
    (s.modInput u f).steering = s.steering := rfl
@[simp] theorem State.modInput_cycleTimer (u : InUnit) (f : InputUnit → InputUnit) :
    (s.modInput u f).cycleTimer = s.cycleTimer := rfl
@[simp] theorem State.modInput_plans (u : InUnit) (f : InputUnit → InputUnit) :
    (s.modInput u f).plans = s.plans := rfl
@[simp] theorem State.modInput_ports (u : InUnit) (f : InputUnit → InputUnit) :
    (s.modInput u f).ports = s.ports := rfl
@[simp] theorem State.modInput_pulses (u : InUnit) (f : InputUnit → InputUnit) :
    (s.modInput u f).pulses = s.pulses := rfl
@[simp] theorem State.modInput_coded (u : InUnit) (f : InputUnit → InputUnit) :
    (s.modInput u f).coded = s.coded := rfl
@[simp] theorem State.modInput_links (u : InUnit) (f : InputUnit → InputUnit) :
    (s.modInput u f).links = s.links := rfl
@[simp] theorem State.modInput_executor (u : InUnit) (f : InputUnit → InputUnit) :
    (s.modInput u f).executor = s.executor := rfl
@[simp] theorem State.modInput_access (u : InUnit) (f : InputUnit → InputUnit) :
    (s.modInput u f).access = s.access := rfl
@[simp] theorem State.modInput_notice (u : InUnit) (f : InputUnit → InputUnit) :
    (s.modInput u f).notice = s.notice := rfl
@[simp] theorem State.modInput_flight (u : InUnit) (f : InputUnit → InputUnit) :
    (s.modInput u f).flight = s.flight := rfl
@[simp] theorem State.modInput_pending (u : InUnit) (f : InputUnit → InputUnit) :
    (s.modInput u f).pending = s.pending := rfl

/-! ### modUplink: an uplink unit -/

@[simp] theorem State.modUplink_timebase (u : UpUnit) (f : UplinkUnit → UplinkUnit) :
    (s.modUplink u f).timebase = s.timebase := rfl
@[simp] theorem State.modUplink_inputs (u : UpUnit) (f : UplinkUnit → UplinkUnit) :
    (s.modUplink u f).inputs = s.inputs := rfl
@[simp] theorem State.modUplink_uplinks (u : UpUnit) (f : UplinkUnit → UplinkUnit) :
    (s.modUplink u f).uplinks = s.uplinks.set u (f s.uplinks[u]) := rfl
@[simp] theorem State.modUplink_selector (u : UpUnit) (f : UplinkUnit → UplinkUnit) :
    (s.modUplink u f).selector = s.selector := rfl
@[simp] theorem State.modUplink_steering (u : UpUnit) (f : UplinkUnit → UplinkUnit) :
    (s.modUplink u f).steering = s.steering := rfl
@[simp] theorem State.modUplink_cycleTimer (u : UpUnit) (f : UplinkUnit → UplinkUnit) :
    (s.modUplink u f).cycleTimer = s.cycleTimer := rfl
@[simp] theorem State.modUplink_plans (u : UpUnit) (f : UplinkUnit → UplinkUnit) :
    (s.modUplink u f).plans = s.plans := rfl
@[simp] theorem State.modUplink_ports (u : UpUnit) (f : UplinkUnit → UplinkUnit) :
    (s.modUplink u f).ports = s.ports := rfl
@[simp] theorem State.modUplink_pulses (u : UpUnit) (f : UplinkUnit → UplinkUnit) :
    (s.modUplink u f).pulses = s.pulses := rfl
@[simp] theorem State.modUplink_coded (u : UpUnit) (f : UplinkUnit → UplinkUnit) :
    (s.modUplink u f).coded = s.coded := rfl
@[simp] theorem State.modUplink_links (u : UpUnit) (f : UplinkUnit → UplinkUnit) :
    (s.modUplink u f).links = s.links := rfl
@[simp] theorem State.modUplink_executor (u : UpUnit) (f : UplinkUnit → UplinkUnit) :
    (s.modUplink u f).executor = s.executor := rfl
@[simp] theorem State.modUplink_access (u : UpUnit) (f : UplinkUnit → UplinkUnit) :
    (s.modUplink u f).access = s.access := rfl
@[simp] theorem State.modUplink_notice (u : UpUnit) (f : UplinkUnit → UplinkUnit) :
    (s.modUplink u f).notice = s.notice := rfl
@[simp] theorem State.modUplink_flight (u : UpUnit) (f : UplinkUnit → UplinkUnit) :
    (s.modUplink u f).flight = s.flight := rfl
@[simp] theorem State.modUplink_pending (u : UpUnit) (f : UplinkUnit → UplinkUnit) :
    (s.modUplink u f).pending = s.pending := rfl

/-! ### modEntry: a source entry -/

@[simp] theorem State.modEntry_timebase (e : Ext) (f : SourceEntry → SourceEntry) :
    (s.modEntry e f).timebase = s.timebase := rfl
@[simp] theorem State.modEntry_inputs (e : Ext) (f : SourceEntry → SourceEntry) :
    (s.modEntry e f).inputs = s.inputs := rfl
@[simp] theorem State.modEntry_uplinks (e : Ext) (f : SourceEntry → SourceEntry) :
    (s.modEntry e f).uplinks = s.uplinks := rfl
@[simp] theorem State.modEntry_selector (e : Ext) (f : SourceEntry → SourceEntry) :
    (s.modEntry e f).selector = { s.selector with
      entries := s.selector.entries.set e (f s.selector.entries[e]) } := rfl
@[simp] theorem State.modEntry_steering (e : Ext) (f : SourceEntry → SourceEntry) :
    (s.modEntry e f).steering = s.steering := rfl
@[simp] theorem State.modEntry_cycleTimer (e : Ext) (f : SourceEntry → SourceEntry) :
    (s.modEntry e f).cycleTimer = s.cycleTimer := rfl
@[simp] theorem State.modEntry_plans (e : Ext) (f : SourceEntry → SourceEntry) :
    (s.modEntry e f).plans = s.plans := rfl
@[simp] theorem State.modEntry_ports (e : Ext) (f : SourceEntry → SourceEntry) :
    (s.modEntry e f).ports = s.ports := rfl
@[simp] theorem State.modEntry_pulses (e : Ext) (f : SourceEntry → SourceEntry) :
    (s.modEntry e f).pulses = s.pulses := rfl
@[simp] theorem State.modEntry_coded (e : Ext) (f : SourceEntry → SourceEntry) :
    (s.modEntry e f).coded = s.coded := rfl
@[simp] theorem State.modEntry_links (e : Ext) (f : SourceEntry → SourceEntry) :
    (s.modEntry e f).links = s.links := rfl
@[simp] theorem State.modEntry_executor (e : Ext) (f : SourceEntry → SourceEntry) :
    (s.modEntry e f).executor = s.executor := rfl
@[simp] theorem State.modEntry_access (e : Ext) (f : SourceEntry → SourceEntry) :
    (s.modEntry e f).access = s.access := rfl
@[simp] theorem State.modEntry_notice (e : Ext) (f : SourceEntry → SourceEntry) :
    (s.modEntry e f).notice = s.notice := rfl
@[simp] theorem State.modEntry_flight (e : Ext) (f : SourceEntry → SourceEntry) :
    (s.modEntry e f).flight = s.flight := rfl
@[simp] theorem State.modEntry_pending (e : Ext) (f : SourceEntry → SourceEntry) :
    (s.modEntry e f).pending = s.pending := rfl

/-! ### modSelector: the selector -/

@[simp] theorem State.modSelector_timebase (f : Selector → Selector) :
    (s.modSelector f).timebase = s.timebase := rfl
@[simp] theorem State.modSelector_inputs (f : Selector → Selector) :
    (s.modSelector f).inputs = s.inputs := rfl
@[simp] theorem State.modSelector_uplinks (f : Selector → Selector) :
    (s.modSelector f).uplinks = s.uplinks := rfl
@[simp] theorem State.modSelector_selector (f : Selector → Selector) :
    (s.modSelector f).selector = f s.selector := rfl
@[simp] theorem State.modSelector_steering (f : Selector → Selector) :
    (s.modSelector f).steering = s.steering := rfl
@[simp] theorem State.modSelector_cycleTimer (f : Selector → Selector) :
    (s.modSelector f).cycleTimer = s.cycleTimer := rfl
@[simp] theorem State.modSelector_plans (f : Selector → Selector) :
    (s.modSelector f).plans = s.plans := rfl
@[simp] theorem State.modSelector_ports (f : Selector → Selector) :
    (s.modSelector f).ports = s.ports := rfl
@[simp] theorem State.modSelector_pulses (f : Selector → Selector) :
    (s.modSelector f).pulses = s.pulses := rfl
@[simp] theorem State.modSelector_coded (f : Selector → Selector) :
    (s.modSelector f).coded = s.coded := rfl
@[simp] theorem State.modSelector_links (f : Selector → Selector) :
    (s.modSelector f).links = s.links := rfl
@[simp] theorem State.modSelector_executor (f : Selector → Selector) :
    (s.modSelector f).executor = s.executor := rfl
@[simp] theorem State.modSelector_access (f : Selector → Selector) :
    (s.modSelector f).access = s.access := rfl
@[simp] theorem State.modSelector_notice (f : Selector → Selector) :
    (s.modSelector f).notice = s.notice := rfl
@[simp] theorem State.modSelector_flight (f : Selector → Selector) :
    (s.modSelector f).flight = s.flight := rfl
@[simp] theorem State.modSelector_pending (f : Selector → Selector) :
    (s.modSelector f).pending = s.pending := rfl

/-! ### modSteering: the steering unit -/

@[simp] theorem State.modSteering_timebase (f : Steering → Steering) :
    (s.modSteering f).timebase = s.timebase := rfl
@[simp] theorem State.modSteering_inputs (f : Steering → Steering) :
    (s.modSteering f).inputs = s.inputs := rfl
@[simp] theorem State.modSteering_uplinks (f : Steering → Steering) :
    (s.modSteering f).uplinks = s.uplinks := rfl
@[simp] theorem State.modSteering_selector (f : Steering → Steering) :
    (s.modSteering f).selector = s.selector := rfl
@[simp] theorem State.modSteering_steering (f : Steering → Steering) :
    (s.modSteering f).steering = f s.steering := rfl
@[simp] theorem State.modSteering_cycleTimer (f : Steering → Steering) :
    (s.modSteering f).cycleTimer = s.cycleTimer := rfl
@[simp] theorem State.modSteering_plans (f : Steering → Steering) :
    (s.modSteering f).plans = s.plans := rfl
@[simp] theorem State.modSteering_ports (f : Steering → Steering) :
    (s.modSteering f).ports = s.ports := rfl
@[simp] theorem State.modSteering_pulses (f : Steering → Steering) :
    (s.modSteering f).pulses = s.pulses := rfl
@[simp] theorem State.modSteering_coded (f : Steering → Steering) :
    (s.modSteering f).coded = s.coded := rfl
@[simp] theorem State.modSteering_links (f : Steering → Steering) :
    (s.modSteering f).links = s.links := rfl
@[simp] theorem State.modSteering_executor (f : Steering → Steering) :
    (s.modSteering f).executor = s.executor := rfl
@[simp] theorem State.modSteering_access (f : Steering → Steering) :
    (s.modSteering f).access = s.access := rfl
@[simp] theorem State.modSteering_notice (f : Steering → Steering) :
    (s.modSteering f).notice = s.notice := rfl
@[simp] theorem State.modSteering_flight (f : Steering → Steering) :
    (s.modSteering f).flight = s.flight := rfl
@[simp] theorem State.modSteering_pending (f : Steering → Steering) :
    (s.modSteering f).pending = s.pending := rfl

/-! ### modPort: a port -/

@[simp] theorem State.modPort_timebase (p : Port) (f : PortUnit → PortUnit) :
    (s.modPort p f).timebase = s.timebase := rfl
@[simp] theorem State.modPort_inputs (p : Port) (f : PortUnit → PortUnit) :
    (s.modPort p f).inputs = s.inputs := rfl
@[simp] theorem State.modPort_uplinks (p : Port) (f : PortUnit → PortUnit) :
    (s.modPort p f).uplinks = s.uplinks := rfl
@[simp] theorem State.modPort_selector (p : Port) (f : PortUnit → PortUnit) :
    (s.modPort p f).selector = s.selector := rfl
@[simp] theorem State.modPort_steering (p : Port) (f : PortUnit → PortUnit) :
    (s.modPort p f).steering = s.steering := rfl
@[simp] theorem State.modPort_cycleTimer (p : Port) (f : PortUnit → PortUnit) :
    (s.modPort p f).cycleTimer = s.cycleTimer := rfl
@[simp] theorem State.modPort_plans (p : Port) (f : PortUnit → PortUnit) :
    (s.modPort p f).plans = s.plans := rfl
@[simp] theorem State.modPort_ports (p : Port) (f : PortUnit → PortUnit) :
    (s.modPort p f).ports = s.ports.set p (f s.ports[p]) := rfl
@[simp] theorem State.modPort_pulses (p : Port) (f : PortUnit → PortUnit) :
    (s.modPort p f).pulses = s.pulses := rfl
@[simp] theorem State.modPort_coded (p : Port) (f : PortUnit → PortUnit) :
    (s.modPort p f).coded = s.coded := rfl
@[simp] theorem State.modPort_links (p : Port) (f : PortUnit → PortUnit) :
    (s.modPort p f).links = s.links := rfl
@[simp] theorem State.modPort_executor (p : Port) (f : PortUnit → PortUnit) :
    (s.modPort p f).executor = s.executor := rfl
@[simp] theorem State.modPort_access (p : Port) (f : PortUnit → PortUnit) :
    (s.modPort p f).access = s.access := rfl
@[simp] theorem State.modPort_notice (p : Port) (f : PortUnit → PortUnit) :
    (s.modPort p f).notice = s.notice := rfl
@[simp] theorem State.modPort_flight (p : Port) (f : PortUnit → PortUnit) :
    (s.modPort p f).flight = s.flight := rfl
@[simp] theorem State.modPort_pending (p : Port) (f : PortUnit → PortUnit) :
    (s.modPort p f).pending = s.pending := rfl

/-! ### modPulse: a pulse output -/

@[simp] theorem State.modPulse_timebase (k : PulseOut) (f : PulseUnit → PulseUnit) :
    (s.modPulse k f).timebase = s.timebase := rfl
@[simp] theorem State.modPulse_inputs (k : PulseOut) (f : PulseUnit → PulseUnit) :
    (s.modPulse k f).inputs = s.inputs := rfl
@[simp] theorem State.modPulse_uplinks (k : PulseOut) (f : PulseUnit → PulseUnit) :
    (s.modPulse k f).uplinks = s.uplinks := rfl
@[simp] theorem State.modPulse_selector (k : PulseOut) (f : PulseUnit → PulseUnit) :
    (s.modPulse k f).selector = s.selector := rfl
@[simp] theorem State.modPulse_steering (k : PulseOut) (f : PulseUnit → PulseUnit) :
    (s.modPulse k f).steering = s.steering := rfl
@[simp] theorem State.modPulse_cycleTimer (k : PulseOut) (f : PulseUnit → PulseUnit) :
    (s.modPulse k f).cycleTimer = s.cycleTimer := rfl
@[simp] theorem State.modPulse_plans (k : PulseOut) (f : PulseUnit → PulseUnit) :
    (s.modPulse k f).plans = s.plans := rfl
@[simp] theorem State.modPulse_ports (k : PulseOut) (f : PulseUnit → PulseUnit) :
    (s.modPulse k f).ports = s.ports := rfl
@[simp] theorem State.modPulse_pulses (k : PulseOut) (f : PulseUnit → PulseUnit) :
    (s.modPulse k f).pulses = s.pulses.set k (f s.pulses[k]) := rfl
@[simp] theorem State.modPulse_coded (k : PulseOut) (f : PulseUnit → PulseUnit) :
    (s.modPulse k f).coded = s.coded := rfl
@[simp] theorem State.modPulse_links (k : PulseOut) (f : PulseUnit → PulseUnit) :
    (s.modPulse k f).links = s.links := rfl
@[simp] theorem State.modPulse_executor (k : PulseOut) (f : PulseUnit → PulseUnit) :
    (s.modPulse k f).executor = s.executor := rfl
@[simp] theorem State.modPulse_access (k : PulseOut) (f : PulseUnit → PulseUnit) :
    (s.modPulse k f).access = s.access := rfl
@[simp] theorem State.modPulse_notice (k : PulseOut) (f : PulseUnit → PulseUnit) :
    (s.modPulse k f).notice = s.notice := rfl
@[simp] theorem State.modPulse_flight (k : PulseOut) (f : PulseUnit → PulseUnit) :
    (s.modPulse k f).flight = s.flight := rfl
@[simp] theorem State.modPulse_pending (k : PulseOut) (f : PulseUnit → PulseUnit) :
    (s.modPulse k f).pending = s.pending := rfl

/-! ### modCoded: a coded-time output -/

@[simp] theorem State.modCoded_timebase (m : CodedOut) (f : CodedUnit → CodedUnit) :
    (s.modCoded m f).timebase = s.timebase := rfl
@[simp] theorem State.modCoded_inputs (m : CodedOut) (f : CodedUnit → CodedUnit) :
    (s.modCoded m f).inputs = s.inputs := rfl
@[simp] theorem State.modCoded_uplinks (m : CodedOut) (f : CodedUnit → CodedUnit) :
    (s.modCoded m f).uplinks = s.uplinks := rfl
@[simp] theorem State.modCoded_selector (m : CodedOut) (f : CodedUnit → CodedUnit) :
    (s.modCoded m f).selector = s.selector := rfl
@[simp] theorem State.modCoded_steering (m : CodedOut) (f : CodedUnit → CodedUnit) :
    (s.modCoded m f).steering = s.steering := rfl
@[simp] theorem State.modCoded_cycleTimer (m : CodedOut) (f : CodedUnit → CodedUnit) :
    (s.modCoded m f).cycleTimer = s.cycleTimer := rfl
@[simp] theorem State.modCoded_plans (m : CodedOut) (f : CodedUnit → CodedUnit) :
    (s.modCoded m f).plans = s.plans := rfl
@[simp] theorem State.modCoded_ports (m : CodedOut) (f : CodedUnit → CodedUnit) :
    (s.modCoded m f).ports = s.ports := rfl
@[simp] theorem State.modCoded_pulses (m : CodedOut) (f : CodedUnit → CodedUnit) :
    (s.modCoded m f).pulses = s.pulses := rfl
@[simp] theorem State.modCoded_coded (m : CodedOut) (f : CodedUnit → CodedUnit) :
    (s.modCoded m f).coded = s.coded.set m (f s.coded[m]) := rfl
@[simp] theorem State.modCoded_links (m : CodedOut) (f : CodedUnit → CodedUnit) :
    (s.modCoded m f).links = s.links := rfl
@[simp] theorem State.modCoded_executor (m : CodedOut) (f : CodedUnit → CodedUnit) :
    (s.modCoded m f).executor = s.executor := rfl
@[simp] theorem State.modCoded_access (m : CodedOut) (f : CodedUnit → CodedUnit) :
    (s.modCoded m f).access = s.access := rfl
@[simp] theorem State.modCoded_notice (m : CodedOut) (f : CodedUnit → CodedUnit) :
    (s.modCoded m f).notice = s.notice := rfl
@[simp] theorem State.modCoded_flight (m : CodedOut) (f : CodedUnit → CodedUnit) :
    (s.modCoded m f).flight = s.flight := rfl
@[simp] theorem State.modCoded_pending (m : CodedOut) (f : CodedUnit → CodedUnit) :
    (s.modCoded m f).pending = s.pending := rfl

/-! ### modLink: a link -/

@[simp] theorem State.modLink_timebase (l : Link) (f : LinkUnit → LinkUnit) :
    (s.modLink l f).timebase = s.timebase := rfl
@[simp] theorem State.modLink_inputs (l : Link) (f : LinkUnit → LinkUnit) :
    (s.modLink l f).inputs = s.inputs := rfl
@[simp] theorem State.modLink_uplinks (l : Link) (f : LinkUnit → LinkUnit) :
    (s.modLink l f).uplinks = s.uplinks := rfl
@[simp] theorem State.modLink_selector (l : Link) (f : LinkUnit → LinkUnit) :
    (s.modLink l f).selector = s.selector := rfl
@[simp] theorem State.modLink_steering (l : Link) (f : LinkUnit → LinkUnit) :
    (s.modLink l f).steering = s.steering := rfl
@[simp] theorem State.modLink_cycleTimer (l : Link) (f : LinkUnit → LinkUnit) :
    (s.modLink l f).cycleTimer = s.cycleTimer := rfl
@[simp] theorem State.modLink_plans (l : Link) (f : LinkUnit → LinkUnit) :
    (s.modLink l f).plans = s.plans := rfl
@[simp] theorem State.modLink_ports (l : Link) (f : LinkUnit → LinkUnit) :
    (s.modLink l f).ports = s.ports := rfl
@[simp] theorem State.modLink_pulses (l : Link) (f : LinkUnit → LinkUnit) :
    (s.modLink l f).pulses = s.pulses := rfl
@[simp] theorem State.modLink_coded (l : Link) (f : LinkUnit → LinkUnit) :
    (s.modLink l f).coded = s.coded := rfl
@[simp] theorem State.modLink_links (l : Link) (f : LinkUnit → LinkUnit) :
    (s.modLink l f).links = s.links.set l (f s.links[l]) := rfl
@[simp] theorem State.modLink_executor (l : Link) (f : LinkUnit → LinkUnit) :
    (s.modLink l f).executor = s.executor := rfl
@[simp] theorem State.modLink_access (l : Link) (f : LinkUnit → LinkUnit) :
    (s.modLink l f).access = s.access := rfl
@[simp] theorem State.modLink_notice (l : Link) (f : LinkUnit → LinkUnit) :
    (s.modLink l f).notice = s.notice := rfl
@[simp] theorem State.modLink_flight (l : Link) (f : LinkUnit → LinkUnit) :
    (s.modLink l f).flight = s.flight := rfl
@[simp] theorem State.modLink_pending (l : Link) (f : LinkUnit → LinkUnit) :
    (s.modLink l f).pending = s.pending := rfl

/-! ### modNotice: a link's notice state -/

@[simp] theorem State.modNotice_timebase (l : Link) (f : NoticeLink → NoticeLink) :
    (s.modNotice l f).timebase = s.timebase := rfl
@[simp] theorem State.modNotice_inputs (l : Link) (f : NoticeLink → NoticeLink) :
    (s.modNotice l f).inputs = s.inputs := rfl
@[simp] theorem State.modNotice_uplinks (l : Link) (f : NoticeLink → NoticeLink) :
    (s.modNotice l f).uplinks = s.uplinks := rfl
@[simp] theorem State.modNotice_selector (l : Link) (f : NoticeLink → NoticeLink) :
    (s.modNotice l f).selector = s.selector := rfl
@[simp] theorem State.modNotice_steering (l : Link) (f : NoticeLink → NoticeLink) :
    (s.modNotice l f).steering = s.steering := rfl
@[simp] theorem State.modNotice_cycleTimer (l : Link) (f : NoticeLink → NoticeLink) :
    (s.modNotice l f).cycleTimer = s.cycleTimer := rfl
@[simp] theorem State.modNotice_plans (l : Link) (f : NoticeLink → NoticeLink) :
    (s.modNotice l f).plans = s.plans := rfl
@[simp] theorem State.modNotice_ports (l : Link) (f : NoticeLink → NoticeLink) :
    (s.modNotice l f).ports = s.ports := rfl
@[simp] theorem State.modNotice_pulses (l : Link) (f : NoticeLink → NoticeLink) :
    (s.modNotice l f).pulses = s.pulses := rfl
@[simp] theorem State.modNotice_coded (l : Link) (f : NoticeLink → NoticeLink) :
    (s.modNotice l f).coded = s.coded := rfl
@[simp] theorem State.modNotice_links (l : Link) (f : NoticeLink → NoticeLink) :
    (s.modNotice l f).links = s.links := rfl
@[simp] theorem State.modNotice_executor (l : Link) (f : NoticeLink → NoticeLink) :
    (s.modNotice l f).executor = s.executor := rfl
@[simp] theorem State.modNotice_access (l : Link) (f : NoticeLink → NoticeLink) :
    (s.modNotice l f).access = s.access := rfl
@[simp] theorem State.modNotice_notice (l : Link) (f : NoticeLink → NoticeLink) :
    (s.modNotice l f).notice = { s.notice with links := s.notice.links.set l (f s.notice.links[l]) } := rfl
@[simp] theorem State.modNotice_flight (l : Link) (f : NoticeLink → NoticeLink) :
    (s.modNotice l f).flight = s.flight := rfl
@[simp] theorem State.modNotice_pending (l : Link) (f : NoticeLink → NoticeLink) :
    (s.modNotice l f).pending = s.pending := rfl

/-! ### modFlight: the events in flight -/

@[simp] theorem State.modFlight_timebase (f : Flight → Flight) :
    (s.modFlight f).timebase = s.timebase := rfl
@[simp] theorem State.modFlight_inputs (f : Flight → Flight) :
    (s.modFlight f).inputs = s.inputs := rfl
@[simp] theorem State.modFlight_uplinks (f : Flight → Flight) :
    (s.modFlight f).uplinks = s.uplinks := rfl
@[simp] theorem State.modFlight_selector (f : Flight → Flight) :
    (s.modFlight f).selector = s.selector := rfl
@[simp] theorem State.modFlight_steering (f : Flight → Flight) :
    (s.modFlight f).steering = s.steering := rfl
@[simp] theorem State.modFlight_cycleTimer (f : Flight → Flight) :
    (s.modFlight f).cycleTimer = s.cycleTimer := rfl
@[simp] theorem State.modFlight_plans (f : Flight → Flight) : (s.modFlight f).plans = s.plans := rfl
@[simp] theorem State.modFlight_ports (f : Flight → Flight) : (s.modFlight f).ports = s.ports := rfl
@[simp] theorem State.modFlight_pulses (f : Flight → Flight) :
    (s.modFlight f).pulses = s.pulses := rfl
@[simp] theorem State.modFlight_coded (f : Flight → Flight) : (s.modFlight f).coded = s.coded := rfl
@[simp] theorem State.modFlight_links (f : Flight → Flight) : (s.modFlight f).links = s.links := rfl
@[simp] theorem State.modFlight_executor (f : Flight → Flight) :
    (s.modFlight f).executor = s.executor := rfl
@[simp] theorem State.modFlight_access (f : Flight → Flight) :
    (s.modFlight f).access = s.access := rfl
@[simp] theorem State.modFlight_notice (f : Flight → Flight) :
    (s.modFlight f).notice = s.notice := rfl
@[simp] theorem State.modFlight_flight (f : Flight → Flight) :
    (s.modFlight f).flight = f s.flight := rfl
@[simp] theorem State.modFlight_pending (f : Flight → Flight) :
    (s.modFlight f).pending = s.pending := rfl

/-! ### logFault: a fault logged -/

@[simp] theorem State.logFault_timebase (b : FaultOrigin) (c j d : Nat) :
    (s.logFault b c j d).timebase = s.timebase := rfl
@[simp] theorem State.logFault_inputs (b : FaultOrigin) (c j d : Nat) :
    (s.logFault b c j d).inputs = s.inputs := rfl
@[simp] theorem State.logFault_uplinks (b : FaultOrigin) (c j d : Nat) :
    (s.logFault b c j d).uplinks = s.uplinks := rfl
@[simp] theorem State.logFault_selector (b : FaultOrigin) (c j d : Nat) :
    (s.logFault b c j d).selector = s.selector := rfl
@[simp] theorem State.logFault_steering (b : FaultOrigin) (c j d : Nat) :
    (s.logFault b c j d).steering = s.steering := rfl
@[simp] theorem State.logFault_cycleTimer (b : FaultOrigin) (c j d : Nat) :
    (s.logFault b c j d).cycleTimer = s.cycleTimer := rfl
@[simp] theorem State.logFault_plans (b : FaultOrigin) (c j d : Nat) :
    (s.logFault b c j d).plans = s.plans := rfl
@[simp] theorem State.logFault_ports (b : FaultOrigin) (c j d : Nat) :
    (s.logFault b c j d).ports = s.ports := rfl
@[simp] theorem State.logFault_pulses (b : FaultOrigin) (c j d : Nat) :
    (s.logFault b c j d).pulses = s.pulses := rfl
@[simp] theorem State.logFault_coded (b : FaultOrigin) (c j d : Nat) :
    (s.logFault b c j d).coded = s.coded := rfl
@[simp] theorem State.logFault_links (b : FaultOrigin) (c j d : Nat) :
    (s.logFault b c j d).links = s.links := rfl
@[simp] theorem State.logFault_executor (b : FaultOrigin) (c j d : Nat) :
    (s.logFault b c j d).executor = s.executor := rfl
@[simp] theorem State.logFault_access (b : FaultOrigin) (c j d : Nat) :
    (s.logFault b c j d).access = s.access := rfl
@[simp] theorem State.logFault_notice (b : FaultOrigin) (c j d : Nat) :
    (s.logFault b c j d).notice = s.notice := rfl
@[simp] theorem State.logFault_flight (b : FaultOrigin) (c j d : Nat) :
    (s.logFault b c j d).flight = { s.flight with faults := s.flight.faults ++ [(b, ⟨c, j, d⟩)] } := rfl
@[simp] theorem State.logFault_pending (b : FaultOrigin) (c j d : Nat) :
    (s.logFault b c j d).pending = s.pending := rfl

/-! ### latch: a class on its way to the latches -/

@[simp] theorem State.latch_timebase (c : NoticeClass) : (s.latch c).timebase = s.timebase := rfl
@[simp] theorem State.latch_inputs (c : NoticeClass) : (s.latch c).inputs = s.inputs := rfl
@[simp] theorem State.latch_uplinks (c : NoticeClass) : (s.latch c).uplinks = s.uplinks := rfl
@[simp] theorem State.latch_selector (c : NoticeClass) : (s.latch c).selector = s.selector := rfl
@[simp] theorem State.latch_steering (c : NoticeClass) : (s.latch c).steering = s.steering := rfl
@[simp] theorem State.latch_cycleTimer (c : NoticeClass) :
    (s.latch c).cycleTimer = s.cycleTimer := rfl
@[simp] theorem State.latch_plans (c : NoticeClass) : (s.latch c).plans = s.plans := rfl
@[simp] theorem State.latch_ports (c : NoticeClass) : (s.latch c).ports = s.ports := rfl
@[simp] theorem State.latch_pulses (c : NoticeClass) : (s.latch c).pulses = s.pulses := rfl
@[simp] theorem State.latch_coded (c : NoticeClass) : (s.latch c).coded = s.coded := rfl
@[simp] theorem State.latch_links (c : NoticeClass) : (s.latch c).links = s.links := rfl
@[simp] theorem State.latch_executor (c : NoticeClass) : (s.latch c).executor = s.executor := rfl
@[simp] theorem State.latch_access (c : NoticeClass) : (s.latch c).access = s.access := rfl
@[simp] theorem State.latch_notice (c : NoticeClass) : (s.latch c).notice = s.notice := rfl
@[simp] theorem State.latch_flight (c : NoticeClass) :
    (s.latch c).flight = { s.flight with latches := s.flight.latches ++ [c] } := rfl
@[simp] theorem State.latch_pending (c : NoticeClass) : (s.latch c).pending = s.pending := rfl

/-! ### toSelector: an event on its way to the selector -/

@[simp] theorem State.toSelector_timebase (e : Ext) (v : UnitEvent) :
    (s.toSelector e v).timebase = s.timebase := rfl
@[simp] theorem State.toSelector_inputs (e : Ext) (v : UnitEvent) :
    (s.toSelector e v).inputs = s.inputs := rfl
@[simp] theorem State.toSelector_uplinks (e : Ext) (v : UnitEvent) :
    (s.toSelector e v).uplinks = s.uplinks := rfl
@[simp] theorem State.toSelector_selector (e : Ext) (v : UnitEvent) :
    (s.toSelector e v).selector = s.selector := rfl
@[simp] theorem State.toSelector_steering (e : Ext) (v : UnitEvent) :
    (s.toSelector e v).steering = s.steering := rfl
@[simp] theorem State.toSelector_cycleTimer (e : Ext) (v : UnitEvent) :
    (s.toSelector e v).cycleTimer = s.cycleTimer := rfl
@[simp] theorem State.toSelector_plans (e : Ext) (v : UnitEvent) :
    (s.toSelector e v).plans = s.plans := rfl
@[simp] theorem State.toSelector_ports (e : Ext) (v : UnitEvent) :
    (s.toSelector e v).ports = s.ports := rfl
@[simp] theorem State.toSelector_pulses (e : Ext) (v : UnitEvent) :
    (s.toSelector e v).pulses = s.pulses := rfl
@[simp] theorem State.toSelector_coded (e : Ext) (v : UnitEvent) :
    (s.toSelector e v).coded = s.coded := rfl
@[simp] theorem State.toSelector_links (e : Ext) (v : UnitEvent) :
    (s.toSelector e v).links = s.links := rfl
@[simp] theorem State.toSelector_executor (e : Ext) (v : UnitEvent) :
    (s.toSelector e v).executor = s.executor := rfl
@[simp] theorem State.toSelector_access (e : Ext) (v : UnitEvent) :
    (s.toSelector e v).access = s.access := rfl
@[simp] theorem State.toSelector_notice (e : Ext) (v : UnitEvent) :
    (s.toSelector e v).notice = s.notice := rfl
@[simp] theorem State.toSelector_flight (e : Ext) (v : UnitEvent) :
    (s.toSelector e v).flight = { s.flight with
      toSelector := s.flight.toSelector.set e (s.flight.toSelector[e] ++ [v]) } := rfl
@[simp] theorem State.toSelector_pending (e : Ext) (v : UnitEvent) :
    (s.toSelector e v).pending = s.pending := rfl

/-! ### handRate: a rate word handed on -/

@[simp] theorem State.handRate_timebase (w : Int) : (s.handRate w).timebase = s.timebase := rfl
@[simp] theorem State.handRate_inputs (w : Int) : (s.handRate w).inputs = s.inputs := rfl
@[simp] theorem State.handRate_uplinks (w : Int) : (s.handRate w).uplinks = s.uplinks := rfl
@[simp] theorem State.handRate_selector (w : Int) : (s.handRate w).selector = s.selector := rfl
@[simp] theorem State.handRate_steering (w : Int) : (s.handRate w).steering = s.steering := rfl
@[simp] theorem State.handRate_cycleTimer (w : Int) :
    (s.handRate w).cycleTimer = s.cycleTimer := rfl
@[simp] theorem State.handRate_plans (w : Int) : (s.handRate w).plans = s.plans := rfl
@[simp] theorem State.handRate_ports (w : Int) : (s.handRate w).ports = s.ports := rfl
@[simp] theorem State.handRate_pulses (w : Int) : (s.handRate w).pulses = s.pulses := rfl
@[simp] theorem State.handRate_coded (w : Int) : (s.handRate w).coded = s.coded := rfl
@[simp] theorem State.handRate_links (w : Int) : (s.handRate w).links = s.links := rfl
@[simp] theorem State.handRate_executor (w : Int) : (s.handRate w).executor = s.executor := rfl
@[simp] theorem State.handRate_access (w : Int) : (s.handRate w).access = s.access := rfl
@[simp] theorem State.handRate_notice (w : Int) : (s.handRate w).notice = s.notice := rfl
@[simp] theorem State.handRate_flight (w : Int) :
    (s.handRate w).flight = { s.flight with rateWords := s.flight.rateWords ++ [w] } := rfl
@[simp] theorem State.handRate_pending (w : Int) : (s.handRate w).pending = s.pending := rfl

/-! ### portReport: a port's report -/

@[simp] theorem State.portReport_timebase (p : Port) (r : PortReport) :
    (s.portReport p r).timebase = s.timebase := rfl
@[simp] theorem State.portReport_inputs (p : Port) (r : PortReport) :
    (s.portReport p r).inputs = s.inputs := rfl
@[simp] theorem State.portReport_uplinks (p : Port) (r : PortReport) :
    (s.portReport p r).uplinks = s.uplinks := rfl
@[simp] theorem State.portReport_selector (p : Port) (r : PortReport) :
    (s.portReport p r).selector = s.selector := rfl
@[simp] theorem State.portReport_steering (p : Port) (r : PortReport) :
    (s.portReport p r).steering = s.steering := rfl
@[simp] theorem State.portReport_cycleTimer (p : Port) (r : PortReport) :
    (s.portReport p r).cycleTimer = s.cycleTimer := rfl
@[simp] theorem State.portReport_plans (p : Port) (r : PortReport) :
    (s.portReport p r).plans = s.plans := rfl
@[simp] theorem State.portReport_ports (p : Port) (r : PortReport) :
    (s.portReport p r).ports = s.ports := rfl
@[simp] theorem State.portReport_pulses (p : Port) (r : PortReport) :
    (s.portReport p r).pulses = s.pulses := rfl
@[simp] theorem State.portReport_coded (p : Port) (r : PortReport) :
    (s.portReport p r).coded = s.coded := rfl
@[simp] theorem State.portReport_links (p : Port) (r : PortReport) :
    (s.portReport p r).links = s.links := rfl
@[simp] theorem State.portReport_executor (p : Port) (r : PortReport) :
    (s.portReport p r).executor = s.executor := rfl
@[simp] theorem State.portReport_access (p : Port) (r : PortReport) :
    (s.portReport p r).access = s.access := rfl
@[simp] theorem State.portReport_notice (p : Port) (r : PortReport) :
    (s.portReport p r).notice = s.notice := rfl
@[simp] theorem State.portReport_flight (p : Port) (r : PortReport) :
    (s.portReport p r).flight = { s.flight with
      reports := s.flight.reports.set p (s.flight.reports[p] ++ [r]) } := rfl
@[simp] theorem State.portReport_pending (p : Port) (r : PortReport) :
    (s.portReport p r).pending = s.pending := rfl

/-! ### respond: a response placed -/

@[simp] theorem State.respond_timebase (r : Running) (st : Status) (p : List Byte) :
    (s.respond r st p).timebase = s.timebase := rfl
@[simp] theorem State.respond_inputs (r : Running) (st : Status) (p : List Byte) :
    (s.respond r st p).inputs = s.inputs := rfl
@[simp] theorem State.respond_uplinks (r : Running) (st : Status) (p : List Byte) :
    (s.respond r st p).uplinks = s.uplinks := rfl
@[simp] theorem State.respond_selector (r : Running) (st : Status) (p : List Byte) :
    (s.respond r st p).selector = s.selector := rfl
@[simp] theorem State.respond_steering (r : Running) (st : Status) (p : List Byte) :
    (s.respond r st p).steering = s.steering := rfl
@[simp] theorem State.respond_cycleTimer (r : Running) (st : Status) (p : List Byte) :
    (s.respond r st p).cycleTimer = s.cycleTimer := rfl
@[simp] theorem State.respond_plans (r : Running) (st : Status) (p : List Byte) :
    (s.respond r st p).plans = s.plans := rfl
@[simp] theorem State.respond_ports (r : Running) (st : Status) (p : List Byte) :
    (s.respond r st p).ports = s.ports := rfl
@[simp] theorem State.respond_pulses (r : Running) (st : Status) (p : List Byte) :
    (s.respond r st p).pulses = s.pulses := rfl
@[simp] theorem State.respond_coded (r : Running) (st : Status) (p : List Byte) :
    (s.respond r st p).coded = s.coded := rfl
@[simp] theorem State.respond_links (r : Running) (st : Status) (p : List Byte) :
    (s.respond r st p).links = s.links.set r.link
      { s.links[r.link] with
        responses := s.links[r.link].responses ++ [responseFrame r.tag st p] } := rfl
@[simp] theorem State.respond_executor (r : Running) (st : Status) (p : List Byte) :
    (s.respond r st p).executor = { s.executor with running := none } := rfl
@[simp] theorem State.respond_access (r : Running) (st : Status) (p : List Byte) :
    (s.respond r st p).access = s.access := rfl
@[simp] theorem State.respond_notice (r : Running) (st : Status) (p : List Byte) :
    (s.respond r st p).notice = s.notice := rfl
@[simp] theorem State.respond_flight (r : Running) (st : Status) (p : List Byte) :
    (s.respond r st p).flight = s.flight := rfl
@[simp] theorem State.respond_pending (r : Running) (st : Status) (p : List Byte) :
    (s.respond r st p).pending = s.pending := rfl

/-! ### tick: one oscillator tick -/

@[simp] theorem State.tick_timebase : s.tick.timebase =
    { s.timebase with
      time := StationTime.ofUnits ((s.timebase.time.units + s.timebase.advance : Nat) : Int) } := rfl
@[simp] theorem State.tick_inputs : s.tick.inputs = s.inputs.map InputUnit.tick := rfl
@[simp] theorem State.tick_uplinks : s.tick.uplinks = s.uplinks := by cases s; rfl
@[simp] theorem State.tick_selector : s.tick.selector = s.selector := by cases s; rfl
@[simp] theorem State.tick_steering : s.tick.steering = s.steering := by cases s; rfl
@[simp] theorem State.tick_cycleTimer : s.tick.cycleTimer = s.cycleTimer := by cases s; rfl
@[simp] theorem State.tick_plans : s.tick.plans = s.plans := by cases s; rfl
@[simp] theorem State.tick_ports : s.tick.ports =
    s.ports.map fun q => q.reach s.tick.timebase.time.stamp := rfl
@[simp] theorem State.tick_links : s.tick.links = s.links := by cases s; rfl
@[simp] theorem State.tick_executor : s.tick.executor = s.executor := by cases s; rfl
@[simp] theorem State.tick_access : s.tick.access = s.access := by cases s; rfl
@[simp] theorem State.tick_notice : s.tick.notice = s.notice := by cases s; rfl
@[simp] theorem State.tick_flight : s.tick.flight =
    { s.flight with
      toCycleTimer := s.flight.toCycleTimer ++ crossings s.timebase.time s.tick.timebase.time } := rfl
@[simp] theorem State.tick_pending : s.tick.pending = s.pending := by cases s; rfl
@[simp] theorem State.tick_getElem_pulses (k : PulseOut) : s.tick.pulses[k] =
    s.pulses[k].tick (!s.flight.stepsToPulse[k].isEmpty) s.timebase.time.units s.timebase.advance := by
  simp [State.tick]
@[simp] theorem State.tick_getElem_coded (m : CodedOut) : s.tick.coded[m] =
    s.coded[m].tick (!s.flight.stepsToCoded[m].isEmpty) s.timebase.time.units s.timebase.advance := by
  simp [State.tick]

/-! ### tick of an input unit -/

@[simp] theorem InputUnit.tick_tracker (o : InputUnit) : o.tick.tracker = o.tracker := rfl
@[simp] theorem InputUnit.tick_anchor (o : InputUnit) : o.tick.anchor = o.anchor := rfl
@[simp] theorem InputUnit.tick_intervals (o : InputUnit) : o.tick.intervals = o.intervals := rfl
@[simp] theorem InputUnit.tick_held (o : InputUnit) : o.tick.held = o.held := rfl
@[simp] theorem InputUnit.tick_assembler (o : InputUnit) : o.tick.assembler = o.assembler := rfl
@[simp] theorem InputUnit.tick_requestTimer (o : InputUnit) : o.tick.requestTimer = o.requestTimer := rfl
@[simp] theorem InputUnit.tick_lastScale (o : InputUnit) : o.tick.lastScale = o.lastScale := rfl
@[simp] theorem InputUnit.tick_settings (o : InputUnit) : o.tick.settings = o.settings := rfl
@[simp] theorem InputUnit.tick_counters (o : InputUnit) : o.tick.counters = o.counters := rfl

/-! ### the instants a port has reached -/

@[simp] theorem PortUnit.reach_state (o : PortUnit) (now : Stamp) : (o.reach now).state = o.state := rfl
@[simp] theorem PortUnit.reach_link (o : PortUnit) (now : Stamp) : (o.reach now).link = o.link := rfl
@[simp] theorem PortUnit.reach_map (o : PortUnit) (now : Stamp) : (o.reach now).map = o.map := rfl
@[simp] theorem PortUnit.reach_word (o : PortUnit) (now : Stamp) : (o.reach now).word = o.word := rfl
@[simp] theorem PortUnit.reach_trimmed (o : PortUnit) (now : Stamp) : (o.reach now).trimmed = o.trimmed := rfl
@[simp] theorem PortUnit.reach_openingSent (o : PortUnit) (now : Stamp) :
    (o.reach now).openingSent = o.openingSent := rfl
@[simp] theorem PortUnit.reach_stagger (o : PortUnit) (now : Stamp) : (o.reach now).stagger = o.stagger := rfl
@[simp] theorem PortUnit.reach_cycle (o : PortUnit) (now : Stamp) : (o.reach now).cycle = o.cycle := rfl
@[simp] theorem PortUnit.reach_departures (o : PortUnit) (now : Stamp) :
    (o.reach now).departures =
      o.departures.map fun d => { d with came := d.came || decide (0 ≤ now.diff d.due) } := rfl
@[simp] theorem PortUnit.reach_seq (o : PortUnit) (now : Stamp) : (o.reach now).seq = o.seq := rfl
@[simp] theorem PortUnit.reach_answers (o : PortUnit) (now : Stamp) : (o.reach now).answers = o.answers := rfl
@[simp] theorem PortUnit.reach_overrun (o : PortUnit) (now : Stamp) : (o.reach now).overrun = o.overrun := rfl
@[simp] theorem PortUnit.reach_settings (o : PortUnit) (now : Stamp) :
    (o.reach now).settings = o.settings := rfl
@[simp] theorem PortUnit.reach_counters (o : PortUnit) (now : Stamp) :
    (o.reach now).counters = o.counters := rfl
@[simp] theorem PortUnit.reach_sent (o : PortUnit) (now : Stamp) : (o.reach now).sent = o.sent := rfl

/-! ### a step applied -/

@[simp] theorem State.applyStep_ports (o : StepOrigin) (d : Int) (x : Elapsed) :
    (s.applyStep o d x).ports = s.ports.map fun q => q.reach (s.reading x) := rfl
@[simp] theorem State.applyStep_timebase (o : StepOrigin) (d : Int) (x : Elapsed) :
    (s.applyStep o d x).timebase =
      let after := StationTime.ofUnits (s.timebase.time.units + d * Config.unitsPerFu)
      { s.timebase with
        time := after, record := some ⟨o, d, after.reading x⟩, stepCount := s.timebase.stepCount + 1 } := rfl

/-! ### tick of a pulse output -/

@[simp] theorem PulseUnit.tick_high (o : PulseUnit) (w : Bool) (start adv : Nat) :
    (o.tick w start adv).high = (o.high && decide (o.fall ≠ 0)) := rfl
@[simp] theorem PulseUnit.tick_fall (o : PulseUnit) (w : Bool) (start adv : Nat) :
    (o.tick w start adv).fall = o.fall - 1 := rfl
@[simp] theorem PulseUnit.tick_risePart (o : PulseUnit) (w : Bool) (start adv : Nat) :
    (o.tick w start adv).risePart = o.risePart := rfl
@[simp] theorem PulseUnit.tick_next (o : PulseUnit) (w : Bool) (start adv : Nat) :
    (o.tick w start adv).next = o.next := rfl
@[simp] theorem PulseUnit.tick_offset (o : PulseUnit) (w : Bool) (start adv : Nat) :
    (o.tick w start adv).offset = o.offset := rfl
@[simp] theorem PulseUnit.tick_width (o : PulseUnit) (w : Bool) (start adv : Nat) :
    (o.tick w start adv).width = o.width := rfl
@[simp] theorem PulseUnit.tick_squelch (o : PulseUnit) (w : Bool) (start adv : Nat) :
    (o.tick w start adv).squelch = o.squelch := rfl
@[simp] theorem PulseUnit.tick_sent (o : PulseUnit) (w : Bool) (start adv : Nat) :
    (o.tick w start adv).sent = o.sent := rfl
@[simp] theorem PulseUnit.tick_squelched (o : PulseUnit) (w : Bool) (start adv : Nat) :
    (o.tick w start adv).squelched = o.squelched := rfl
@[simp] theorem PulseUnit.tick_overlapped (o : PulseUnit) (w : Bool) (start adv : Nat) :
    (o.tick w start adv).overlapped = o.overlapped := rfl

/-! ### place: a rise time placed -/

@[simp] theorem PulseUnit.place_high (o : PulseUnit) (start adv : Nat) (high : Elapsed → Bool) :
    (o.place start adv high).high = o.high := by cases o; rfl
@[simp] theorem PulseUnit.place_fall (o : PulseUnit) (start adv : Nat) (high : Elapsed → Bool) :
    (o.place start adv high).fall = o.fall := by cases o; rfl
@[simp] theorem PulseUnit.place_risePart (o : PulseUnit) (start adv : Nat) (high : Elapsed → Bool) :
    (o.place start adv high).risePart = o.risePart := by cases o; rfl
@[simp] theorem PulseUnit.place_next (o : PulseUnit) (start adv : Nat) (high : Elapsed → Bool) :
    (o.place start adv high).next = (placeAfter start o.offset).2 := rfl
@[simp] theorem PulseUnit.place_passed (o : PulseUnit) (start adv : Nat) (high : Elapsed → Bool) :
    (o.place start adv high).passed = passedBy start adv (o.place start adv high).next high := rfl
@[simp] theorem PulseUnit.place_offset (o : PulseUnit) (start adv : Nat) (high : Elapsed → Bool) :
    (o.place start adv high).offset = o.offset := by cases o; rfl
@[simp] theorem PulseUnit.place_width (o : PulseUnit) (start adv : Nat) (high : Elapsed → Bool) :
    (o.place start adv high).width = o.width := by cases o; rfl
@[simp] theorem PulseUnit.place_squelch (o : PulseUnit) (start adv : Nat) (high : Elapsed → Bool) :
    (o.place start adv high).squelch = o.squelch := by cases o; rfl
@[simp] theorem PulseUnit.place_sent (o : PulseUnit) (start adv : Nat) (high : Elapsed → Bool) :
    (o.place start adv high).sent = o.sent := by cases o; rfl
@[simp] theorem PulseUnit.place_squelched (o : PulseUnit) (start adv : Nat) (high : Elapsed → Bool) :
    (o.place start adv high).squelched = o.squelched := by cases o; rfl
@[simp] theorem PulseUnit.place_overlapped (o : PulseUnit) (start adv : Nat) (high : Elapsed → Bool) :
    (o.place start adv high).overlapped = o.overlapped := by cases o; rfl

/-! ### tick of a coded-time output -/

@[simp] theorem CodedUnit.tick_line (o : CodedUnit) (w : Bool) (start adv : Nat) :
    (o.tick w start adv).line = o.line.tick := rfl
@[simp] theorem CodedUnit.tick_beginPart (o : CodedUnit) (w : Bool) (start adv : Nat) :
    (o.tick w start adv).beginPart = o.beginPart := rfl
@[simp] theorem CodedUnit.tick_next (o : CodedUnit) (w : Bool) (start adv : Nat) :
    (o.tick w start adv).next = o.next := rfl
@[simp] theorem CodedUnit.tick_names (o : CodedUnit) (w : Bool) (start adv : Nat) :
    (o.tick w start adv).names = o.names := rfl
@[simp] theorem CodedUnit.tick_lead (o : CodedUnit) (w : Bool) (start adv : Nat) :
    (o.tick w start adv).lead = o.lead := rfl
@[simp] theorem CodedUnit.tick_divisor (o : CodedUnit) (w : Bool) (start adv : Nat) :
    (o.tick w start adv).divisor = o.divisor := rfl
@[simp] theorem CodedUnit.tick_parity (o : CodedUnit) (w : Bool) (start adv : Nat) :
    (o.tick w start adv).parity = o.parity := rfl
@[simp] theorem CodedUnit.tick_sent (o : CodedUnit) (w : Bool) (start adv : Nat) :
    (o.tick w start adv).sent = o.sent := rfl
@[simp] theorem CodedUnit.tick_skipped (o : CodedUnit) (w : Bool) (start adv : Nat) :
    (o.tick w start adv).skipped = o.skipped := rfl

/-! ### place: a due time placed -/

@[simp] theorem CodedUnit.place_line (o : CodedUnit) (start adv : Nat) (sending : Elapsed → Bool) :
    (o.place start adv sending).line = o.line := by cases o; rfl
@[simp] theorem CodedUnit.place_beginPart (o : CodedUnit) (start adv : Nat) (sending : Elapsed → Bool) :
    (o.place start adv sending).beginPart = o.beginPart := by cases o; rfl
@[simp] theorem CodedUnit.place_next (o : CodedUnit) (start adv : Nat) (sending : Elapsed → Bool) :
    (o.place start adv sending).next = (placeAfter start ((o.lead * nanosPerMilli : Nat) : Int)).2 := rfl
@[simp] theorem CodedUnit.place_names (o : CodedUnit) (start adv : Nat) (sending : Elapsed → Bool) :
    (o.place start adv sending).names = (placeAfter start ((o.lead * nanosPerMilli : Nat) : Int)).1 := rfl
@[simp] theorem CodedUnit.place_passed (o : CodedUnit) (start adv : Nat) (sending : Elapsed → Bool) :
    (o.place start adv sending).passed = passedBy start adv (o.place start adv sending).next sending := rfl
@[simp] theorem CodedUnit.place_lead (o : CodedUnit) (start adv : Nat) (sending : Elapsed → Bool) :
    (o.place start adv sending).lead = o.lead := by cases o; rfl
@[simp] theorem CodedUnit.place_divisor (o : CodedUnit) (start adv : Nat) (sending : Elapsed → Bool) :
    (o.place start adv sending).divisor = o.divisor := by cases o; rfl
@[simp] theorem CodedUnit.place_parity (o : CodedUnit) (start adv : Nat) (sending : Elapsed → Bool) :
    (o.place start adv sending).parity = o.parity := by cases o; rfl
@[simp] theorem CodedUnit.place_sent (o : CodedUnit) (start adv : Nat) (sending : Elapsed → Bool) :
    (o.place start adv sending).sent = o.sent := by cases o; rfl
@[simp] theorem CodedUnit.place_skipped (o : CodedUnit) (start adv : Nat) (sending : Elapsed → Bool) :
    (o.place start adv sending).skipped = o.skipped := by cases o; rfl

end Sys2Proof.Machine
end

