-- ==== Sys2Proof/Laws/Ops.lean ====
section
/-! SUPPORT. What each shared operation can do, said once: steps, commands of the executor, entry
writes, queues, ranking and selection. -/

namespace Sys2Proof.Machine

open Sys2Proof.Config Sys2Proof.Safety

/-! ### A step -/

/-- Every command answers a next state. -/
theorem exec_next (c : Instr) (s : State) : ∃ t, exec c s = .next t := by
  cases c <;> first
    | exact ⟨_, rfl⟩
    | (simp only [exec, execRateWordTaken, execStepRequestApplied]; split <;> exact ⟨_, rfl⟩)

/-- A step idles on an empty queue, and else runs the command at the front. -/
theorem step_cases {s t : State} (h : step s = .next t) :
    (s.pending = [] ∧ t = s) ∨
    ∃ c rest, s.pending = c :: rest ∧ exec c { s with pending := rest } = .next t := by
  unfold step at h
  split at h
  · next hp => exact .inl ⟨hp, by cases h; rfl⟩
  · next c rest hp => exact .inr ⟨c, rest, hp, h⟩

/-! ### The executor (R173, R175, R176) -/

/-- A command row does nothing, or what `f` makes of the running command. -/
theorem State.onCommand_cases (s : State) (f : Running → Command → Option State) :
    s.onCommand f = s ∨
    ∃ r t, s.executor.running = some r ∧ f r r.command = some t ∧ s.onCommand f = t := by
  unfold State.onCommand
  cases hr : s.executor.running with
  | none => exact .inl rfl
  | some r =>
    cases hf : f r r.command with
    | none => exact .inl (by simp [hf])
    | some t => exact .inr ⟨r, t, rfl, hf, by simp [hf]⟩

/-- A command that writes is answered DENIED, answered GUARDED, or goes on. -/
theorem State.checkedWrite_cases (s : State) (r : Running) (sect index : Nat) (k : State) :
    (s.access.canWrite r.link sect = false ∧ s.checkedWrite r sect index k = s.respond r .denied []) ∨
    (s.access.canWrite r.link sect = true ∧ s.access.guarded sect index = true ∧
      s.checkedWrite r sect index k = s.respond r .guarded []) ∨
    (Permitted s r sect index ∧ s.checkedWrite r sect index k = k) := by
  unfold State.checkedWrite State.answer Permitted
  cases s.access.canWrite r.link sect <;> cases s.access.guarded sect index <;> simp

theorem State.checkedWrite_of_permitted {s : State} {r : Running} {sect index : Nat}
    (h : Permitted s r sect index) (k : State) : s.checkedWrite r sect index k = k := by
  simp [State.checkedWrite, h.1, h.2]

/-! ### Entry writes (R178) -/

/-- A write row does nothing, or carries out the running WRITE ENTRY. -/
theorem State.writeAs_cases (s : State) (row : WriteRow) :
    s.writeAs row = s ∨
    ∃ r sect index value, Runs s r (.writeEntry sect index value) ∧
      writeRow sect index value = row ∧ s.writeAs row = s.runWriteEntry r sect index value := by
  unfold State.writeAs
  rcases s.onCommand_cases (fun r c =>
    match c with
    | .writeEntry sect index value =>
      if writeRow sect index value = row then some (s.runWriteEntry r sect index value) else none
    | _ => none) with h | ⟨r, t, h1, h2, h3⟩
  · exact .inl h
  · refine .inr ?_
    split at h2
    · next sect index value hc =>
      split_ifs at h2 with hw
      exact ⟨r, sect, index, value, ⟨h1, hc⟩, hw, h3.trans (by cases h2; rfl)⟩
    · simp at h2

theorem State.writeAs_of_runs {s : State} {r : Running} {sect index : Nat} {value : List Byte}
    {row : WriteRow} (h : Runs s r (.writeEntry sect index value))
    (hw : writeRow sect index value = row) : s.writeAs row = s.runWriteEntry r sect index value := by
  simp [State.writeAs, State.onCommand, h.1, h.2, hw]

/-- WRITE ENTRY stores a value and answers it, or answers a status and stores nothing. -/
theorem State.runWriteEntry_cases (s : State) (r : Running) (sect index : Nat) (value : List Byte) :
    (∃ st, s.runWriteEntry r sect index value = s.respond r st []) ∨
    ∃ t clamped, s.storeEntry sect index value = .store t clamped ∧
      s.access.guarded sect index = false ∧ ¬(sect = 8 ∧ s.access.lock = true) ∧
      s.runWriteEntry r sect index value =
        t.respond r (if clamped then .okClamped else .ok) (t.valueAt sect index) := by
  unfold State.runWriteEntry State.answer
  split_ifs with h1 h2 h3 h4 h5
  · exact .inl ⟨_, rfl⟩
  · exact .inl ⟨_, rfl⟩
  · exact .inl ⟨_, rfl⟩
  · exact .inl ⟨_, rfl⟩
  · exact .inl ⟨_, rfl⟩
  · cases hs : s.storeEntry sect index value with
    | readOnly => exact .inl ⟨_, rfl⟩
    | refuse st => exact .inl ⟨_, rfl⟩
    | store t c => exact .inr ⟨t, c, rfl, by simpa using h5, h4, rfl⟩

/-- A numeric field is stored clamped to its range. -/
theorem storeNum_eq_store {lo hi : Int} {value : List Byte} {f : Int → State} {t : State} {c : Bool}
    (h : storeNum lo hi value f = .store t c) : ∃ v, t = f (clamp lo hi v) := by
  unfold storeNum at h
  split at h
  · cases h
  · next v _ => exact ⟨v, by cases h; rfl⟩

theorem storeNat_eq_store {lo hi : Nat} (hl : lo ≤ hi) {value : List Byte} {f : Nat → State} {t : State}
    {c : Bool} (h : storeNat lo hi value f = .store t c) : ∃ n, lo ≤ n ∧ n ≤ hi ∧ t = f n := by
  obtain ⟨v, rfl⟩ := storeNum_eq_store h
  refine ⟨_, ?_, ?_, rfl⟩ <;> unfold clamp <;> split_ifs <;> omega

theorem storeEnum_eq_store {n : Nat} {value : List Byte} {f : Nat → State} {t : State} {c : Bool}
    (h : storeEnum n value f = .store t c) : ∃ k < n, value = [BitVec.ofNat 8 k] ∧ t = f k ∧ c = false := by
  unfold storeEnum at h
  split at h
  · next b =>
    split_ifs at h with hb
    cases h
    exact ⟨b.toNat, hb, by simp, rfl, rfl⟩
  · cases h

theorem storeSet_eq_store {n : Nat} {value : List Byte} {f : Byte → State} {t : State} {c : Bool}
    (h : storeSet n value f = .store t c) : ∃ b, b.toNat < 2 ^ n ∧ value = [b] ∧ t = f b ∧ c = false := by
  unfold storeSet at h
  split at h
  · next b =>
    split_ifs at h with hb
    cases h
    exact ⟨b, hb, rfl, rfl, rfl⟩
  · cases h

/-! ### Lists kept as queues -/

/-- What `takeFirst` takes out, and what it leaves. -/
theorem takeFirst_eq_some {α : Type} {p : α → Bool} {l rest : List α} {a : α}
    (h : takeFirst p l = some (a, rest)) :
    ∃ old new, l = old ++ a :: new ∧ rest = old ++ new ∧ p a = true ∧ ∀ x ∈ old, p x = false := by
  induction l generalizing rest with
  | nil => simp [takeFirst] at h
  | cons b bs ih =>
    unfold takeFirst at h
    split_ifs at h with hb
    · cases h
      exact ⟨[], bs, rfl, rfl, hb, by simp⟩
    · cases ht : takeFirst p bs with
      | none => simp [ht] at h
      | some r =>
        simp only [ht, Option.map_some, Option.some.injEq, Prod.mk.injEq] at h
        obtain ⟨rfl, rfl⟩ := h
        obtain ⟨old, new, rfl, h2, h3, h4⟩ := ih ht
        refine ⟨b :: old, new, rfl, by simp [h2], h3, ?_⟩
        intro x hx
        rcases List.mem_cons.mp hx with rfl | hx
        · simpa using hb
        · exact h4 x hx

theorem takeFirst_append {α : Type} {p : α → Bool} {old new : List α} {a : α} (ha : p a = true)
    (ho : ∀ x ∈ old, p x = false) : takeFirst p (old ++ a :: new) = some (a, old ++ new) := by
  induction old with
  | nil => simp [takeFirst, ha]
  | cons b bs ih =>
    simp only [List.mem_cons, forall_eq_or_imp] at ho
    simp [takeFirst, ho.1, ih ho.2]

theorem dropFirst_append {α : Type} [DecidableEq α] {old new : List α} {a : α} (ho : a ∉ old) :
    dropFirst a (old ++ a :: new) = old ++ new := by
  induction old with
  | nil => simp [dropFirst]
  | cons b bs ih =>
    simp only [List.mem_cons, not_or] at ho
    simp [dropFirst, Ne.symm ho.1, ih ho.2]

theorem length_pushBounded_le {α : Type} {depth : Nat} (hd : 0 < depth) {l : List α}
    (hl : l.length ≤ depth) (a : α) : (pushBounded depth l a).length ≤ depth := by
  unfold pushBounded
  split_ifs <;> simp <;> omega

theorem mem_of_mem_pushBounded {α : Type} {depth : Nat} {l : List α} {a b : α}
    (h : b ∈ pushBounded depth l a) : b ∈ l ∨ b = a := by
  unfold pushBounded at h
  split_ifs at h <;> simp only [List.mem_append, List.mem_singleton] at h
  · exact h
  · exact h.imp List.mem_of_mem_drop id

/-! ### Source indices -/

@[simp] theorem extOf_toSource (e : Ext) : extOf (toSource e) = some e := by
  simp [extOf, toSource]

theorem toSource_injective : Function.Injective toSource := by
  intro a b h
  simpa [toSource, Fin.ext_iff] using h

theorem toSource_ne_local (e : Ext) : toSource e ≠ localSource := by
  revert e; decide

theorem extOf_eq_none {i : Source} : extOf i = none ↔ i = localSource := by
  revert i; decide

theorem extOf_eq_some {i : Source} {e : Ext} : extOf i = some e ↔ i = toSource e := by
  revert i e; decide

theorem mem_allExt (e : Ext) : e ∈ allExt := by
  revert e; decide

/-! ### Ranking and selection (R73, R74) -/

/-- No source is best exactly when none is USABLE. -/
theorem State.bestUsable_eq_none {s : State} :
    s.bestUsable = none ↔ ∀ e : Ext, s.selector.entries[e].state ≠ .usable := by
  have h : ∀ (l : List Ext) (best : Option Ext),
      l.foldl s.better best = none ↔ best = none ∧ ∀ e ∈ l, s.isUsable e = false := by
    intro l
    induction l with
    | nil => simp
    | cons a l ih =>
      intro best
      rw [List.foldl_cons, ih]
      cases hu : s.isUsable a <;> cases best <;> simp [hu, State.better]
      split_ifs <;> simp
  rw [State.bestUsable, h]
  simp only [true_and, State.isUsable, decide_eq_false_iff_not]
  exact ⟨fun hh e => hh e (mem_allExt e), fun hh e _ => hh e⟩

theorem State.outranks_iff {s : State} {a b : Ext} :
    s.outranks a b = true ↔
      s.effectiveClass a < s.effectiveClass b ∨
      (s.effectiveClass a = s.effectiveClass b ∧
        s.selector.entries[a].priority < s.selector.entries[b].priority) := by
  simp [State.outranks]

/-- The best-ranked USABLE source is USABLE and comes before every other. -/
theorem State.ranksFirst_of_bestUsable {s : State} {b : Ext} (h : s.bestUsable = some b) :
    RanksFirst s (fun a => s.selector.entries[a].state = .usable) b := by
  have key : ∀ (l : List Ext) (best : Option Ext), l.Pairwise (· < ·) →
      (∀ c, best = some c → s.isUsable c = true ∧ ∀ a ∈ l, c < a) →
      l.foldl s.better best = some b →
      s.isUsable b = true ∧ ∀ a, (best = some a ∨ a ∈ l) → s.isUsable a = true → a ≠ b →
        s.outranks b a = true ∨ (¬s.outranks a b = true ∧ b < a) := by
    intro l
    induction l with
    | nil =>
      intro best _ hb hf
      rw [List.foldl_nil] at hf
      refine ⟨(hb b hf).1, ?_⟩
      rintro a (ha | ha) _ hne
      · exact absurd (Option.some.inj (ha.symm.trans hf)) hne
      · simp at ha
    | cons x l ih =>
      intro best hp hb hf
      rw [List.foldl_cons] at hf
      rw [List.pairwise_cons] at hp
      cases hu : s.isUsable x with
      | false =>
        have e : s.better best x = best := by simp [State.better, hu]
        rw [e] at hf
        obtain ⟨h1, h2⟩ :=
          ih best hp.2 (fun c hc => ⟨(hb c hc).1, fun a ha => (hb c hc).2 a (by simp [ha])⟩) hf
        refine ⟨h1, fun a ha hua hne => h2 a ?_ hua hne⟩
        rcases ha with ha | ha
        · exact .inl ha
        · rcases List.mem_cons.mp ha with rfl | ha
          · rw [hu] at hua; cases hua
          · exact .inr ha
      | true =>
        cases hbest : best with
        | none =>
          have e : s.better best x = some x := by simp [State.better, hu, hbest]
          rw [e] at hf
          obtain ⟨h1, h2⟩ := ih (some x) hp.2 (fun c hc => by cases hc; exact ⟨hu, hp.1⟩) hf
          refine ⟨h1, fun a ha hua hne => h2 a ?_ hua hne⟩
          rcases ha with ha | ha
          · cases ha
          · exact (List.mem_cons.mp ha).imp (fun hx => by rw [hx]) id
        | some c =>
          obtain ⟨hc, hlt⟩ := hb c hbest
          have hcx : c < x := hlt x (by simp)
          cases ho : s.outranks x c with
          | true =>
            have e : s.better best x = some x := by simp [State.better, hu, hbest, ho]
            rw [e] at hf
            obtain ⟨h1, h2⟩ := ih (some x) hp.2 (fun d hd => by cases hd; exact ⟨hu, hp.1⟩) hf
            refine ⟨h1, fun a ha hua hne => ?_⟩
            rcases ha with ha | ha
            · cases ha
              rw [State.outranks_iff] at ho
              by_cases hxb : x = b
              · subst hxb; exact .inl (State.outranks_iff.mpr ho)
              · have := h2 x (.inl rfl) hu hxb
                simp only [State.outranks_iff] at *
                omega
            · exact h2 a ((List.mem_cons.mp ha).imp (fun hx => by rw [hx]) id) hua hne
          | false =>
            have e : s.better best x = some c := by simp [State.better, hu, hbest, ho]
            rw [e] at hf
            obtain ⟨h1, h2⟩ := ih (some c) hp.2
              (fun d hd => by cases hd; exact ⟨hc, fun a ha => hlt a (by simp [ha])⟩) hf
            refine ⟨h1, fun a ha hua hne => ?_⟩
            rcases ha with ha | ha
            · exact h2 a (.inl ha) hua hne
            · rcases List.mem_cons.mp ha with rfl | ha
              · rw [← Bool.not_eq_true, State.outranks_iff] at ho
                by_cases hcb : c = b
                · subst hcb
                  exact .inr ⟨by rwa [State.outranks_iff], hcx⟩
                · have := h2 c (.inl rfl) hc hcb
                  simp only [State.outranks_iff, Fin.lt_def] at *
                  omega
              · exact h2 a (.inr ha) hua hne
  obtain ⟨h1, h2⟩ := key allExt none (by decide) (by simp) h
  refine ⟨by simpa [State.isUsable] using h1, fun a ha hne => ?_⟩
  have := h2 a (.inr (mem_allExt a)) (by simpa [State.isUsable] using ha) hne
  simp only [State.outranks_iff, Fin.lt_def] at this ⊢
  omega

/-- Selecting the source already selected does nothing; any other is selected under its options. -/
theorem State.selectSource_eq (s : State) (target : Source) :
    s.selectSource target =
      if target = s.selector.selected then s else selecting s target (optionsFor s target) := by
  unfold State.selectSource
  split_ifs with h
  · rfl
  · unfold optionsFor selecting State.latch State.modFlight State.modSelector State.modSteering
    rfl

/-- The failure switch withdraws the mask and selects the best-ranked USABLE source, or LOCAL. -/
theorem State.failureSwitch_cases (s : State) :
    (s.failureSwitch = s.maskOptions.selectSource localSource ∧
      ∀ e : Ext, s.selector.entries[e].state ≠ .usable) ∨
    ∃ b, RanksFirst s (fun a => s.selector.entries[a].state = .usable) b ∧
      s.failureSwitch = s.maskOptions.selectSource (toSource b) := by
  have hm : s.maskOptions.bestUsable = s.bestUsable := rfl
  unfold State.failureSwitch
  dsimp only
  rw [hm]
  cases hb : s.bestUsable with
  | none => exact .inl ⟨rfl, State.bestUsable_eq_none.mp hb⟩
  | some b => exact .inr ⟨b, State.ranksFirst_of_bestUsable hb, rfl⟩

/-- Faulting an entry that is not selected (R72). -/
theorem State.faultEntry_of_not_selected {s : State} {e : Ext} {cause : Cause}
    (h : s.selector.selected ≠ toSource e) : s.faultEntry e cause = faulted s e (causeCode cause) := by
  unfold State.faultEntry State.leaveTrial State.modInputOf faulted
  by_cases he : e.val < 2 <;> simp [inputOf, he, h] <;> rfl

/-- What holds of a state, is kept when the top of the stack is refused, and is kept when a source is
selected, holds after the revert test (R78). -/
theorem State.revertTest_induct {P : State → Prop} (s : State) (n : Nat) (h : P s)
    (hdrop : ∀ v t rest, P v → v.selector.stack = t :: rest → v.revertRefused t = true →
      P ((v.modSelector fun q => { q with stack := rest }).logFault .selector 5 t.source.val
        v.cycleDetail))
    (hsel : ∀ v t rest, P v → v.selector.stack = t :: rest → v.revertDue t = true →
      v.revertRefused t = false → P (v.selectSource (toSource t.source))) :
    P (s.revertTest n) := by
  induction n generalizing s with
  | zero => exact h
  | succ n ih =>
    unfold State.revertTest
    split
    · exact h
    · next t rest hs =>
      split_ifs with h1 h2
      · exact ih _ (hdrop s t rest h hs h2)
      · exact hsel s t rest h hs (by simp_all) (by simpa using h2)
      · exact h

/-- The upgrade test selects a USABLE source of strictly lower class, or changes nothing (R80). -/
theorem State.upgradeTest_cases (s : State) :
    s.upgradeTest = s ∨
    ∃ b, s.bestUsable = some b ∧ s.effectiveClass b < s.classOf s.selector.selected ∧
      s.upgradeTest = s.selectSource (toSource b) := by
  unfold State.upgradeTest
  split_ifs with h
  · cases hb : s.bestUsable with
    | none => exact .inl rfl
    | some b =>
      by_cases hc : s.effectiveClass b < s.classOf s.selector.selected
      · exact .inr ⟨b, rfl, hc, by simp [hc]⟩
      · exact .inl (by simp [hc])
  · exact .inl rfl

/-- A change that may move an entry's effective class is made, and the upgrade test may follow (R80). -/
theorem State.withClassChange_cases (s : State) (e : Ext) (f : State → State) :
    s.withClassChange e f = f s ∨ s.withClassChange e f = (f s).upgradeTest := by
  unfold State.withClassChange
  dsimp only
  split_ifs
  · exact .inr rfl
  · exact .inl rfl

/-! ### Service reset (R183) -/

/-- What holds before a service reset and is kept by each block's reset holds after the blocks named
have taken theirs. -/
theorem State.resetBlocks_induct {P : State → List ResetBlock → Prop} (s : State)
    (done blocks : List ResetBlock) (h : P s done)
    (hstep : ∀ v d b, P v d → b ∉ d → P (v.resetBlock d b) (d ++ [b])) :
    P (s.resetBlocks done blocks).1 (s.resetBlocks done blocks).2 := by
  induction blocks generalizing s done with
  | nil => exact h
  | cons b bs ih =>
    unfold State.resetBlocks
    split_ifs with hb
    · exact ih s done h
    · exact ih _ _ (hstep s done b h hb)

/-- The blocks that have taken a service reset are those that had, and those named (R183). -/
theorem State.mem_resetBlocks {s : State} {done blocks : List ResetBlock} {b : ResetBlock} :
    b ∈ (s.resetBlocks done blocks).2 ↔ b ∈ done ∨ b ∈ blocks := by
  induction blocks generalizing s done with
  | nil => simp [State.resetBlocks]
  | cons c cs ih =>
    unfold State.resetBlocks
    split_ifs with h <;> rw [ih] <;> simp only [List.mem_cons, List.mem_append, List.not_mem_nil,
      or_false]
    · exact ⟨by tauto, by rintro (h' | rfl | h') <;> tauto⟩
    · tauto

theorem mem_allBlocks (b : ResetBlock) : b ∈ allBlocks := by
  rcases b with _ | u | u | _ | _ | _ | u | _ | _ <;> try (simp [allBlocks]; done)
  all_goals (fin_cases u <;> simp [allBlocks])

theorem resetComplete_iff {taken : List ResetBlock} : resetComplete taken = true ↔ ∀ b, b ∈ taken := by
  simp only [resetComplete, List.all_eq_true, decide_eq_true_eq]
  exact ⟨fun h b => h b (mem_allBlocks b), fun h b _ => h b⟩

end Sys2Proof.Machine
end

