-- ==== Sys2Proof/Laws/Sources.lean ====
section
/-! SUPPORT. What pairing, the entries into TRIAL and USABLE, the revert test, the upgrade test and a fault of
the selected source can do (R16, R30 to R34, R63, R66, R69, R72, R76, R78 to R80). -/

namespace Sys2Proof.Machine

open Sys2Proof.Config Sys2Proof.Safety

@[simp] theorem inputOf_inSource (u : InUnit) : inputOf (inSource u) = some u := by
  revert u; decide

@[simp] theorem uplinkOf_inSource (u : InUnit) : uplinkOf (inSource u) = none := by
  revert u; decide

@[simp] theorem uplinkOf_upSource (u : UpUnit) : uplinkOf (upSource u) = some u := by
  simp [uplinkOf, upSource]

@[simp] theorem inputOf_upSource (u : UpUnit) : inputOf (upSource u) = none := by
  simp [inputOf, upSource]

/-! ### Pairing (R32) -/

/-- What it is for a held item's window to have ended (R30, R31). -/
theorem Held.endedBefore_iff (h : Held) (now : Stamp) : h.endedBefore now = true ↔ Overdue h now := by
  cases h <;> simp [Held.endedBefore, Overdue]

/-- A pair is judged in the order of R32. -/
theorem InputUnit.judgePair_judged (i : InputUnit) (tod : TimeOfDay) (c : Stamp) (comp : Int) :
    Judged tod i.anchor i.intervals c comp (i.judgePair tod c comp) := by
  unfold Judged InputUnit.judgePair goodValidity saturate
  refine ⟨fun h => by simp [h], ?_, fun h hj => ?_⟩
  · rintro h ⟨a, ha, hj⟩
    have : ¬tod.seconds = (a + i.intervals.toNat) % secondsModulus := hj
    simp [h, ha, this]
  · cases ha : i.anchor with
    | none => simp [h, phaseBound]
    | some a =>
      have : tod.seconds = (a + i.intervals.toNat) % secondsModulus := by
        by_contra hne
        exact hj ⟨a, ha, hne⟩
      simp [h, this, phaseBound]

/-- A pair formed moves the anchor, presents a GOOD pair's scale offset and hands on its event. -/
theorem State.formPair_eq {s : State} {u : InUnit} {tod : TimeOfDay} {c : Stamp} {comp : Int}
    (hc : s.compensation (inSource u) = some comp) :
    s.formPair u tod c = pairFormed s u tod c comp (s.inputs[u].judgePair tod c comp) [] := by
  unfold State.formPair pairFormed
  simp only [hc, Option.getD_some]
  cases hv : (s.inputs[u].judgePair tod c comp).isGood
  · simp [State.toSelector, State.modFlight, State.modInput]
  · by_cases hs : s.steering.steered = some (inSource u)
    · simp [State.toSelector, State.modFlight, State.modInput, State.followScale, hs, State.modSteering,
        State.unitScale]
    · simp [State.toSelector, State.modFlight, State.modInput, State.followScale, hs]

/-- A held item is dropped as UNPAIRED (R33). -/
theorem State.emitUnpaired_eq (s : State) (u : InUnit) : s.emitUnpaired u = unpaired s u := by
  unfold State.emitUnpaired unpaired
  cases h : s.inputs[u].held <;> rfl

@[simp] theorem unpaired_held (s : State) (u : InUnit) : (unpaired s u).inputs[u].held = .nothing := by
  unfold unpaired
  cases hh : s.inputs[u].held with
  | nothing => simpa using hh
  | pulse c w => simp
  | sentence c w => simp

@[simp] theorem unpaired_timebase (s : State) (u : InUnit) : (unpaired s u).timebase = s.timebase := by
  unfold unpaired
  cases s.inputs[u].held <;> rfl

/-- A held item whose window has ended is settled once (R30, R31). -/
theorem State.settleHeld_of_overdue {s : State} {u : InUnit} {now : Stamp}
    (h : Overdue s.inputs[u].held now) :
    s.settleHeld u now = unpaired s u ∧ (unpaired s u).settleHeld u now = unpaired s u := by
  refine ⟨?_, ?_⟩
  · rw [State.settleHeld, if_pos ((Held.endedBefore_iff _ _).mpr h), State.emitUnpaired_eq]
  · rw [State.settleHeld, if_neg]
    rw [unpaired_held]
    simp [Held.endedBefore]

/-! ### Entry into TRIAL (R34, R66, R72) -/

/-- The unit of an entry that enters TRIAL asks for the descriptor, from FAULTED with a new pulse
sequence. -/
theorem InputUnit.enterTrial_eq (i : InputUnit) (fromFaulted : Bool) :
    i.enterTrial fromFaulted =
      asked (if fromFaulted then
        { i with tracker := .seeking, anchor := none, intervals := 0, held := .nothing } else i) := by
  unfold InputUnit.enterTrial InputUnit.sendRequest asked InputUnit.startSequence
  rcases i with ⟨_, _, _, _, _, _, _, t, _, _, _⟩
  cases t <;> cases fromFaulted <;> rfl

/-- An ABSENT entry moved into TRIAL. -/
theorem State.enterTrial_eq (s : State) (e : Ext) : s.enterTrial e false = intoTrial s e := by
  unfold State.enterTrial intoTrial State.modInputOf
  by_cases h : e.val < 2
  · simp [inputOf, h, State.modEntry, State.modInput, InputUnit.enterTrial_eq]
  · simp [inputOf, h, State.modEntry]

/-! ### The revert test (R78) -/

/-- The revert test is made to its end, given room for as many tests as there are entries. -/
theorem State.revertTest_revertTested {n : Nat} {s : State} (h : s.selector.stack.length ≤ n) :
    RevertTested s (s.revertTest n) := by
  induction n generalizing s with
  | zero =>
    have : s.selector.stack = [] := by simpa using h
    exact .kept s (by simp [this])
  | succ n ih =>
    unfold State.revertTest
    cases hs : s.selector.stack with
    | nil => exact .kept s (by simp [hs])
    | cons t rest =>
      rw [hs, List.length_cons] at h
      by_cases hd : s.selector.settings.revertive = true ∧ s.revertDue t = true
      · simp only [hd.1, hd.2, Bool.and_self, if_true]
        have hd2 := hd.2
        simp only [State.revertDue, State.isUsable, Bool.and_eq_true, decide_eq_true_eq] at hd2
        by_cases hr : s.revertRefused t = true
        · simp only [hr, if_true]
          refine .refused s t rest _ hs hd.1 hd2.1 hd2.2 ?_ (ih (by simpa using h))
          simpa [State.revertRefused, and_assoc] using hr
        · simp only [hr, Bool.false_eq_true, if_false]
          have e : s.selectSource (toSource t.source) =
              if s.selector.selected = toSource t.source then s
              else selecting s (toSource t.source) t.options := by
            simp [State.selectSource_eq, optionsFor, hs, eq_comm]
          rw [e]
          exact .reverted s t rest hs hd.1 hd2.1 hd2.2
            (by simpa [State.revertRefused, and_assoc] using hr)
      · have : (s.selector.settings.revertive && s.revertDue t) = false := by
          simpa [Bool.and_eq_true] using hd
        simp only [this, Bool.false_eq_true, if_false]
        refine .kept s fun t' ht' => ?_
        obtain rfl : t = t' := by simpa [hs] using ht'
        simpa [State.revertDue, State.isUsable] using hd

theorem State.revert_revertTested (s : State) : RevertTested s s.revert :=
  State.revertTest_revertTested (le_refl _)

/-! ### The upgrade test (R63, R80) -/

/-- One source only ranks first. -/
theorem ranksFirst_unique {s : State} {among : Ext → Prop} {a b : Ext} (ha : RanksFirst s among a)
    (hb : RanksFirst s among b) : a = b := by
  by_contra hne
  have x1 := ha.2 b hb.1 (Ne.symm hne)
  have x2 := hb.2 a ha.1 hne
  simp only [Fin.lt_def] at x1 x2
  omega

/-- The upgrade test is made. -/
theorem State.upgradeTest_upgradeTested (s : State) : UpgradeTested s s.upgradeTest := by
  have hext : ∀ i : Source, (extOf i).isSome = true ↔ i ≠ localSource := by
    intro i
    rw [Option.isSome_iff_ne_none, Ne, extOf_eq_none]
  unfold UpgradeTested State.upgradeTest
  dsimp only
  refine ⟨?_, fun a best ha hs hb => ?_⟩
  · rintro (h | h | h)
    · simp [h]
    · simp [hext, h]
    · have : s.bestUsable = none := State.bestUsable_eq_none.mpr h
      simp [this]
  · have h1 : (extOf s.selector.selected).isSome = true := by rw [hs]; simp
    rw [if_pos (by simp [ha, h1])]
    cases hbu : s.bestUsable with
    | none => exact absurd hb.1 (State.bestUsable_eq_none.mp hbu best)
    | some b =>
      obtain rfl : b = best := ranksFirst_unique (State.ranksFirst_of_bestUsable hbu) hb
      have hc : s.classOf s.selector.selected = s.effectiveClass a := by rw [hs]; simp [State.classOf]
      simp only [hc]
      split_ifs with hlt
      · rw [State.selectSource_eq, if_neg]
        rw [hs]
        intro he
        obtain rfl := toSource_injective he
        omega
      · rfl

/-- A change that may move an effective class is followed by the upgrade test when it does. -/
theorem State.withClassChange_classJudged (s : State) (e : Ext) (f : State → State) :
    ClassJudged s (f s) e (s.withClassChange e f) := by
  unfold ClassJudged State.withClassChange
  simp only [State.isUsable, decide_eq_true_eq]
  refine ⟨fun h => ?_, fun h => if_neg h⟩
  rw [if_pos h]
  exact State.upgradeTest_upgradeTested _

/-- A disable of an enabled entry: switched off, the upgrade test when that moves its effective class, and the
revert test when its stack entry was the top and the upgrade left the new top in its place. -/
theorem State.disableSource_cases {s : State} {e : Ext} (h : s.selector.entries[e].state ≠ .disabled) :
    ∃ judged, ClassJudged s (s.switchOff e) e judged ∧
      (s.stackTop = some e ∧ judged.stackTop = (s.switchOff e).stackTop →
        RevertTested judged (s.disableSource e)) ∧
      (¬(s.stackTop = some e ∧ judged.stackTop = (s.switchOff e).stackTop) → s.disableSource e = judged) := by
  refine ⟨_, State.withClassChange_classJudged s e fun t => t.switchOff e, fun ht => ?_, fun ht => ?_⟩ <;>
    unfold State.disableSource <;> rw [if_neg h]
  · exact (if_pos ht).symm ▸ State.revert_revertTested _
  · exact if_neg ht

/-! ### Faults (R72, R75, R76) -/

/-- A change of an entry that leaves it as it is changes nothing. -/
theorem State.modEntry_of_fixed {s : State} {e : Ext} {f : SourceEntry → SourceEntry}
    (h : f s.selector.entries[e] = s.selector.entries[e]) : s.modEntry e f = s := by
  have h2 : s.selector.entries.set e s.selector.entries[e] = s.selector.entries :=
    Vector.set_getElem_self _
  simp only [State.modEntry]
  rw [h, h2]

/-- Faulting an entry, up to the push and the failure switch of a selected one. -/
theorem State.faultEntry_eq (s : State) (e : Ext) (cause : Cause) :
    s.faultEntry e cause =
      if s.selector.selected = toSource e then
        ((faulted s e (causeCode cause)).push e cause).failureSwitch
      else faulted s e (causeCode cause) := by
  have hf : ((s.modEntry e fun n =>
      { n with
        state := .faulted, retry := some s.selector.settings.retryTime, goodRun := 0, missRun := 0
        restore := none }).leaveTrial e).logFault .selector (causeCode cause) e.val
          (((s.modEntry e fun n =>
            { n with
              state := .faulted, retry := some s.selector.settings.retryTime, goodRun := 0, missRun := 0
              restore := none }).leaveTrial e).cycleDetail) = faulted s e (causeCode cause) := by
    unfold State.leaveTrial State.modInputOf faulted
    by_cases he : e.val < 2 <;> simp [inputOf, he] <;> rfl
  unfold State.faultEntry
  dsimp only
  rw [hf]
  rfl

/-- A fault of the selected source pushes it and makes the failure switch. -/
theorem State.faultEntry_of_selected {s : State} {e : Ext} {cause : Cause}
    (h : s.selector.selected = toSource e) :
    FaultedAndLeft s e (causeCode cause) cause (s.faultEntry e cause) := by
  rw [State.faultEntry_eq, if_pos h]
  set g := faulted s e (causeCode cause) with hg
  have gent : ∀ a : Ext, a ≠ e → g.selector.entries[a] = s.selector.entries[a] := by
    intro a ha
    have : ¬e.val = a.val := fun hh => ha (Fin.ext hh.symm)
    simp [hg, faulted, this]
  have gente : g.selector.entries[e].state = .faulted := by simp [hg, faulted]
  let top : StackEntry :=
    ⟨e, cause, s.timebase.time.sec, s.selector.entries[e].learned, s.selector.entries[e].learnedCount,
      s.steering.options⟩
  let p : State := { g with selector := { g.selector with
    stack := top :: s.selector.stack.filter fun v => decide (v.source ≠ e) } }
  have hp : g.push e cause = p := by
    have gl : g.selector.entries[e].learned = s.selector.entries[e].learned := by simp [hg, faulted]
    have gc : g.selector.entries[e].learnedCount = s.selector.entries[e].learnedCount := by
      simp [hg, faulted]
    unfold State.push
    rw [State.modEntry_of_fixed]
    · simp only [State.modSelector, gl, gc]
      rfl
    · show { g.selector.entries[e] with
        restore := if g.selector.entries[e].state = .usable then some 0
          else g.selector.entries[e].restore } = g.selector.entries[e]
      rw [gente]
      rfl
  rw [hp]
  have pent : ∀ a : Ext, a ≠ e → p.selector.entries[a] = s.selector.entries[a] := gent
  have psel : p.selector.selected = toSource e := h
  have popt : ∀ t : Source, optionsFor p.maskOptions t =
      if toSource e = t then s.steering.options else s.steering.options.without s.steering.mask :=
    fun _ => rfl
  have puse : ∀ a : Ext, p.selector.entries[a].state = .usable ↔
      a ≠ e ∧ s.selector.entries[a].state = .usable := by
    intro a
    by_cases ha : a = e
    · subst ha
      have : p.selector.entries[a].state = .faulted := gente
      rw [this]
      simp
    · rw [pent a ha]
      simp [ha]
  rcases State.failureSwitch_cases p with ⟨h1, h2⟩ | ⟨b, h1, h2⟩
  · refine ⟨localSource, .inl ⟨rfl, fun a ha => h2 a ((puse a).mpr ha)⟩, ?_⟩
    have hne : localSource ≠ p.maskOptions.selector.selected := by
      show localSource ≠ p.selector.selected
      rw [psel]
      exact (toSource_ne_local e).symm
    rw [h1, State.selectSource_eq, if_neg hne, popt, if_neg (toSource_ne_local e)]
    rfl
  · have hbe : b ≠ e := ((puse b).mp h1.1).1
    refine ⟨toSource b, .inr ⟨b, rfl, ⟨(puse b).mp h1.1, fun a ha hne => ?_⟩⟩, ?_⟩
    · have hc : ∀ c : Ext, c ≠ e → p.effectiveClass c = s.effectiveClass c := by
        intro c hc
        unfold State.effectiveClass State.advertisedClass
        rw [pent c hc]
        rfl
      have := h1.2 a ((puse a).mpr ha) hne
      rwa [hc a ha.1, hc b hbe, pent a ha.1, pent b hbe] at this
    · have hne : toSource b ≠ p.maskOptions.selector.selected := by
        show toSource b ≠ p.selector.selected
        rw [psel]
        exact fun hh => hbe (toSource_injective hh)
      rw [h2, State.selectSource_eq, if_neg hne, popt, if_neg fun hh => hbe (toSource_injective hh.symm)]
      rfl

/-! ### Entry into USABLE (R69, R78, R79, R80) -/

/-- Recovery from LOCAL or the upgrade test, and the revert test when the entry is the stack top before and
after. -/
theorem State.becomeUsable_cases (s : State) (e : Ext) :
    let v := (s.modEntry e fun n => { n with state := .usable, restore := some 0 }).leaveTrial e
    let top (z : State) : Prop := ∃ d rest, z.selector.stack = d :: rest ∧ d.source = e
    ∃ w,
      (s.selector.selected = localSource →
        ∃ b, RanksFirst v (fun a => v.selector.entries[a].state = .usable) b ∧
          w = selecting v (toSource b) (optionsFor v (toSource b))) ∧
      (s.selector.selected ≠ localSource → UpgradeTested v w) ∧
      (top v ∧ top w → RevertTested w (s.becomeUsable e)) ∧
      (¬(top v ∧ top w) → s.becomeUsable e = w) := by
  intro v top
  have hq : v.selector =
      (s.modEntry e fun n => { n with state := .usable, restore := some 0 }).selector := by
    simp only [v, State.leaveTrial, State.modInputOf]
    split <;> rfl
  have hsel : v.selector.selected = s.selector.selected := by rw [hq]; rfl
  have hus : v.selector.entries[e].state = .usable := by rw [hq]; simp
  have htop : ∀ z : State, z.stackTop = some e ↔ top z := by
    intro z
    simp only [State.stackTop, top]
    cases z.selector.stack <;> simp
  let w : State :=
    if v.selector.selected = localSource then
      v.selectSource ((v.bestUsable.map toSource).getD localSource)
    else v.upgradeTest
  have hb : s.becomeUsable e = if v.stackTop = some e ∧ w.stackTop = some e then w.revert else w := rfl
  refine ⟨w, fun h => ?_, fun h => ?_, fun h => ?_, fun h => ?_⟩
  · have hw : w = v.selectSource ((v.bestUsable.map toSource).getD localSource) := if_pos (hsel.trans h)
    cases hbu : v.bestUsable with
    | none => exact absurd hus (State.bestUsable_eq_none.mp hbu e)
    | some b =>
      refine ⟨b, State.ranksFirst_of_bestUsable hbu, ?_⟩
      rw [hw, hbu, Option.map_some, Option.getD_some, State.selectSource_eq, if_neg]
      rw [hsel, h]
      exact toSource_ne_local b
  · have hw : w = v.upgradeTest := if_neg (by rw [hsel]; exact h)
    rw [hw]
    exact State.upgradeTest_upgradeTested v
  · rw [hb, if_pos ⟨(htop v).mpr h.1, (htop w).mpr h.2⟩]
    exact State.revert_revertTested w
  · rw [hb, if_neg fun hh => h ⟨(htop v).mp hh.1, (htop w).mp hh.2⟩]

end Sys2Proof.Machine
end

