-- ==== Sys2Proof/Laws/Entries.lean ====
section
/-! SUPPORT. Where the entries of a unit stand, and what a WRITE ENTRY of a setting does: its checks passed,
and a numeric or enumerated value stored or refused (R163, R178). -/

namespace Sys2Proof.Machine

open Sys2Proof.Config Sys2Proof.Safety

theorem clamp_bounds {lo hi v : Int} (h : lo ≤ hi) : lo ≤ clamp lo hi v ∧ clamp lo hi v ≤ hi := by
  unfold clamp
  split_ifs <;> omega

/-- The open indices of a link are its own notice and fault settings (R181). -/
theorem ownSettings_iff {r : Running} {sect index : Nat} :
    ownSettings r.link sect index = true ↔ OwnSetting r sect index := by
  unfold ownSettings noticeIndex OwnSetting
  by_cases h : 32 ≤ index ∧ index < 80
  · simp only [h, and_self, dite_true, Bool.and_eq_true, decide_eq_true_eq, Fin.ext_iff]
    omega
  · simp only [h, dite_false, Bool.and_false, Bool.false_eq_true, false_iff]
    have := r.link.isLt
    omega

/-- A write that passes the checks comes to what the entry's own store says (R178). -/
theorem State.runWriteEntry_of_mayWrite {s : State} {r : Running} {sect index : Nat} {value : List Byte}
    (h : MayWrite s r sect index) (h8 : sect < 8) (hl : s.readEntry sect index 0 ≠ none) :
    s.runWriteEntry r sect index value =
      match s.storeEntry sect index value with
      | .readOnly => s.answer r .refused
      | .refuse st => s.answer r st
      | .store t clamped => t.respond r (if clamped then .okClamped else .ok) (t.valueAt sect index) := by
  unfold State.runWriteEntry
  have h1 : (s.access.canWrite r.link sect || ownSettings r.link sect index) = true := by
    rw [Bool.or_eq_true, ownSettings_iff]
    exact h.1
  have h2 : (s.readEntry sect index 0).isNone = false := by
    rwa [Option.isNone_eq_false_iff, Option.isSome_iff_ne_none]
  exact (if_neg (by omega)).trans <| (if_neg (by simp [h1])).trans <| (if_neg (by simp [h2])).trans <|
    (if_neg (by omega)).trans <| if_neg (by simp [h.2])

/-- What the write of a numeric setting does, from how it is stored and read (R178). -/
theorem numericWrite_of_storeNum {c : Instr} {row : WriteRow} {s : State} {r : Running}
    {sect index bytes : Nat} {lo hi : Int} {store : Int → State}
    (hc : exec c s = .next (s.writeAs row)) (hrow : ∀ value, writeRow sect index value = row)
    (h8 : sect < 8) (hl : s.readEntry sect index 0 ≠ none) (hb : fieldWidth lo hi = bytes) (hlh : lo ≤ hi)
    (hs : ∀ value, s.storeEntry sect index value = storeNum lo hi value store)
    (hr : ∀ m, lo ≤ m → m ≤ hi →
      (store m).readEntry sect index 0 = some (if lo < 0 then beInt bytes m else beBytes bytes m.toNat)) :
    NumericWrite c s r sect index bytes lo hi store := by
  intro value hv hm v m
  have e : exec c s = .next (s.runWriteEntry r sect index value) := by
    rw [hc, State.writeAs_of_runs hv (hrow value)]
  rw [e, State.runWriteEntry_of_mayWrite hm h8 hl, hs, storeNum]
  refine ⟨fun hne => ?_, fun he => ?_⟩
  · rw [decField, if_neg (by rw [hb]; exact hne)]
    rfl
  · rw [decField, if_pos (by rw [hb]; exact he)]
    have hb := clamp_bounds (v := v) hlh
    show Host.Outcome.next (State.respond (store m) r (if decide (m ≠ v) = true then .okClamped else .ok)
      ((store m).valueAt sect index)) = _
    rw [State.valueAt, hr m hb.1 hb.2, Option.getD_some]
    by_cases hmv : m = v <;> simp [hmv]

/-- What the write of an enumerated setting does, from how it is stored and read (R178). -/
theorem enumWrite_of_storeEnum {c : Instr} {row : WriteRow} {s : State} {r : Running}
    {sect index n : Nat} {store : Byte → State}
    (hc : exec c s = .next (s.writeAs row)) (hrow : ∀ value, writeRow sect index value = row)
    (h8 : sect < 8) (hl : s.readEntry sect index 0 ≠ none)
    (hs : ∀ value, s.storeEntry sect index value =
      storeEnum n value fun k => store (BitVec.ofNat 8 k))
    (hr : ∀ b : Byte, b.toNat < n → (store b).readEntry sect index 0 = some [b]) :
    EnumWrite c s r sect index n store := by
  intro value hv hm
  have e : exec c s = .next (s.runWriteEntry r sect index value) := by
    rw [hc, State.writeAs_of_runs hv (hrow value)]
  rw [e, State.runWriteEntry_of_mayWrite hm h8 hl, hs]
  refine ⟨?_, fun hbad => ?_⟩
  · rintro b rfl hb
    simp [storeEnum, hb, State.valueAt, hr b hb]
  · have : storeEnum n value (fun k => store (BitVec.ofNat 8 k)) = .refuse .badValue := by
      unfold storeEnum
      split
      · next b =>
        rw [if_neg]
        have := hbad b rfl
        omega
      · rfl
    rw [this]
    rfl

/-- Only the values below `n` matter to an enumerated store. -/
theorem storeEnum_congr {n : Nat} {value : List Byte} {f g : Nat → State} (h : ∀ k < n, f k = g k) :
    storeEnum n value f = storeEnum n value g := by
  unfold storeEnum
  split
  · next b =>
    split_ifs with hb
    · rw [h _ hb]
    · rfl
  · rfl

/-- A set of `n` members is stored as an enumerated value below 2 ^ n. -/
theorem storeSet_eq_storeEnum (n : Nat) (value : List Byte) (f : Byte → State) :
    storeSet n value f = storeEnum (2 ^ n) value fun k => f (BitVec.ofNat 8 k) := by
  unfold storeSet storeEnum
  split <;> simp

/-! ### Where the entries of a unit stand (R64, R148, R160, R194) -/

theorem State.readEntry_source (s : State) (e : Ext) {off : Nat} (h : off < 32) (x : Elapsed) :
    s.readEntry 2 (32 * e.val + off) x = s.readSource e off := by
  have := e.isLt
  have h1 : (32 * e.val + off) / 32 = e.val := by omega
  have h2 : (32 * e.val + off) % 32 = off := by omega
  simp [State.readEntry, State.readSources, h1, h2]

theorem State.storeEntry_source (s : State) (e : Ext) {off : Nat} (h : off < 32) (value : List Byte) :
    s.storeEntry 2 (32 * e.val + off) value = s.writeSource e off value := by
  have := e.isLt
  have h1 : (32 * e.val + off) / 32 = e.val := by omega
  have h2 : (32 * e.val + off) % 32 = off := by omega
  simp [State.storeEntry, State.writeSources, h1, h2]

theorem State.readSource_inSource (s : State) (u : InUnit) {off : Nat} (h : 16 ≤ off) :
    s.readSource (inSource u) off = s.inputs[u].read off := by
  unfold State.readSource
  split <;> first | omega | simp [State.readUnit]

theorem State.writeSource_inSource (s : State) (u : InUnit) {off : Nat} (h : 16 ≤ off) (value : List Byte) :
    s.writeSource (inSource u) off value = s.writeInput u off value := by
  unfold State.writeSource
  split <;> first | omega | simp [State.writeUnit]

theorem State.readSource_upSource (s : State) (u : UpUnit) {off : Nat} (h : 16 ≤ off) :
    s.readSource (upSource u) off = s.uplinks[u].read off := by
  unfold State.readSource
  split <;> first | omega | simp [State.readUnit]

theorem State.writeSource_upSource (s : State) (u : UpUnit) {off : Nat} (h : 16 ≤ off) (value : List Byte) :
    s.writeSource (upSource u) off value = s.writeUplink u off value := by
  unfold State.writeSource
  split <;> first | omega | simp [State.writeUnit]

theorem State.readEntry_port (s : State) (p : Port) {off : Nat} (h : off < 32) (x : Elapsed) :
    s.readEntry 6 (32 * p.val + off) x = s.ports[p].read off := by
  have := p.isLt
  have h1 : (32 * p.val + off) / 32 = p.val := by omega
  have h2 : (32 * p.val + off) % 32 = off := by omega
  simp [State.readEntry, State.readPorts, h1, h2]

theorem State.storeEntry_port (s : State) (p : Port) {off : Nat} (h : off < 32) (value : List Byte) :
    s.storeEntry 6 (32 * p.val + off) value = s.writePort p off value := by
  have := p.isLt
  have h1 : (32 * p.val + off) / 32 = p.val := by omega
  have h2 : (32 * p.val + off) % 32 = off := by omega
  simp [State.storeEntry, State.writePorts, h1, h2]

theorem State.readEntry_pulse (s : State) (k : PulseOut) {off : Nat} (h : off < 16) (x : Elapsed) :
    s.readEntry 7 (16 * k.val + off) x = s.pulses[k].read off := by
  have := k.isLt
  have h1 : (16 * k.val + off) / 16 = k.val := by omega
  have h2 : (16 * k.val + off) % 16 = off := by omega
  simp [State.readEntry, State.readOutputs, h1, h2]

theorem State.storeEntry_pulse (s : State) (k : PulseOut) {off : Nat} (h : off < 16) (value : List Byte) :
    s.storeEntry 7 (16 * k.val + off) value = s.writePulse k off value := by
  have := k.isLt
  have h1 : (16 * k.val + off) / 16 = k.val := by omega
  have h2 : (16 * k.val + off) % 16 = off := by omega
  simp [State.storeEntry, State.writeOutputs, h1, h2]

theorem State.readEntry_coded (s : State) (m : CodedOut) {off : Nat} (h : off < 16) (x : Elapsed) :
    s.readEntry 7 (64 + 16 * m.val + off) x = s.coded[m].read off := by
  have := m.isLt
  have hm : m.val ≤ 1 := by omega
  have h1 : (64 + 16 * m.val + off) / 16 = m.val + 4 := by omega
  have h2 : (64 + 16 * m.val + off) % 16 = off := by omega
  simp [State.readEntry, State.readOutputs, h1, h2, hm]

theorem State.storeEntry_coded (s : State) (m : CodedOut) {off : Nat} (h : off < 16) (value : List Byte) :
    s.storeEntry 7 (64 + 16 * m.val + off) value = s.writeCoded m off value := by
  have := m.isLt
  have hm : m.val ≤ 1 := by omega
  have h1 : (64 + 16 * m.val + off) / 16 = m.val + 4 := by omega
  have h2 : (64 + 16 * m.val + off) % 16 = off := by omega
  simp [State.storeEntry, State.writeOutputs, h1, h2, hm]

theorem noticeIndex_link (l : Link) {off : Nat} (h : off < 16) :
    noticeIndex (32 + 16 * l.val + off) = some (l, off) := by
  have := l.isLt
  have h0 : 32 ≤ 32 + 16 * l.val + off ∧ 32 + 16 * l.val + off < 80 := by omega
  have h1 : (32 + 16 * l.val + off - 32) / 16 = l.val := by omega
  have h2 : (32 + 16 * l.val + off - 32) % 16 = off := by omega
  simp [noticeIndex, h0, h1, h2]

theorem State.readEntry_notice (s : State) (l : Link) {off : Nat} (h : off < 16) (x : Elapsed) :
    s.readEntry 1 (32 + 16 * l.val + off) x = s.notice.links[l].read off := by
  simp [State.readEntry, State.readControl, noticeIndex_link l h]

theorem State.storeEntry_notice (s : State) (l : Link) {off : Nat} (h : off < 16) (value : List Byte) :
    s.storeEntry 1 (32 + 16 * l.val + off) value = s.writeNotice l off value := by
  simp [State.storeEntry, State.writeControl, noticeIndex_link l h]

end Sys2Proof.Machine
end

