-- ==== Sys2Proof/Laws/Links.lean ====
section
/-! SUPPORT. What a transaction on a management link can do (R167, R169, R170). -/

namespace Sys2Proof.Machine

open Sys2Proof.Config

/-- The byte clocked out is the status byte first, then the response in delivery, then 0x00. -/
theorem LinkUnit.nextOut_eq (k : LinkUnit) (t : Transaction) :
    k.nextOut t =
      if t.out = [] then t.status else (((k.delivery.getD [])[t.out.length - 1]?).getD 0#8) := by
  unfold LinkUnit.nextOut
  rcases t.out with _ | ⟨a, l⟩ <;> simp

/-- The response in delivery has been clocked out once the bytes out exceed its own. -/
theorem LinkUnit.clockedOut_iff {k : LinkUnit} {t : Transaction} (h : k.transaction = some t) :
    k.clockedOut = true ↔ ∃ f, k.delivery = some f ∧ 1 + f.length ≤ t.out.length := by
  simp only [LinkUnit.clockedOut, h]
  cases k.delivery <;> simp

/-- One byte clocked in: ignored, joined to the frame in reception, or its end; one byte is clocked out
in each case. -/
theorem LinkUnit.clockIn_cases {k : LinkUnit} {t : Transaction} (h : k.transaction = some t) (b : Byte) :
    let out := t.out ++ [k.nextOut t]
    ((t.ended = true ∨ t.received = [0#8]) ∧
      k.clockIn b = { k with transaction := some { t with out := out } }) ∨
    (t.ended = false ∧ t.received ≠ [0#8] ∧ frameEnded (t.received ++ [b]) = true ∧
      k.clockIn b =
        { k with
          transaction := some { t with received := t.received ++ [b], ended := true, out := out } }.takeFrame
            (t.received ++ [b])) ∨
    (t.ended = false ∧ t.received ≠ [0#8] ∧ frameEnded (t.received ++ [b]) = false ∧
      k.clockIn b =
        { k with transaction := some { t with received := t.received ++ [b], out := out } }) := by
  unfold LinkUnit.clockIn
  rw [h]
  dsimp only
  split_ifs with h1 h2
  · exact .inl ⟨by simpa using h1, rfl⟩
  · simp only [Bool.or_eq_true, decide_eq_true_eq, not_or, Bool.not_eq_true] at h1
    exact .inr (.inl ⟨h1.1, h1.2, h2, rfl⟩)
  · simp only [Bool.or_eq_true, decide_eq_true_eq, not_or, Bool.not_eq_true] at h1
    exact .inr (.inr ⟨h1.1, h1.2, by simpa using h2, rfl⟩)

/-- A frame that has ended joins the queue and may escalate it, or is dropped with the flag (R170,
R172). -/
theorem LinkUnit.takeFrame_eq (k : LinkUnit) (frame : List Byte) :
    k.takeFrame frame =
      if k.commands.length < 4 then
        { k with
          commands := k.commands ++ [frame]
          escalated := if 4 ≤ k.commands.length + 1 then true
            else if k.commands.length + 1 ≤ 2 then false else k.escalated
          counters := { k.counters with taken := k.counters.taken + 1 } }
      else
        { k with dropped := true, counters := { k.counters with dropped := k.counters.dropped + 1 } } := by
  unfold LinkUnit.takeFrame LinkUnit.judge LinkUnit.count queueDepth
  simp

/-! ### The status byte (R167) -/

/-- The status byte, bit by bit. -/
theorem State.statusByte_getLsbD (s : State) (l : Link) (i : Nat) :
    (s.statusByte l).getLsbD i = true ↔
      (i = 0 ∧ 4 ≤ s.links[l].commands.length) ∨ (i = 1 ∧ s.links[l].responses ≠ []) ∨
      (i = 2 ∧ s.attention l = true) ∨ (i = 3 ∧ s.links[l].dropped = true) := by
  have h : ∀ (a : Prop) [Decidable a] (b c d : Bool), ∀ i < 8,
      ((if a then 1#8 else 0#8) ||| (if b then 0#8 else 2#8) ||| (if c then 4#8 else 0#8) |||
        (if d then 8#8 else 0#8)).getLsbD i = true ↔
        (i = 0 ∧ a) ∨ (i = 1 ∧ b = false) ∨ (i = 2 ∧ c = true) ∨ (i = 3 ∧ d = true) := by
    intro a _ b c d
    by_cases ha : a <;> simp only [ha, if_true, if_false] <;> revert b c d <;> decide
  by_cases hi : i < 8
  · refine (h _ _ _ _ i hi).trans ?_
    simp only [queueDepth, List.isEmpty_eq_false_iff, Ne]
  · rw [BitVec.getLsbD_of_ge _ _ (by omega)]
    simp
    omega

end Sys2Proof.Machine
end

