-- ==== Sys2Proof/Laws/Notices.lean ====
section
/-! SUPPORT. What completion records, cycle-notice conditions, cut cycles and the attention line answer (R186,
R189, R190). -/

namespace Sys2Proof.Machine

open Sys2Proof.Safety

/-- A record is complete when every port has reported and none still has marks due. -/
theorem CompletionRecord.complete_iff {c : CompletionRecord} :
    c.complete = true ↔ ∀ p : Port, c.reports[p] ≠ none ∧ c.reports[p] ≠ some .marksDue := by
  unfold CompletionRecord.complete
  simp only [List.all_eq_true, Vector.mem_toList_iff, Bool.and_eq_true, decide_eq_true_eq]
  refine ⟨fun h p => h _ (Vector.getElem_mem _), fun h x hx => ?_⟩
  obtain ⟨i, hi, rfl⟩ := Vector.getElem_of_mem hx
  exact h ⟨i, hi⟩

/-- CLOSED is applied over MARKS_DUE alone, any other report always. -/
theorem CompletionRecord.apply_eq (c : CompletionRecord) (p : Port) (k : Report) :
    c.apply p k =
      if k = .closed ∧ c.reports[p] ≠ some .marksDue then c
      else { c with reports := c.reports.set p (some k) } := by
  unfold CompletionRecord.apply
  cases k <;> simp

@[simp] theorem CompletionRecord.apply_cycle (c : CompletionRecord) (p : Port) (k : Report) :
    (c.apply p k).cycle = c.cycle := by
  rw [CompletionRecord.apply_eq]
  split_ifs <;> rfl

@[simp] theorem CompletionRecord.foldl_apply_cycle (l : List (Port × PortReport))
    (c : CompletionRecord) : (l.foldl (fun v x => v.apply x.1 x.2.report) c).cycle = c.cycle := by
  induction l generalizing c with
  | nil => rfl
  | cons x l ih => rw [List.foldl_cons, ih, CompletionRecord.apply_cycle]

/-- Judging a link latches CYCLE once the condition of its mode is met, and only once in a cycle. -/
theorem NoticeLink.judge_eq (n : NoticeLink) (whole : Bool) :
    n.judge whole =
      if n.done = false ∧ n.modeNow.met n.delayMet whole = true then
        { n with done := true, latch := n.latch ||| (1#6 <<< 5) }
      else n := by
  cases hd : n.done <;> cases hm : n.modeNow.met n.delayMet whole <;>
    simp [NoticeLink.judge, hd, hm, NoticeLink.take, insertClass, classBit]

/-! ### The complete condition of a cut cycle (R190) -/

/-- The cycle of the record is cut exactly when its next cycle start, on its way, is a resume start, or when
none is on its way and the cut flag is set. -/
theorem State.cycleCut_iff {s : State} : s.cycleCut = true ↔
    (∃ before n i after, s.flight.cyclesToNotice = before ++ .start n true i :: after ∧
      ∀ e ∈ before, ∃ k n flag i, e = CycleEvent.slot k n flag i) ∨
    ((∀ e ∈ s.flight.cyclesToNotice, ∃ k n flag i, e = CycleEvent.slot k n flag i) ∧
      s.cycleTimer.cut = true) := by
  have slot_iff : ∀ e : CycleEvent, e.resumeMark = none ↔ ∃ k n flag i, e = .slot k n flag i := by
    intro e
    cases e <;> simp [CycleEvent.resumeMark]
  unfold State.cycleCut
  simp only [← slot_iff]
  cases h : s.flight.cyclesToNotice.findSome? CycleEvent.resumeMark with
  | none =>
    rw [List.findSome?_eq_none_iff] at h
    refine ⟨fun hc => .inr ⟨h, by simpa using hc⟩, ?_⟩
    rintro (⟨b, n, i, a, hl, -⟩ | ⟨-, hc⟩)
    · simpa [CycleEvent.resumeMark] using h (.start n true i) (by simp [hl])
    · simpa using hc
  | some r =>
    obtain ⟨before, e, after, hl, he, hb⟩ := List.findSome?_eq_some_iff.mp h
    constructor
    · rintro rfl
      obtain ⟨n, resume, i⟩ | ⟨k, n, flag, i⟩ := e
      · simp only [CycleEvent.resumeMark, Option.some.injEq] at he
        exact .inl ⟨before, n, i, after, by rw [hl, he], hb⟩
      · simp [CycleEvent.resumeMark] at he
    · rintro (⟨b, n, i, a, hl', hb'⟩ | ⟨hs, -⟩)
      · rw [hl', List.findSome?_append, List.findSome?_eq_none_iff.mpr hb'] at h
        simpa [List.findSome?_cons, CycleEvent.resumeMark, eq_comm] using h
      · simp [hs e (by simp [hl])] at he

/-- Until the next cycle start is made, the record's cycle is cut once CYCLE_CUT has been run (R112). -/
theorem State.cutCycle_cycleCut {s : State}
    (h : s.flight.cyclesToNotice.findSome? CycleEvent.resumeMark = none) : s.cutCycle.cycleCut = true := by
  simp [State.cycleCut, State.cutCycle, h]

/-- Judging sets whether the complete condition is met and judges each link by it, and changes nothing else. -/
theorem State.judgeCycle_eq {s : State} {c : CompletionRecord} (h : s.notice.completion = some c) :
    s.judgeCycle = { s with notice := { s.notice with
      completeMet := s.meetsComplete c
      links := s.notice.links.map fun n => n.judge (s.meetsComplete c) } } := by
  simp [State.judgeCycle, h, State.mapNotice]

/-- Once a step has cut the cycle of the record, judging meets the complete condition only where it was met
before (R190). -/
theorem State.meetsComplete_of_cut {s : State} (h : s.cycleCut = true) (c : CompletionRecord) :
    s.meetsComplete c = s.notice.completeMet := by
  simp [State.meetsComplete, h]

/-! ### Delivery (R186) -/

theorem NoticeLink.deliverable_iff {n : NoticeLink} {c : NoticeClass} :
    n.deliverable c = true ↔ Deliverable n c := by
  unfold NoticeLink.deliverable NoticeLink.admits Deliverable holds
  cases n.stack <;> simp [and_assoc]

/-- The attention line stands while a response waits or a class is deliverable. -/
theorem State.attention_iff {s : State} {l : Link} : s.attention l = true ↔
    s.links[l].responses ≠ [] ∨ ∃ c, Deliverable s.notice.links[l] c := by
  have hm : ∀ c : NoticeClass, c ∈ allClasses := by
    intro c
    cases c <;> decide
  unfold State.attention NoticeLink.best
  rw [Bool.or_eq_true, List.find?_isSome]
  simp only [NoticeLink.deliverable_iff]
  constructor
  · rintro (h | ⟨c, -, h⟩)
    · exact .inl (by simpa using h)
    · exact .inr ⟨c, h⟩
  · rintro (h | ⟨c, h⟩)
    · exact .inl (by simpa using h)
    · exact .inr ⟨c, hm c, h⟩

end Sys2Proof.Machine
end

