-- ==== Sys2Proof/Laws/Time.lean ====
section
/-! SUPPORT. What the arithmetic of station time, of stamps and of rounding answers (R1 to R6). -/

namespace Sys2Proof.Machine

open Sys2Proof.Config

/-! ### Clamping and rounding (R6) -/

theorem le_clamp {lo hi : Int} (h : lo ≤ hi) (v : Int) : lo ≤ clamp lo hi v := by
  unfold clamp; split_ifs <;> omega

theorem clamp_le {lo hi : Int} (h : lo ≤ hi) (v : Int) : clamp lo hi v ≤ hi := by
  unfold clamp; split_ifs <;> omega

theorem clamp_of_mem {lo hi v : Int} (h : lo ≤ v) (h' : v ≤ hi) : clamp lo hi v = v := by
  unfold clamp; split_ifs <;> omega

theorem clamp_clamp {lo hi : Int} (h : lo ≤ hi) (v : Int) :
    clamp lo hi (clamp lo hi v) = clamp lo hi v :=
  clamp_of_mem (le_clamp h v) (clamp_le h v)

theorem natAbs_saturate_le {m : Int} (h : 0 ≤ m) (v : Int) : ((saturate m v).natAbs : Int) ≤ m := by
  unfold saturate clamp; split_ifs <;> omega

theorem halfAway_neg (num : Int) (den : Nat) : halfAway (-num) den = -halfAway num den := by
  unfold halfAway
  rcases Int.lt_trichotomy num 0 with h | rfl | h
  · simp [h, show ¬(0 < num) by omega]
  · rcases Nat.eq_zero_or_pos den with rfl | hd
    · simp
    · simp [Nat.div_eq_of_lt (show den < 2 * den by omega)]
  · simp [h, show ¬(num < 0) by omega]

/-- The rounded quotient of a number that is not negative lies within a half of the exact one. -/
theorem halfAway_near {num : Int} {den : Nat} (h : 0 ≤ num) (hd : 0 < den) :
    (2 * halfAway num den - 1) * den ≤ 2 * num ∧ 2 * num < (2 * halfAway num den + 1) * den := by
  obtain ⟨n, rfl⟩ := Int.eq_ofNat_of_zero_le h
  have e : halfAway (n : Int) den = (((2 * n + den) / (2 * den) : Nat) : Int) := by
    simp [halfAway, show ¬((n : Int) < 0) by omega]
  rw [e]
  have h1 := Nat.div_mul_le_self (2 * n + den) (2 * den)
  have h2 := Nat.lt_div_mul_add (a := 2 * n + den) (show 0 < 2 * den by omega)
  generalize (2 * n + den) / (2 * den) = q at *
  have h3 : q * (2 * den) = 2 * q * den := by ring
  constructor
  · have : ((2 * q * den : Nat) : Int) ≤ 2 * n + den := by omega
    push_cast at this ⊢; nlinarith
  · have : ((2 * n + den : Nat) : Int) < 2 * q * den + 2 * den := by
      have : 2 * n + den < 2 * q * den + 2 * den := by omega
      exact_mod_cast this
    push_cast at this ⊢; nlinarith

theorem natAbs_towardZero_le (num den : Int) : (towardZero num den).natAbs ≤ num.natAbs := by
  unfold towardZero; rw [Int.natAbs_tdiv]; exact Nat.div_le_self _ _

/-! ### Station time (R1) -/

theorem StationTime.units_ofUnits (z : Int) :
    ((StationTime.ofUnits z).units : Int) = z % (timeModulus : Int) := by
  have h0 : 0 ≤ z % (timeModulus : Int) := Int.emod_nonneg _ (by decide)
  have h1 : z % (timeModulus : Int) < timeModulus := Int.emod_lt_of_pos _ (by decide)
  unfold StationTime.ofUnits StationTime.units
  generalize hn : (z % (timeModulus : Int)).toNat = n
  have hz : (n : Int) = z % (timeModulus : Int) := by omega
  rw [← hz]
  simp only [timeModulus, secondsModulus, nanosPerSecond, unitsPerNano] at *
  norm_cast
  omega

theorem StationTime.ofUnits_normal (z : Int) : (StationTime.ofUnits z).normal = true := by
  have h0 : 0 ≤ z % (timeModulus : Int) := Int.emod_nonneg _ (by decide)
  have h1 : z % (timeModulus : Int) < timeModulus := Int.emod_lt_of_pos _ (by decide)
  unfold StationTime.ofUnits StationTime.normal
  generalize hn : (z % (timeModulus : Int)).toNat = n
  have hl : n < timeModulus := by omega
  simp only [Bool.and_eq_true, decide_eq_true_eq]
  simp only [timeModulus, secondsModulus, nanosPerSecond, unitsPerNano] at *
  omega

theorem StationTime.ofUnits_units {t : StationTime} (h : t.normal = true) :
    StationTime.ofUnits t.units = t := by
  obtain ⟨sec, ns, frac⟩ := t
  simp only [StationTime.normal, Bool.and_eq_true, decide_eq_true_eq] at h
  simp only [secondsModulus, nanosPerSecond, unitsPerNano] at h
  have hl : (sec * 1000000000 + ns) * 4294967296 + frac < timeModulus := by
    simp only [timeModulus, secondsModulus, nanosPerSecond, unitsPerNano]; omega
  have hm : (((sec * 1000000000 + ns) * 4294967296 + frac : Nat) : Int) % (timeModulus : Int) =
      ((sec * 1000000000 + ns) * 4294967296 + frac : Nat) :=
    Int.emod_eq_of_lt (Int.natCast_nonneg _) (Int.ofNat_lt.mpr hl)
  simp only [StationTime.ofUnits, StationTime.units, nanosPerSecond, unitsPerNano, hm,
    Int.toNat_natCast, StationTime.mk.injEq]
  omega

/-! ### Stamps (R4, R5) -/

theorem Stamp.fuCount_ofFu (z : Int) : ((Stamp.ofFu z).fuCount : Int) = z % (fuModulus : Int) := by
  have h0 : 0 ≤ z % (fuModulus : Int) := Int.emod_nonneg _ (by decide)
  have h1 : z % (fuModulus : Int) < fuModulus := Int.emod_lt_of_pos _ (by decide)
  unfold Stamp.ofFu Stamp.fuCount
  generalize hn : (z % (fuModulus : Int)).toNat = n
  have hz : (n : Int) = z % (fuModulus : Int) := by omega
  rw [← hz]
  simp only [fuModulus, secondsModulus, fuPerSecond, fuPerNano, nanosPerSecond] at *
  norm_cast
  omega

theorem Stamp.ofFu_normal (z : Int) : (Stamp.ofFu z).normal = true := by
  have h0 : 0 ≤ z % (fuModulus : Int) := Int.emod_nonneg _ (by decide)
  have h1 : z % (fuModulus : Int) < fuModulus := Int.emod_lt_of_pos _ (by decide)
  unfold Stamp.ofFu Stamp.normal
  generalize hn : (z % (fuModulus : Int)).toNat = n
  have hl : n < fuModulus := by omega
  simp only [Bool.and_eq_true, decide_eq_true_eq]
  simp only [fuModulus, secondsModulus, nanosPerSecond, fuPerSecond, fuPerNano] at *
  omega

theorem secondsDiff_mem (a b : Nat) :
    -140737488355328 ≤ secondsDiff a b ∧ secondsDiff a b < 140737488355328 := by
  unfold secondsDiff secondsModulus
  dsimp only
  split_ifs <;> omega

/-! ### A tick (R2, R3, R111) -/

theorem StationTime.units_lt {t : StationTime} (h : t.normal = true) : t.units < timeModulus := by
  obtain ⟨sec, ns, frac⟩ := t
  simp only [StationTime.normal, Bool.and_eq_true, decide_eq_true_eq] at h
  simp only [timeModulus, StationTime.units, secondsModulus, nanosPerSecond, unitsPerNano] at *
  omega

theorem partOfTick_val (past : Nat) :
    (partOfTick past).val = min 127 ((2 ^ 35 - past) / 2 ^ 28) := rfl

theorem partOfTick_le (past : Nat) : partOfTick past ≤ (127 : Elapsed) :=
  Nat.min_le_left _ _

/-- At a tick's very end the reading is the station time of that tick. -/
@[simp] theorem readingBack_zero (old new : StationTime) : readingBack old new 0 = new.reading 0 := rfl

theorem readingBack_pos {old new : StationTime} {past : Nat} (h : 0 < past) :
    readingBack old new past = old.reading (partOfTick past) :=
  if_neg (Nat.ne_of_gt h)

/-- What an advance of about a tick from a normalized station time hands to the cycle timer: the second
boundary when nanoseconds pass 10^9, else the slot when they pass a multiple of 25 ms, else nothing. -/
theorem crossings_eq {t : StationTime} {a : Nat} (hn : t.normal = true)
    (hl : 34359738368 - 6871947 ≤ a) (hu : a ≤ 34359738368 + 6871947) :
    let sum := t.ns * 2 ^ 32 + t.frac + a
    let k := sum / 2 ^ 32 / 25000000
    let new := StationTime.ofUnits ((t.units + a : Nat) : Int)
    crossings t new =
      if 1000000000 * 2 ^ 32 ≤ sum then
        [.boundary ((t.sec + 1) % 2 ^ 48) (readingBack t new (sum - 1000000000 * 2 ^ 32))]
      else if k ≠ t.ns / 25000000 then
        [.slot k (readingBack t new (sum - k * 25000000 * 2 ^ 32))]
      else [] := by
  obtain ⟨sec, ns, frac⟩ := t
  simp only [StationTime.normal, Bool.and_eq_true, decide_eq_true_eq] at hn
  simp only [secondsModulus, nanosPerSecond, unitsPerNano] at hn
  obtain ⟨⟨h1, h2⟩, h3⟩ := hn
  dsimp only
  have hnew : StationTime.ofUnits (((StationTime.mk sec ns frac).units + a : Nat) : Int) =
      if 1000000000 * 2 ^ 32 ≤ ns * 2 ^ 32 + frac + a then
        ⟨(sec + 1) % 2 ^ 48, (ns * 2 ^ 32 + frac + a) / 2 ^ 32 - 1000000000,
          (ns * 2 ^ 32 + frac + a) % 2 ^ 32⟩
      else ⟨sec, (ns * 2 ^ 32 + frac + a) / 2 ^ 32, (ns * 2 ^ 32 + frac + a) % 2 ^ 32⟩ := by
    unfold StationTime.ofUnits StationTime.units timeModulus secondsModulus nanosPerSecond unitsPerNano
    dsimp only
    split_ifs <;> simp only [StationTime.mk.injEq] <;> (refine ⟨?_, ?_, ?_⟩ <;> omega)
  rw [hnew]
  unfold crossings
  by_cases c : 1000000000 * 2 ^ 32 ≤ ns * 2 ^ 32 + frac + a
  · rw [if_pos c, if_pos c]
    dsimp only [unitsPerNano]
    rw [if_pos (by omega), show ∀ n : Nat, 1000000000 * 2 ^ 32 ≤ n →
      (n / 2 ^ 32 - 1000000000) * 4294967296 + n % 2 ^ 32 = n - 1000000000 * 2 ^ 32 by omega]
    exact c
  · rw [if_neg c, if_neg c]
    dsimp only [unitsPerNano, slotNanos]
    rw [if_neg (by omega), show ∀ n : Nat, n / 2 ^ 32 % 25000000 * 4294967296 + n % 2 ^ 32 =
      n - n / 2 ^ 32 / 25000000 * 25000000 * 2 ^ 32 by omega]
    rfl

end Sys2Proof.Machine
end

