-- ==== Sys2Proof/Laws/Outputs.lean ====
section
/-! SUPPORT. What a tick makes of station time and of the placed times of the outputs (R2, R152, R157). -/

namespace Sys2Proof.Machine

open Sys2Proof.Config Sys2Proof.Safety

/-- A tick moves station time on by 8 × 2^32 + r units exactly (R2). -/
theorem State.tick_units {s : State} (hr : RatesBounded s) :
    (s.tick.timebase.time.units : Int) =
      ((s.timebase.time.units : Int) + 34359738368 + s.timebase.rate) %
        (2 ^ 48 * 1000000000 * 2 ^ 32) := by
  obtain ⟨_, h2, h3, _⟩ := hr
  simp only [rateMax] at h2
  have ha : (s.timebase.advance : Int) = 34359738368 + s.timebase.rate := by
    unfold Timebase.advance tickUnits; omega
  have hu : (s.tick.timebase.time.units : Int) = _ :=
    StationTime.units_ofUnits ((s.timebase.time.units + s.timebase.advance : Nat) : Int)
  rw [hu]
  push_cast
  rw [ha, ← add_assoc]
  rfl

/-- A placed time is noted exactly when the advance carries station time across it. -/
theorem passedBy_passes {start adv : Nat} {next : Stamp} {busy : Elapsed → Bool} {P : Elapsed → Prop}
    (h : ∀ part, busy part = true ↔ P part) : Passes start adv next P (passedBy start adv next busy) := by
  have h0 : 0 ≤ (((next.fuCount * 2 ^ 28 : Nat) : Int) - (start : Int)) %
      (2 ^ 48 * 1000000000 * 2 ^ 32) := Int.emod_nonneg _ (by norm_num)
  have hd : ((unitsTo start next : Nat) : Int) =
      (((next.fuCount * 2 ^ 28 : Nat) : Int) - (start : Int)) % (2 ^ 48 * 1000000000 * 2 ^ 32) :=
    Int.toNat_of_nonneg h0
  unfold Passes passedBy
  dsimp only
  rw [← hd]
  refine ⟨fun hn => if_neg (by omega), fun h1 h2 => ?_⟩
  exact ⟨_, if_pos ⟨by omega, by omega⟩, by dsimp only; omega, rfl, h _⟩

/-- While a step announcement waits, what has passed stays as it is. -/
@[simp] theorem passedOver_of_waits (passed : Option Passing) (start adv : Nat) (next : Stamp)
    (busy : Elapsed → Bool) : passedOver passed true start adv next busy = passed := rfl

/-- A passed time not yet decided ages by the advance. -/
@[simp] theorem passedOver_some (p : Passing) (start adv : Nat) (next : Stamp) (busy : Elapsed → Bool) :
    passedOver (some p) false start adv next busy = some { p with since := p.since + adv } := rfl

/-- With none passed, the next time is tested against the advance. -/
@[simp] theorem passedOver_none (start adv : Nat) (next : Stamp) (busy : Elapsed → Bool) :
    passedOver none false start adv next busy = passedBy start adv next busy := rfl

end Sys2Proof.Machine
end

