-- ==== Sys2Proof/WellFormed.lean ====
section
/-! DEFINITION. The checks on a command's operands: what the outside world can present at that row. -/

namespace Sys2Proof

open Sys2Proof.Machine

/-- Bytes an uplink unit takes as a MARK (R44). -/
def isUplinkMark (bytes : List Byte) : Bool :=
  match uplinkFrame bytes with
  | some (.mark _) => true
  | _ => false

/-- Bytes an uplink unit takes as a STATE (R44). -/
def isUplinkState (bytes : List Byte) : Bool :=
  match uplinkFrame bytes with
  | some (.state _ _) => true
  | _ => false

/-- Bytes an uplink unit takes as a REPLY (R44). -/
def isUplinkReply (bytes : List Byte) : Bool :=
  match uplinkFrame bytes with
  | some (.reply _ _ _ _ _ _) => true
  | _ => false

/-- Bytes an uplink unit counts as a bad or an unexpected frame (R44). -/
def isUplinkUnexpected (bytes : List Byte) : Bool :=
  match uplinkFrame bytes with
  | none => true
  | some (.query _ _) => true
  | some _ => false

/-- Bytes a port takes as a QUERY (R140, R141). -/
def isQuery (bytes : List Byte) : Bool :=
  match readFrame bytes with
  | some (.query _ _) => true
  | _ => false

/-- The classes that an event latches in every link's latch (R185). -/
def latchesEveryLink : NoticeClass → Bool
  | .steeringState => true
  | .sourceSelected => true
  | .timeStepped => true
  | .planActivated => true
  | .faultLogged => false
  | .cycle => false

/-- A command's operands are such as its row can bring. -/
def Instr.wellFormed : Instr → Bool
  | .uplinkMark _ bytes _ => isUplinkMark bytes
  | .uplinkStateMark _ bytes _ => isUplinkState bytes
  | .uplinkReply _ bytes => isUplinkReply bytes
  | .uplinkUnexpectedFrame _ bytes => isUplinkUnexpected bytes
  | .queryReceived _ bytes _ => isQuery bytes
  | .portUnexpectedFrame _ bytes => !isQuery bytes
  | .replyDeparture _ n _ => decide (1 ≤ n) && decide (n ≤ 4)
  | .commandFrameReceived _ bytes => !bytes.isEmpty
  | .serviceReset blocks => !blocks.isEmpty && decide blocks.Nodup
  | .noticeLatch c => latchesEveryLink c
  | _ => true

end Sys2Proof
end

