-- ==== Sys2Proof/Tests/Slice0.lean ====
section
/-! SUPPORT. Tests: the checks of WellFormed, the manual's worked values, and for every statement with
hypotheses a state and operands that meet them. -/

namespace Sys2Proof.Tests

set_option Elab.async false

open Sys2Proof.Machine Sys2Proof.Config Sys2Proof.Safety

/-! ### Helpers -/

/-- The next state of an outcome; the reset state where there is none. -/
def after (o : Host.Outcome State Fault Refusal) : State :=
  match o with
  | .next t => t
  | _ => State.reset

/-- The part after power-on reset with the strap low and every link UP. -/
def up : State :=
  State.powerOn .low (Vector.replicate 2 .up) (Vector.replicate 6 .up) []

/-- A running command of a link, tag 7. -/
def cmd (l : Link) (c : Command) : Running := ⟨l, 7#8, c, []⟩

/-- `s` with the executor running a command of a link. -/
def run (s : State) (l : Link) (c : Command) : State :=
  { s with executor := { s.executor with running := some (cmd l c) } }

/-- `s` running a WRITE ENTRY of a link. -/
def writing (s : State) (l : Link) (sect index : Nat) (value : List Byte) : State :=
  run s l (.writeEntry sect index value)

/-- A WRITE ENTRY that runs and passes the access and guard checks. -/
def Writes (s : State) (l : Link) (sect index : Nat) (value : List Byte) : Prop :=
  Runs (writing s l sect index value) (cmd l (.writeEntry sect index value)) (.writeEntry sect index value) ∧
  MayWrite (writing s l sect index value) (cmd l (.writeEntry sect index value)) sect index

/-- Values at and beyond the ends of a range, and one of no bytes. -/
def edges (bytes : Nat) (lo hi : Int) : List (List Byte) :=
  [[], beInt bytes lo, beInt bytes hi, beInt bytes (hi + 1)]

/-- `s` with one index guarded. -/
def guarding (s : State) (sect index : Nat) : State :=
  { s with access := { s.access with guards := s.access.guards.set 0 ⟨true, sect, index, index⟩ } }

/-- A source entry in a state, selected or not. -/
def entryIn (st : SourceState) : SourceEntry :=
  { PowerOn.sourceEntry with
    state := st
    retry := if st = .faulted then some 1 else none
    restore := if st = .usable then some 60 else none }

/-- `s` with source `e` in a state, its unit started. -/
def withSource (s : State) (e : Ext) (st : SourceState) : State :=
  ((s.modEntry e fun _ => entryIn st).modInputOf e InputUnit.start).modUplinkOf e UplinkUnit.start

/-- IN1 USABLE, selected, and steered by, in a steering state. -/
def onIn1 (st : SteeringState) : State :=
  ((withSource up 0 .usable).modSelector fun q => { q with selected := 0 }).modSteering fun t =>
    { t with state := st, steered := some 0, steeredClass := some 6 }

/-! ### WellFormed: a term each check takes, and one it refuses -/

/-- A MARK of cycle word 5/7,000: departure 7,000 s 999,950 ns, correction 800 fu. -/
def markOf (opening closing : Bool) : MarkFields :=
  ⟨7000, 999950, 800, 1#16, opening, closing, false, false, 1, ⟨5#8, 7000#24⟩⟩

def stateFrame : Frame := .state (markOf true false) ⟨2, 0, 0, -1, 5, 0⟩

def queryFrame : Frame := .query 1 7#16

theorem test_wf_uplinkMark : (Instr.uplinkMark 0 (Frame.mark (markOf true false)).encode 0).wellFormed = true ∧
    (Instr.uplinkMark 0 queryFrame.encode 0).wellFormed = false := by decide +kernel

theorem test_wf_uplinkStateMark : (Instr.uplinkStateMark 1 stateFrame.encode 0).wellFormed = true ∧
    (Instr.uplinkStateMark 1 (Frame.mark (markOf true false)).encode 0).wellFormed = false := by decide +kernel

theorem test_wf_uplinkReply : (Instr.uplinkReply 0 (Frame.reply 1 7#16 7000 5 3 1).encode).wellFormed = true ∧
    (Instr.uplinkReply 0 (Frame.reply 1 7#16 7000 1000000000 3 1).encode).wellFormed = false := by
  decide +kernel

theorem test_wf_uplinkUnexpectedFrame : (Instr.uplinkUnexpectedFrame 0 queryFrame.encode).wellFormed = true ∧
    (Instr.uplinkUnexpectedFrame 0 [1#8, 9#8, 0#8]).wellFormed = true ∧
    (Instr.uplinkUnexpectedFrame 0 (Frame.mark (markOf true false)).encode).wellFormed = false := by
  decide +kernel

theorem test_wf_queryReceived : (Instr.queryReceived 5 queryFrame.encode 0).wellFormed = true ∧
    (Instr.queryReceived 5 (queryFrame.encode.drop 1) 0).wellFormed = false := by decide +kernel

theorem test_wf_portUnexpectedFrame : (Instr.portUnexpectedFrame 0 []).wellFormed = true ∧
    (Instr.portUnexpectedFrame 0 queryFrame.encode).wellFormed = false := by decide +kernel

theorem test_wf_replyDeparture : (Instr.replyDeparture 0 4 127).wellFormed = true ∧
    (Instr.replyDeparture 0 0 0).wellFormed = false ∧ (Instr.replyDeparture 0 5 0).wellFormed = false := by
  decide

theorem test_wf_commandFrameReceived : (Instr.commandFrameReceived 2 [0#8]).wellFormed = true ∧
    (Instr.commandFrameReceived 2 []).wellFormed = false := by decide

theorem test_wf_serviceReset : (Instr.serviceReset allBlocks).wellFormed = true ∧
    (Instr.serviceReset []).wellFormed = false ∧
    (Instr.serviceReset [.notice, .notice]).wellFormed = false := by decide +kernel

theorem test_wf_noticeLatch : (Instr.noticeLatch .timeStepped).wellFormed = true ∧
    (Instr.noticeLatch .cycle).wellFormed = false ∧
    (Instr.noticeLatch .faultLogged).wellFormed = false := by decide

theorem test_wf_others : Instr.oscillatorTick.wellFormed = true ∧ Instr.slotStart.wellFormed = true := by
  decide

/-! ### Chapter 1: the worked values of R5, R6, R16, of the ticks and of the two steps -/

theorem test_rounding : towardZero 7 2 = 3 ∧ towardZero (-7) 2 = -3 ∧ halfAway 5 2 = 3 ∧
    halfAway (-5) 2 = -3 ∧ saturate 1717986 16000000 = 1717986 := by decide +kernel

theorem test_difference_across_wrap :
    (Stamp.mk 0 0 0).diff ⟨281474976710655, 999999999, 15⟩ = 1 := by decide +kernel

theorem test_phase_error_values :
    goodValidity ⟨1200, 0, 3⟩ ⟨1200, 0, 0⟩ 1603 = .good (-1600) (-1600) ∧
    goodValidity ⟨1300, 0, 0⟩ ⟨1200, 0, 0⟩ 0 = .good 1099511627775 1600000000000 := by decide +kernel

/-- The timebase of the tick example at its start. -/
def slow : State :=
  { up with timebase := { up.timebase with time := ⟨1000, 999999990, 1500⟩, rate := -4647 } }

theorem test_ticks_under_negative_rate :
    slow.tick.timebase.time = ⟨1000, 999999997, 4294964149⟩ ∧
    slow.tick.timebase.time.stamp = ⟨1000, 999999997, 15⟩ ∧
    slow.tick.tick.timebase.time = ⟨1001, 5, 4294959502⟩ ∧
    slow.tick.flight.toCycleTimer = [] ∧
    slow.tick.tick.tick.timebase.time = ⟨1001, 13, 4294954855⟩ := by decide +kernel

/-- Tick 2 ends 5.99… ns past the boundary, so 2.00… ns, 32 fu, of it came before: from 999,999,997 ns and
15 fu the reading there is 999,999,999 ns and 15 fu. At rate 0 the tick that ends on slot 20 announces the slot
start's own instant (R4, R111). -/
theorem test_instants_announced :
    slow.tick.tick.flight.toCycleTimer = [.boundary 1001 ⟨1000, 999999999, 15⟩] ∧
    ({ up with timebase := { up.timebase with time := ⟨7000, 499999992, 0⟩ } }).tick.flight.toCycleTimer =
      [.slot 20 ⟨7000, 500000000, 0⟩] := by decide +kernel

/-- The timebase of the two-step example, its low fraction 77. -/
def stepping : State :=
  { up with
    timebase := { up.timebase with time := ⟨5000, 100000000, 3 * 268435456 + 77⟩ }
    flight := { up.flight with stepRequests := [-20000008] } }

theorem test_automatic_step :
    (after (exec (.stepRequestApplied 0) stepping)).timebase.time =
      ⟨5000, 98749999, 11 * 268435456 + 77⟩ ∧
    (after (exec (.stepRequestApplied 0) stepping)).timebase.record =
      some ⟨.steering, -20000008, ⟨5000, 98749999, 11⟩⟩ := by decide +kernel

theorem test_step_time :
    let t := after (exec (.stepTime 0) (run (after (exec (.stepRequestApplied 0) stepping)) 0
      (.stepTime (-2) (-600000000))))
    t.timebase.record = some ⟨.command, -41600000000, ⟨4997, 498749999, 11⟩⟩ ∧
    t.timebase.stepCount = 2 := by decide +kernel

theorem test_rate_limit_clamps_rate :
    let s := { up with timebase := { up.timebase with rate := -1717986 } }
    let t := after (exec .rateLimitWrite (run s 0 (.writeEntry 4 3 [0#8, 0#8, 0#8, 9#8])))
    t.timebase.rate = -9 ∧ t.timebase.rateLimit = 9 := by decide +kernel

theorem test_rate_word_taken :
    (after (exec .rateWordTaken
      { up with flight := { up.flight with rateWords := [-2000000, 4] } })).timebase.rate = -1717986 := by
  decide +kernel

/-- READ TIME answers stamp, rate word and step count: 19 payload bytes and 4 more. -/
theorem test_read_time :
    ((after (exec (.readTime 5) (run up 1 .readTime))).links[(1 : Link)].responses.map List.length) = [23] :=
  by decide +kernel

/-! ### Chapter 2: the FOLLOWS sequence, auto-rate, the request -/

/-- IN1 of the sequence: enabled, compensation 4,800 fu. -/
def in1 : State :=
  (withSource up 0 .trial).modEntry 0 fun n => { n with cableDelay := 4800 }

/-- `in1` after the pulse of row 1. -/
def row1 : State := in1.pulse 0 ⟨2001, 350, 0⟩

theorem test_follows_row1 :
    row1.inputs[(0 : InUnit)].tracker = .tracking ⟨2002, 350, 0⟩ 100000 ∧
    row1.inputs[(0 : InUnit)].held = .pulse ⟨2001, 350, 0⟩ ⟨2001, 800000350, 0⟩ ∧
    row1.flight.toSelector[(0 : Ext)] = [.report .accepted] := by decide +kernel

/-- `row1` after the sentence of row 2. -/
def row2 : State := row1.pairSentence 0 ⟨2001, 37, true, 1⟩ ⟨2001, 180000000, 0⟩

theorem test_follows_row2 :
    row2.inputs[(0 : InUnit)].anchor = some 2001 ∧ row2.inputs[(0 : InUnit)].lastScale = 37 ∧
    row2.flight.toSelector[(0 : Ext)] = [.report .accepted,
      .phase ⟨0, .good 800 800, some ⟨2001, 0, 0⟩, some ⟨2001, 350, 0⟩, some 4800⟩] := by decide +kernel

theorem test_follows_row3_stray :
    (row2.pulse 0 ⟨2001, 512000000, 0⟩).inputs[(0 : InUnit)] = row2.inputs[(0 : InUnit)] ∧
    (row2.pulse 0 ⟨2001, 512000000, 0⟩).flight.toSelector[(0 : Ext)].drop 2 = [.report .stray] := by
  decide +kernel

/-- `row2` when station time has passed 2,002 s 100,350 ns. -/
def row4 : State :=
  after (exec (.pulseWindowMiss 0)
    { row2 with timebase := { row2.timebase with time := ⟨2002, 100350, 268435456⟩ } })

theorem test_follows_row4_miss :
    row4.inputs[(0 : InUnit)].tracker = .tracking ⟨2003, 350, 0⟩ 100000 ∧
    row4.inputs[(0 : InUnit)].intervals = 1 ∧
    row4.flight.toSelector[(0 : Ext)].drop 2 = [.report .miss] := by decide +kernel

/-- Rows 5 to 7: an orphan, a pulse inside the window, a GOOD event of +160. -/
theorem test_follows_rows_5_to_7 :
    let r5 := row4.pairSentence 0 ⟨2002, 37, true, 1⟩ ⟨2002, 180000000, 0⟩
    let r7 := (r5.pulse 0 ⟨2003, 310, 0⟩).pairSentence 0 ⟨2003, 37, true, 1⟩ ⟨2003, 180000000, 0⟩
    r5.inputs[(0 : InUnit)].counters.orphans = 1 ∧
    r7.flight.toSelector[(0 : Ext)].drop 4 =
      [.phase ⟨0, .good 160 160, some ⟨2003, 0, 0⟩, some ⟨2003, 310, 0⟩, some 4800⟩] := by decide +kernel

/-- Row 9: 2,006 against the expected 2,004. -/
theorem test_follows_row9_jump :
    ({ PowerOn.input with anchor := some 2003, intervals := 1 }).judgePair ⟨2006, 0, true, 1⟩
      ⟨2004, 305, 0⟩ 4800 = .bad .secondsJump := by decide +kernel

theorem test_auto_rate : measuredDivisor 32552 = 406 ∧ measuredDivisor 65104 = 813 := by decide +kernel

theorem test_request_check : byteSum (requestBytes.drop 1) = 0#8 := by decide +kernel

theorem test_parity : parityGood .even 0x31#8 true = true ∧ parityGood .odd 0x31#8 true = false ∧
    parityGood .none 0x31#8 false = true := by decide +kernel

theorem test_break_ends_partial_sentence :
    let s := up.modInput 0 fun i => { i with receiver := .inBreak, assembler := .length 0x31#8 }
    let t := after (exec (.breakEnd 0) s)
    t.inputs[(0 : InUnit)].counters.badSentences = 1 ∧ t.inputs[(0 : InUnit)].assembler = .lead := by
  decide +kernel

/-- CLEAR while the low is counted: the line is still low, and 11 bit times of it are a break (R25, R42). -/
theorem test_clear_then_break :
    let s := in1.modInput 0 fun i => { i with receiver := .counting .none 5 }
    let t := after (exec .autoRateArmWrite (run s 0 (.writeEntry 2 19 [0#8])))
    t.inputs[(0 : InUnit)].receiver = .lowIdle ∧
    (after (exec (.breakDetected 0) t)).inputs[(0 : InUnit)].receiver = .inBreak := by decide +kernel

/-- The lead has the parity of its start edge: 11 bits of 16 × 407 ticks, less the 32,552 counted. -/
theorem test_measured_lead_keeps_its_parity :
    let s := in1.modInput 0 fun i => { i with receiver := .counting .even 32552, assembler := .lead }
    let t := after (exec (.autoRateMeasurement 0) s)
    t.inputs[(0 : InUnit)].settings.parity = .none ∧
    t.inputs[(0 : InUnit)].receiver = .leadWait 39080 false := by decide +kernel

/-! ### Chapter 3: one mark's times, the five cycles -/

theorem test_mark_times :
    markT1 { markOf true true with seconds := 7001, correction := 803 } = ⟨7001, 1000000, 3⟩ ∧
    ({ PowerOn.uplink .up 1 with settings := ⟨800, 800, 1, 20, 1, 1600000⟩ }).t2 ⟨7001, 1005150, 6⟩ =
      ⟨7001, 1005100, 6⟩ ∧
    (Stamp.mk 7001 1005100 6).diff ⟨7001, 1000000, 3⟩ = 81603 := by decide +kernel

/-- UP1 of the five cycles, after row 1. -/
def up1 : State :=
  (withSource up 2 .trial).modUplink 0 fun i =>
    { i with settings := ⟨800, 800, 1, 20, 1, 1600000⟩, judging := true }

/-- After row 4: an opening and a closing mark of word 5/7,000. -/
def row4up : State :=
  (up1.takeMark 0 (markOf true false) ⟨7000, 1005150, 0⟩).takeMark 0 (markOf false true) ⟨7000, 9, 0⟩

theorem test_confirmed_cycle :
    row4up.uplinks[(0 : UpUnit)].forward = some 81600 ∧ row4up.uplinks[(0 : UpUnit)].released = true ∧
    row4up.flight.toSelector[(2 : Ext)] = [.phase ⟨2, .bad .badDelayAbsent, some ⟨7000, 1000000, 0⟩,
      some ⟨7000, 1005100, 0⟩, none⟩] := by decide +kernel

/-- After row 6: the query of cycle 7,000 and its reply. -/
def row6up : UplinkUnit :=
  (row4up.uplinks[(0 : UpUnit)].querySlot 0 7000 false ⟨7000, 500000000, 0⟩).takeReply 1 1#16
    ⟨7000, 500004950, 0⟩

theorem test_ranging : row6up.window = [80000] ∧ row6up.mean = some 80000 ∧ row6up.outstanding = none := by
  decide +kernel

/-- Row 5: the query leaves at the slot start's instant, however late it is run; t3 is 50 ns later (R52). -/
theorem test_query_leaves_at_slot_start :
    let s := { up1 with
      timebase := { up1.timebase with time := ⟨7003, 0, 0⟩ }
      flight := { up1.flight with
        cyclesToUplink := #v[[.slot 20 7000 false ⟨7000, 500000000, 0⟩], []] } }
    (after (exec (.uplinkQuerySlot 0 127) s)).uplinks[(0 : UpUnit)].outstanding =
      some ⟨1#16, 1, ⟨7000, 500000050, 0⟩, 0⟩ := by decide +kernel

/-- Row 8: the single-mark cycle of 7,001 gives e = +1,603. -/
theorem test_single_mark_cycle :
    ((row4up.modUplink 0 fun _ => row6up).takeMark 0
      { markOf true true with seconds := 7001, correction := 803, word := ⟨5#8, 7001#24⟩ }
      ⟨7001, 1005150, 6⟩).flight.toSelector[(2 : Ext)].drop 1 =
    [.phase ⟨2, .good 1603 1603, some ⟨7001, 1000000, 3⟩, some ⟨7001, 1005100, 6⟩, some 80000⟩] := by
  decide +kernel

/-- Row 10: (81,603 + 78,400) / 2 rounds toward zero to 80,001, and the mean to 80,000. -/
theorem test_delay_rounding :
    formDelay 81603 ⟨7001, 500004950, 0⟩ ⟨7001, 500000050, 0⟩ = 80001 ∧
    ({ row6up with window := [80000, 80001] }).mean = some 80000 := by decide +kernel

/-- Rows 15 and 18: an outstanding query is given up at its second cycle start. -/
theorem test_query_given_up :
    let i := { row6up with outstanding := some ⟨3#16, 1, ⟨7002, 500000050, 0⟩, 0⟩ }
    i.age.outstanding.isSome = true ∧ i.age.age.outstanding = none ∧
    i.age.age.counters.queriesLost = 1 := by decide +kernel

/-! ### Chapter 4: the learned offset, the two failures -/

theorem test_learned_offset_settles :
    ((List.range 8).foldl (fun (l : List SourceEntry) _ => l ++ [(l.getLast?.getD PowerOn.sourceEntry).learn 800])
      []).map (·.learned) = [100, 187, 263, 330, 388, 439, 484, 523] := by decide +kernel

/-- The sources of the example before cycle 10,000. -/
def three : State :=
  let s := withSource (withSource (onIn1 .locked) 1 .usable) 2 .usable
  let s := s.modEntry 0 fun n => { n with cls := 1, learned := 40, learnedCount := 255 }
  let s := s.modEntry 1 fun n => { n with cls := 1, priority := 1, learned := 120, learnedCount := 255 }
  let s := s.modEntry 2 fun n => { n with cls := 2, learned := -300, learnedCount := 255 }
  { s with timebase := { s.timebase with time := ⟨10000, 0, 0⟩ } }

/-- Rows 1 and 2. -/
def failed : State :=
  let s := three.faultEntry 0 .loss
  State.faultEntry { s with timebase := { s.timebase with time := ⟨10005, 0, 0⟩ } } 1 .unlockedReceiver

theorem test_two_failures :
    failed.selector.selected = 2 ∧ failed.steering.options = ⟨false, true, true⟩ ∧
    failed.selector.stack =
      [⟨1, .unlockedReceiver, 10005, 120, 255, ⟨false, true, true⟩⟩,
       ⟨0, .loss, 10000, 40, 255, ⟨true, true, true⟩⟩] ∧
    failed.selector.entries[(0 : Ext)].retry = some 30 := by decide +kernel

/-- Rows 7 and 8: IN2's entry is refused, IN1's revert made with its options. -/
theorem test_refused_revert_and_revert :
    let s := (failed.modEntry 0 fun n => { n with state := .usable, restore := some 65, learned := 200 }).modEntry
      1 fun n => { n with state := .usable, restore := some 60, learned := -15950 }
    s.revert.selector.selected = 0 ∧ s.revert.selector.stack = [] ∧
    s.revert.steering.options = ⟨true, true, true⟩ ∧
    (s.revert.flight.faults.drop 2).map (·.2.code) = [5] := by decide +kernel

/-- IN1 selected with IN2 and UP1 below it; UP1 qualifies, the upgrade selects IN2, and UP1, now the top,
is not tested before the next cycle start (R78, R80). -/
theorem test_new_top_waits_for_cycle_start :
    let s := (withSource (withSource (onIn1 .acquire) 1 .usable) 2 .trial).modSelector fun q =>
      { q with
        settings := { q.settings with autoUpgrade := true, waitToRestore := 0 }
        stack := [⟨1, .loss, 7, 0, 0, ⟨true, true, true⟩⟩, ⟨2, .loss, 6, 0, 0, ⟨true, true, true⟩⟩] }
    let s := (s.modEntry 1 fun n => { n with cls := 0 }).modEntry 2 fun n => { n with goodRun := 9 }
    let t := after (exec (.selectorPhaseEvent 2) (s.toSelector 2 (.phase ⟨2, .good 0 0, none, none, none⟩)))
    t.selector.entries[(2 : Ext)].state = .usable ∧ t.selector.selected = 1 ∧
    t.selector.stack.map (·.source) = [2] := by decide +kernel

/-- IN1 of class 1 selected, UP1 of class 0 waiting (as a SWITCH SOURCE leaves it): IN2 disabled with a
descriptor whose class made its own worse makes the upgrade test (R37, R80), and without one it does not. -/
theorem test_descriptor_cleared_upgrades :
    let s := (three.modEntry 2 fun n => { n with cls := 0 }).modSelector fun q =>
      { q with settings := { q.settings with autoUpgrade := true } }
    let t := s.modEntry 1 fun n => { n with descriptor := some ⟨none, some 3, List.replicate 8 0#8⟩ }
    (t.disableSource 1).selector.selected = 2 ∧ (s.disableSource 1).selector.selected = 0 := by decide +kernel

/-! ### Chapter 5: the filter, holdover -/

/-- The unit of the acquisition example. -/
def acquiring : Steering :=
  { PowerOn.steering with
    state := .acquire, integral := 40000, settings := { PowerOn.steering.settings with pa := 2, ia := 4 } }

theorem test_acquisition_events :
    acquiring.filter 3200 = (-4647, 46872) ∧
    ({ acquiring with integral := 46872 }).filter (-480) = (-2608, 45841) := by decide +kernel

theorem test_clamped_candidate :
    let t := { acquiring with integral := 0, settings := PowerOn.steering.settings }
    t.filter 16000000 = (-21474836, 34359738) ∧ handedWord 1717986 (-21474836) = -1717986 ∧
    (t.accept 1717986 (-21474836) 34359738).integral = 0 := by decide +kernel

theorem test_holdover_word : ringMean [-2608, -2590, -2611, -2604, -2597, -2615] = -2604 := by decide +kernel

theorem test_holdover_classes :
    let s (age : Nat) : State :=
      up.modSteering fun t => { t with state := .holdover, origin := some ⟨0, 1⟩, age := age }
    (s 3599).outputClass = 2 ∧ (s 3600).outputClass = 3 ∧ (s 17999).outputClass = 6 ∧
    (s 18000).outputClass = 7 ∧ (s 86399).outputClass = 7 := by decide +kernel

/-! ### Chapter 6: trimming, arming and relabel -/

/-- The map of D2 in the trimming example. -/
def trimExample : List SlotEntry :=
  [.state, .idle, .answer, .idle, .idle, .mark, .idle, .idle, .idle, .idle, .mark, .idle, .idle, .idle, .idle,
    .answer, .idle, .idle, .idle, .idle, .mark, .idle, .idle, .idle, .idle, .state, .idle, .idle, .idle, .idle,
    .mark, .idle, .idle, .idle, .idle, .idle, .idle, .idle, .idle, .mark]

theorem test_trim :
    trimMap 13 trimExample = trimExample.take 25 ++ List.replicate 15 .idle ∧
    trimMap 40 trimExample = trimExample ∧ closesCycle (trimMap 13 trimExample) 20 = true ∧
    closesCycle (trimMap 13 trimExample) 10 = false := by decide +kernel

/-- Bank A ACTIVE with plan 3, bank B PENDING with plan 4. -/
def armedB : PlanStore :=
  ⟨{ PowerOn.bank with planId := 3, role := .active }, { PowerOn.bank with planId := 4, role := .pending }, none⟩

theorem test_arming :
    armedB.arm .a 9 = none ∧ armedB.activate.a.role = .inactive ∧ armedB.activate.b.role = .active ∧
    (armedB.activate.arm .b 7).map (·.relabel) = some (some 7) ∧
    ((armedB.activate.arm .b 7).bind fun p => p.arm .a 9) = none := by decide +kernel

/-- An epoch boundary activates; between boundaries only a resume start does. -/
theorem test_activation_points :
    isActivation ⟨none, none, false, false, 10⟩ armedB 5010 = true ∧
    isActivation ⟨none, none, false, false, 10⟩ armedB 5019 = false ∧
    isActivation ⟨none, none, true, true, 10⟩ armedB 5019 = true := by decide +kernel

/-! ### Chapter 7: one departure, a query's arrival -/

/-- D4 with the mark of slot 20 of cycle 6,200 scheduled. -/
def d4 : State :=
  let s := ((onIn1 .locked).modEntry 0 fun n => { n with cls := 1 }).modPort 3 fun q =>
    { q with
      state := .serving, seq := 41001#16, settings := { q.settings with egress := 1200 }
      map := some (List.replicate 20 .idle ++ [.mark] ++ List.replicate 19 .idle)
      word := some ⟨4#8, 6200#24⟩, cycle := 6200
      departures := [⟨⟨6200, 500000000, 0⟩, false, .mark 20⟩] }
  { s with timebase := { s.timebase with time := ⟨6200, 500000000, 0⟩ } }

theorem test_one_departure :
    let t := after (exec (.markDeparture 3 5) d4)
    t.ports[(3 : Port)].sent.map (fun f => (f.destination, f.etherType, f.data)) =
      [(0xFFFFFFFFFFFF#48, 0x9C5A#16,
        .mark ⟨6200, 500000000, 1205, 41002#16, true, true, false, false, 1, ⟨4#8, 6200#24⟩⟩)] ∧
    t.flight.reports[(3 : Port)] = [⟨6200, .closed⟩] := by decide +kernel

/-- A backward step of 1 s after the mark's instant and before the cut: it leaves in stepped time (R135). -/
theorem test_mark_leaves_after_backward_step :
    let s := { d4.tick with timebase := { d4.timebase with time := ⟨6199, 500000008, 0⟩ } }
    let t := after (exec (.markDeparture 3 0) s)
    t.ports[(3 : Port)].departures = [] ∧ t.ports[(3 : Port)].counters.marks = 1 ∧
    t.flight.reports[(3 : Port)] = [⟨6200, .closed⟩] := by decide +kernel

/-- The same within the tick of the instant, 5 fu into it: a step of 1 s back at fu 9, no tick between, and
the mark leaves before the cut; a step at fu 4, before the instant, and it waits (R135). -/
theorem test_mark_leaves_after_step_in_its_tick :
    let s := d4.modPort 3 fun q => { q with departures := [⟨⟨6200, 500000000, 5⟩, false, .mark 20⟩] }
    let left (x : Elapsed) := (after (exec (.markDeparture 3 10)
      (s.applyStep .steering (-16000000000) x))).ports[(3 : Port)].counters.marks
    left 9 = 1 ∧ left 4 = 0 := by decide +kernel

/-- Two replies, the first begun by the reading alone: after a step back of 1 s in that tick the second
leaves too (R145); with `n` 0 the entries stay in the queue. -/
theorem test_begun_group_leaves_after_step :
    let s := d4.modPort 3 fun q =>
      { q with
        answers := [⟨1, 7#16, ⟨6200, 0, 0⟩, 2⟩, ⟨2, 8#16, ⟨6200, 0, 0⟩, 2⟩]
        departures := [⟨⟨6200, 500000000, 5⟩, false, .reply none⟩] }
    let t := (after (exec (.replyDeparture 3 1 9) s)).applyStep .steering (-16000000000) 9
    (after (exec (.replyDeparture 3 1 9) t)).ports[(3 : Port)].counters.replies = 2 ∧
    (after (exec (.replyDeparture 3 0 9) s)).ports[(3 : Port)].answers.length = 2 := by decide +kernel

theorem test_query_arrival :
    let s := (up.modPort 2 fun q =>
      { q with state := .serving, settings := { q.settings with ingress := 800 } })
    ((s.takeQuery 2 1 7#16 ⟨6200, 120004000, 3⟩).ports[(2 : Port)].answers) =
      [⟨1, 7#16, ⟨6200, 120003950, 3⟩, 2⟩] := by decide +kernel

/-! ### Chapter 8: a backward step under a pulse, sentence lengths -/

/-- O1 of the example at row 1: offset −100 ms, width 300,000 µs. -/
def o1 : PulseUnit :=
  { PowerOn.pulse with offset := -100000000, width := 300000, next := ⟨1000, 900000000, 0⟩ }

/-- O1 after row 1: the rise time passed at the start of its tick, on a LOW line. -/
def o1High : PulseUnit := o1.rise ⟨0, 0, false⟩ 1 false

/-- O1 after row 2, the step of −200 ms. -/
def o1Stepped : PulseUnit := o1High.stepped ⟨.command, -3200000000, ⟨1000, 800000000, 0⟩⟩ 0

theorem test_pulse_example :
    o1High.high = true ∧ o1High.fall = 37500000 ∧ o1High.next = ⟨1001, 900000000, 0⟩ ∧
    o1Stepped.next = ⟨1000, 900000000, 0⟩ ∧ o1Stepped.passed = none ∧
    (o1Stepped.rise ⟨0, 0, true⟩ 1 false).overlapped = 1 := by decide +kernel

/-- A tick from 0 s 999,999,998 ns: it crosses 1.0.0 2 ns, 32 fu, in and ends 6 ns past it. -/
def acrossSecond (o : PulseUnit) : PulseUnit :=
  o.tick false (StationTime.units ⟨0, 999999998, 0⟩) (8 * 2 ^ 32)

/-- An offset raised by 3 ns: the next rise time, 1 s 3 ns, lies inside the tick and passes too (R152). -/
theorem test_rise_placed_inside_its_tick :
    let o := acrossSecond { PowerOn.pulse with offset := 3 }
    o.passed = some ⟨32, 6 * 2 ^ 32, false⟩ ∧
    (o.rise ⟨32, 6 * 2 ^ 32, false⟩ 1 false).next = ⟨1, 3, 0⟩ ∧
    (o.rise ⟨32, 6 * 2 ^ 32, false⟩ 1 false).passed = some ⟨80, 3 * 2 ^ 32, true⟩ := by decide +kernel

/-- A rise exactly one width after the last is not closer than the width; one fu sooner is (R153). -/
theorem test_rise_one_width_later :
    (acrossSecond { PowerOn.pulse with high := true, fall := 1, risePart := 32 }).passed =
      some ⟨32, 6 * 2 ^ 32, false⟩ ∧
    (acrossSecond { PowerOn.pulse with high := true, fall := 1, risePart := 33 }).passed =
      some ⟨32, 6 * 2 ^ 32, true⟩ := by decide +kernel

/-- A rise time that has passed is decided before the step is taken (R155, R161). -/
theorem test_step_waits_for_passed_rise :
    let s := (up.announce ⟨.command, 5, ⟨9, 0, 0⟩⟩).modPulse 2 fun o => { o with passed := some ⟨0, 0, false⟩ }
    let t := after (exec (.pulseRiseTime 2) s)
    (after (exec (.pulseOutputStep 2) s)).pulses[(2 : PulseOut)].next = ⟨1, 0, 0⟩ ∧
    t.pulses[(2 : PulseOut)].sent = 1 ∧
    (after (exec (.pulseOutputStep 2) t)).pulses[(2 : PulseOut)].next = ⟨10, 0, 0⟩ := by decide +kernel

theorem test_sentence_lengths :
    8 * transmissionTicks 406 .none 12 = 6980864 ∧ 8 * transmissionTicks 406 .even 12 = 7606016 ∧
    8 * transmissionTicks 65535 .even 12 = 1224736768 := by decide +kernel

theorem test_skipped_sentence :
    let o := { PowerOn.codedUnit with line := .sending 65535 .even [] 9, next := ⟨2001, 0, 0⟩, names := 2001 }
    (o.due ⟨0, 0, true⟩ ⟨2001, 0, true, 1⟩).skipped = 1 ∧
    (o.due ⟨0, 0, true⟩ ⟨2001, 0, true, 1⟩).names = 2002 := by decide +kernel

/-- A transmission ends at the place within its tick at which it began (R157, R158). -/
theorem test_due_time_as_transmission_ends :
    let o (part : Elapsed) : CodedUnit :=
      { PowerOn.codedUnit with line := .sending 406 .none [] 1, beginPart := part }
    let busy (part : Elapsed) : Option Bool :=
      ((o part).tick false (StationTime.units ⟨0, 999999998, 0⟩) (8 * 2 ^ 32)).passed.map (·.busy)
    busy 32 = some false ∧ busy 33 = some true := by decide +kernel

/-- At D = 1 a bit lasts 32 ticks: the break, the high bit, the start bit of 0xF0, its bits 3 and 4. -/
theorem test_coded_wire :
    let wire (bit : Nat) : Bool :=
      (CodedLine.sending 1 .none (todSentence ⟨0, 0, true, 1⟩) (4288 - 32 * bit)).wire
    [0, 12, 13, 14, 18, 19, 23].map wire = [false, false, true, false, false, true, true] := by
  decide +kernel

/-! ### Chapter 9: bytes written out from the layouts -/

theorem test_write_entry_frame :
    readCommandFrame [0x02#8, 0x05#8, 0x07#8, 0x03#8, 0x00#8, 0x09#8, 0x00#8, 0x00#8, 0x03#8, 0x20#8, 0xC3#8] =
      .ok (.writeEntry 3 9 [0x00#8, 0x00#8, 0x03#8, 0x20#8]) := by decide +kernel

theorem test_field_widths :
    fieldWidth 16 1600000 = 4 ∧ fieldWidth (-500000000) 500000000 = 4 ∧ fieldWidth 1 3600 = 2 ∧
    fieldWidth 0 281474976710655 = 6 ∧ fieldWidth 1600 16000000000 = 6 ∧ fieldWidth 0 160 = 1 := by
  decide +kernel

/-- A descriptor of device delay −1,600 fu and no class: length 16, delay bytes FF FF F9 C0. -/
theorem test_descriptor :
    readDescriptor [0xD5#8, 0x2B#8, 1#8, 1#8, 0xFF#8, 0xFF#8, 0xF9#8, 0xC0#8, 1#8, 2#8, 3#8, 4#8, 5#8, 6#8,
      7#8, 8#8] = some ⟨some (-1600), none, [1#8, 2#8, 3#8, 4#8, 5#8, 6#8, 7#8, 8#8]⟩ ∧
    requiredLength 0x44#8 [0xD5#8, 0x2B#8, 1#8, 1#8] = some 16 ∧
    requiredLength 0x44#8 [0xD5#8, 0x2B#8, 1#8, 3#8] = some 17 := by decide +kernel

theorem test_query_bytes :
    Frame.encode (.query 1 0x0107#16) = [1#8, 3#8, 8#8, 0#8, 0#8, 0#8, 0#8, 0#8, 1#8, 1#8, 7#8] := by
  decide +kernel

theorem test_response_frame : responseFrame 5#8 .okClamped [1#8] = [5#8, 1#8, 1#8, 1#8, 0xF8#8] := by
  decide +kernel

theorem test_bad_frames :
    readCommandFrame [0x7F#8, 0#8, 0#8, 0x81#8] = .error .badCommand ∧
    readCommandFrame [0x21#8, 0#8, 0#8, 0x00#8] = .error .badCheck ∧
    readCommandFrame [0x21#8, 0#8, 1#8, 0#8, 0xDE#8] = .error .badValue := by decide +kernel

/-! ### Chapter 10: escalation and round-robin -/

/-- A link with so many commands and responses waiting. -/
def linkWith (commands responses : Nat) : LinkUnit :=
  { PowerOn.link with
    commands := List.replicate commands [0x21#8, 0#8, 0#8, 0xDF#8]
    responses := List.replicate responses [], escalated := decide (commands = 4) }

/-- Row 0 of the example. -/
def granting : State :=
  { up with links := #v[linkWith 4 0, linkWith 1 0, linkWith 2 4], executor := ⟨none, 1, 0⟩ }

/-- One grant and the end of the command granted. -/
def grantOnce (s : State) : State :=
  after (exec .discardFallback (after (exec .commandGrant s)))

theorem test_escalation_rows_1_to_4 :
    let s1 := grantOnce granting
    let s2 := grantOnce s1
    let s3 := grantOnce s2
    let s4 := grantOnce s3
    [s1, s2, s3, s4].map (fun s => s.executor.lastServed) = [0, 0, 1, 0] ∧
    s1.links[(0 : Link)].escalated = true ∧ s2.links[(0 : Link)].escalated = false ∧
    s4.links[(0 : Link)].responses.length = 3 := by decide +kernel

theorem test_lock_is_one_way :
    let t := after (exec .lockAccess (run up 0 .lockAccess))
    t.access.lock = true ∧
    (after (exec .accessTableWrite (run t 0 (.writeEntry 8 0 [1#8, 0xFF#8, 1#8, 0xFE#8])))).access = t.access :=
  by decide +kernel

/-- The status byte, the response in delivery, then 0x00; the last byte out delivers it (R167, R169). -/
theorem test_bytes_clocked_out :
    let k := ({ PowerOn.link with responses := [[5#8, 0#8, 0#8, 0xFB#8]] }).assert 0xA5#8
    let v := (List.replicate 6 0#8).foldl LinkUnit.clockIn k
    v.transaction.map (·.out) = some [0xA5#8, 5#8, 0#8, 0#8, 0xFB#8, 0#8] ∧ v.deliver.responses = [] ∧
    ((List.replicate 4 0#8).foldl LinkUnit.clockIn k).deliver.responses = [[5#8, 0#8, 0#8, 0xFB#8]] := by
  decide +kernel

/-! ### Chapter 11: nested delivery -/

/-- Link B of the example. -/
def nested (s : State) : NoticeLink := s.notice.links[(1 : Link)]

/-- TAKE NOTICE by link B. -/
def takeB (s : State) : State := after (exec .takeNotice (run s 1 .takeNotice))

/-- A class latched on link B. -/
def latchB (s : State) (c : NoticeClass) : State := s.modNotice 1 fun n => n.take c

theorem test_nested_delivery :
    let r2 := takeB (latchB up .planActivated)
    let r4 := latchB (latchB r2 .cycle) .sourceSelected
    let r5 := takeB r4
    let r6 := after (exec .endService (run r5 1 .endService))
    (nested r2).stack = [.planActivated] ∧ (nested r4).best = some .sourceSelected ∧
    (nested r5).stack = [.sourceSelected, .planActivated] ∧ (nested r5).best = none ∧
    (nested r6).best = none ∧ (nested r6).stack = [.planActivated] := by decide +kernel

theorem test_no_word_spells_a_command : decodeTableWord 8 0 = none ∧ up.withFetchWord 8 0 = up := by
  decide +kernel

theorem test_step_idles : step State.reset = .next State.reset := rfl

/-! ### For every statement with hypotheses, states and operands that meet them -/

/-- IN1 selected and LOCKED with IN2 below it on the stack, D1 SERVING a map of bank A, a mark and an
answer waiting, a notice in service, READ TIME running on link B. -/
def busy : State :=
  let s := withSource (onIn1 .locked) 1 .faulted
  let s := s.modSelector fun q => { q with stack := [⟨1, .loss, 10000, 40, 8, ⟨true, true, true⟩⟩] }
  let s := s.modPort 0 fun q =>
    { q with
      state := .serving, map := some (.mark :: List.replicate 39 .idle), word := some ⟨3#8, 7#24⟩
      departures := [⟨⟨7, 0, 0⟩, true, .mark 0⟩], answers := [⟨1, 7#16, ⟨7, 0, 0⟩, 2⟩] }
  let s := s.modNotice 0 fun n => { n with stack := [.timeStepped, .planActivated], faults := [⟨1, 0, 7⟩] }
  let s := s.modUplink 1 fun i => { i with window := [16000000, 0] };
  run { s with
    plans := { s.plans with a := { s.plans.a with role := .active, planId := 3 } }
    steering := { s.steering with integral := -2 ^ 60 + 1, ring := List.replicate 16 5 }
    timebase := { s.timebase with rate := 1717986, time := ⟨2 ^ 48 - 1, 999999999, 2 ^ 32 - 1⟩ }
    pending := [.oscillatorTick] } 1 .readTime

theorem witness_StepRunsFrontCommand : State.reset.pending = [] := rfl

theorem witness_TimebaseStaysInRange :
    TimeNormal busy ∧ RatesBounded busy ∧ ∃ t, step busy = .next t := by
  refine ⟨?_, ?_, _, rfl⟩
  · unfold TimeNormal; decide +kernel
  · unfold RatesBounded; decide +kernel

theorem witness_LinkQueuesStayBounded : LinksSound busy ∧ ∃ t, step busy = .next t := by
  refine ⟨?_, _, rfl⟩
  unfold LinksSound LinkSound; decide +kernel

theorem witness_BanksAndServingStaySound :
    PlansSound busy ∧ ServingSound busy ∧ ∃ t, step busy = .next t := by
  refine ⟨?_, ?_, _, rfl⟩
  · unfold PlansSound; decide +kernel
  · unfold ServingSound; decide +kernel

theorem witness_FallbackStackStaysSound : FallbackSound busy ∧ ∃ t, step busy = .next t := by
  refine ⟨?_, _, rfl⟩
  unfold FallbackSound; decide +kernel

theorem witness_EntriesStaySound :
    TimersSound busy ∧ UnitsSound busy ∧ ∃ t, step busy = .next t := by
  refine ⟨?_, ?_, _, rfl⟩
  · unfold TimersSound; decide +kernel
  · unfold UnitsSound; decide +kernel

theorem witness_SteeringFollowsSelection : SteeringSound busy ∧ ∃ t, step busy = .next t := by
  refine ⟨?_, _, rfl⟩
  unfold SteeringSound SteeringNamed SelectionFollowed ResetListed; decide +kernel

theorem witness_LoopHistoryStaysBounded :
    IntegralBounded busy ∧ HistoriesBounded busy ∧ ∃ t, step busy = .next t := by
  refine ⟨?_, ?_, _, rfl⟩
  · unfold IntegralBounded LoopSettingsSound; decide +kernel
  · unfold HistoriesBounded; decide +kernel

theorem witness_PortQueuesStayBounded : PortsSound busy ∧ ∃ t, step busy = .next t := by
  refine ⟨?_, _, rfl⟩
  unfold PortsSound PortSound; decide +kernel

theorem witness_NoticeStacksStayRising : NoticesSound busy ∧ ∃ t, step busy = .next t := by
  refine ⟨?_, _, rfl⟩
  unfold NoticesSound; decide +kernel

/-- Everything locked. -/
def lockedUp : State := { busy with access := { busy.access with lock := true } }

theorem witness_AccessStaysSoundAndLocked :
    AccessSound busy ∧ (∃ t, step busy = .next t) ∧ notPowerOn .guardEntryWrite = true ∧
    lockedUp.access.lock = true ∧ ∃ t, exec .guardEntryWrite lockedUp = .next t := by
  refine ⟨?_, ⟨_, rfl⟩, by decide, rfl, _, rfl⟩
  unfold AccessSound; decide +kernel

theorem witness_OnlyTicksAndStepsMoveTime :
    movesTime (.readTime 127) = false ∧ ∃ t, exec (.readTime 127) busy = .next t :=
  ⟨rfl, _, rfl⟩

/-- A mark whose fields stand at the ends of their ranges. -/
def fullMark : MarkFields :=
  ⟨2 ^ 48 - 1, 2 ^ 32 - 1, 2 ^ 32 - 1, 0xFFFF#16, true, true, true, true, 255, ⟨0xFF#8, 0xFFFFFF#24⟩⟩

theorem witness_ExchangeFramesRoundTrip :
    FrameFits (.mark fullMark) ∧ FrameFits (.state fullMark ⟨255, 255, 2 ^ 32 - 1, -128, 255, 255⟩) ∧
    FrameFits (.query (2 ^ 48 - 1) 0#16) ∧
    FrameFits (.reply (2 ^ 48 - 1) 9#16 (2 ^ 48 - 1) (2 ^ 32 - 1) 255 255) := by
  unfold FrameFits TrailerFits MarkFits; decide +kernel

theorem witness_CodedSentenceReadBack :
    TimeOfDayFits ⟨2 ^ 48 - 1, -128, true, 7⟩ ∧ TimeOfDayFits ⟨0, 127, false, 0⟩ := by
  unfold TimeOfDayFits; decide +kernel

theorem witness_ManagementFramesChecked :
    (List.replicate 64 0xFF#8).length ≤ 64 ∧
    byteSum (0x21#8 :: 5#8 :: BitVec.ofNat 8 0 :: ([] ++ [0xDA#8])) = 0#8 ∧
    byteSum (0x21#8 :: 5#8 :: BitVec.ofNat 8 0 :: ([] ++ [0xDB#8])) ≠ 0#8 ∧
    (64 < (65#8 : Byte).toNat ∧ 64 < (255#8 : Byte).toNat) ∧
    [1#8, 2#8].length < 3 ∧ [1#8, 2#8].length ≠ 3 ∧ [1#8, 2#8].length ≠ 8 ∧ [1#8, 2#8].length ≠ 1 ∧
    0x63#8 ∉ [0x01#8, 0x02#8, 0x10#8, 0x11#8, 0x20#8, 0x21#8, 0x30#8, 0x31#8, 0x40#8, 0x50#8, 0x51#8,
      0x52#8, 0x53#8, 0x54#8, 0x60#8, 0x61#8, 0x62#8] := by decide +kernel

/-- A tick across a second, one across a slot, and one across neither; outputs with a time passed and
none, with a step announcement waiting and none, with the next time ahead of the tick and inside it. -/
theorem witness_TickAdvancesAndAnnounces :
    let at_ (ns : Nat) : State := { up with timebase := { up.timebase with time := ⟨0, ns, 0⟩ } };
    (TimeNormal (at_ 999999992) ∧ RatesBounded (at_ 999999992)) ∧
    (TimeNormal (at_ 24999992) ∧ RatesBounded (at_ 24999992)) ∧
    (TimeNormal (at_ 24999991) ∧ RatesBounded (at_ 24999991)) ∧
    (up.flight.stepsToPulse[(0 : PulseOut)] = [] ∧
      (up.announce ⟨.command, 5, ⟨9, 0, 0⟩⟩).flight.stepsToPulse[(0 : PulseOut)] ≠ []) ∧
    (up.flight.stepsToCoded[(0 : CodedOut)] = [] ∧
      (up.announce ⟨.command, 5, ⟨9, 0, 0⟩⟩).flight.stepsToCoded[(0 : CodedOut)] ≠ []) ∧
    (acrossSecond PowerOn.pulse).passed ≠ none ∧
    (PowerOn.pulse.passed = none ∧ PowerOn.codedUnit.passed = none) ∧
    (unitsTo (at_ 999999991).timebase.time.units PowerOn.pulse.next = 9 * 2 ^ 32 ∧
      unitsTo (at_ 999999992).timebase.time.units PowerOn.pulse.next = 8 * 2 ^ 32) := by
  unfold TimeNormal RatesBounded; decide +kernel

theorem witness_RateWordLimitAndTrim :
    ({ up with flight := { up.flight with rateWords := [1717987, 1] } }).flight.rateWords = 1717987 :: [1] ∧
    (∀ v ∈ edges 4 0 6871947, Writes up 0 4 3 v) ∧ ∀ v ∈ edges 4 (-6871947) 6871947, Writes up 0 4 2 v := by
  unfold Writes Runs MayWrite; decide +kernel

/-- STEP TIME denied to link B, guarded, with nanoseconds out of range, of mixed signs, of zero, and applied. -/
theorem witness_StepsAppliedAndTimeRead :
    stepping.flight.stepRequests = -20000008 :: [] ∧ TimeNormal stepping ∧
    (∀ l : Link, ∀ c ∈ [Command.stepTime 0 1000000000, .stepTime 1 (-1), .stepTime 0 0,
        .stepTime (-2) (-999999999), .readTime], Runs (run stepping l c) (cmd l c) c) ∧
    stepping.access.canWrite 1 4 = false ∧ stepping.access.canWrite 0 4 = true ∧
    stepping.access.guarded 4 0 = false ∧
    (guarding stepping 4 0).access.guarded 4 0 = true ∧ stepping.access.canRead 1 4 = true := by
  unfold TimeNormal Runs; decide +kernel

/-- IN1 in PRECEDES with the sentence of second 2,002 held to 2,002 s, at that instant. -/
def precedes (t : Tracker) : State :=
  let s := in1.modInput 0 fun i =>
    { i with
      tracker := t, held := .sentence ⟨2002, 0, true, 1⟩ ⟨2002, 0, 0⟩
      settings := { i.settings with mode := .precedes } }
  { s with timebase := { s.timebase with time := ⟨2002, 0, 0⟩ } }

/-- A window ended and one that ends at the very instant, for a pulse and a sentence held; then each row of
the pulse tracker, in both pairing modes and with nothing held and a sentence held. -/
theorem witness_PulseTrackerEvents :
    (Overdue (.pulse ⟨2001, 350, 0⟩ ⟨2001, 800000350, 0⟩) ⟨2001, 800000350, 1⟩ ∧
      ¬Overdue (.pulse ⟨2001, 350, 0⟩ ⟨2001, 800000350, 0⟩) ⟨2001, 800000350, 0⟩ ∧
      Overdue (.sentence ⟨2002, 0, true, 1⟩ ⟨2002, 0, 0⟩) ⟨2002, 0, 1⟩ ∧
      ¬Overdue (.sentence ⟨2002, 0, true, 1⟩ ⟨2002, 0, 0⟩) ⟨2002, 0, 0⟩ ∧ ¬Overdue .nothing ⟨0, 0, 0⟩) ∧
    (up.inputs[(0 : InUnit)].tracker = .idle ∧ in1.inputs[(0 : InUnit)].tracker = .seeking) ∧
    (∀ mode ∈ [PairingMode.follows, .precedes], ∀ t ∈ [Tracker.seeking, .tracking ⟨2002, 350, 0⟩ 100000],
      let i := { in1.inputs[(0 : InUnit)] with
        tracker := t, settings := { in1.inputs[(0 : InUnit)].settings with mode := mode } };
      (in1.modInput 0 fun _ => i).inputs[(0 : InUnit)] = i ∧ i.held = .nothing) ∧
    (((Stamp.mk 2002 100350 0).diff ⟨2002, 350, 0⟩).natAbs ≤ 100000 * 16 ∧
      100000 * 16 < ((Stamp.mk 2002 100350 1).diff ⟨2002, 350, 0⟩).natAbs) ∧
    (∀ t ∈ [Tracker.seeking, .tracking ⟨2002, 0, 0⟩ 100000],
      let s := precedes t
      let i := s.inputs[(0 : InUnit)]
      i.settings.mode = .precedes ∧ i.held = .sentence ⟨2002, 0, true, 1⟩ ⟨2002, 0, 0⟩ ∧
      s.reading 0 = ⟨2002, 0, 0⟩ ∧ i.tracker = t ∧ s.compensation (inSource 0) = some 4800) ∧
    (0 < (Stamp.mk 2002 100350 1).diff ((Stamp.mk 2002 350 0).plus (100000 * 16))) ∧
    (let s := { in1 with flight := { in1.flight with
        stepsToInput := #v[[⟨.command, 5, ⟨1, 0, 0⟩⟩], [⟨.command, 5, ⟨1, 0, 0⟩⟩]] } };
      s.flight.stepsToInput[(0 : InUnit)] = ⟨.command, 5, ⟨1, 0, 0⟩⟩ :: [] ∧
      s.selector.entries[inSource 0].state ≠ .disabled ∧
      s.selector.entries[inSource 1].state = .disabled) := by
  simp only [← Held.endedBefore_iff]; decide +kernel

/-- IN1 with a held pulse and eleven of the twelve characters of the sentence of second 2,001 in. -/
def lastCharacter (anchor : Option Nat) : State :=
  row1.modInput 0 fun i =>
    { i with
      receiver := .character 406 .none, anchor := anchor
      assembler := .check 0x31#8 8 [0#8, 0#8, 0#8, 0#8, 7#8, 0xD1#8, 37#8, 0x81#8] }

/-- A locked sentence with no anchor; one that agrees with the anchor; one that does not; held items whose
window ended before the sentence. -/
theorem witness_PairedPulseGivesPhaseEvent :
    let body := [0#8, 0#8, 0#8, 0#8, 7#8, 0xD1#8, 37#8, 0x81#8]
    ∀ anchor ∈ [none, some 2001, some 1999],
      (lastCharacter anchor).inputs[(0 : InUnit)].receiver = .character 406 .none ∧
      parityGood .none 0x49#8 true = true ∧
      (lastCharacter anchor).inputs[(0 : InUnit)].assembler = .check 0x31#8 8 body ∧
      sentenceOk 0x31#8 8 body 0x49#8 = true ∧
      (lastCharacter anchor).inputs[(0 : InUnit)].settings.mode = .follows ∧
      (lastCharacter anchor).inputs[(0 : InUnit)].held = .pulse ⟨2001, 350, 0⟩ ⟨2001, 800000350, 0⟩ ∧
      ((lastCharacter anchor).reading 0).diff ⟨2001, 800000350, 0⟩ ≤ 0 ∧
      (lastCharacter anchor).compensation (inSource 0) = some 4800 ∧
      (readTimeOfDay body).seconds = 2001 ∧ (readTimeOfDay body).locked = true ∧
      (let s := (lastCharacter anchor).modInput 0 fun i =>
        { i with
          held := .sentence ⟨2000, 0, true, 1⟩ ⟨2000, 800000000, 0⟩
          settings := { i.settings with mode := .precedes } };
        s.inputs[(0 : InUnit)].settings.mode = .precedes ∧
        s.inputs[(0 : InUnit)].held = .sentence ⟨2000, 0, true, 1⟩ ⟨2000, 800000000, 0⟩) ∧
      (let late := { lastCharacter anchor with
          timebase := { (lastCharacter anchor).timebase with time := ⟨2001, 800000351, 0⟩ } };
        Overdue late.inputs[(0 : InUnit)].held (late.reading 0)) := by
  simp only [← Held.endedBefore_iff]; decide +kernel

/-- IN1 enabled, its receiver and assembler as given. -/
def serial (r : Receiver) (a : Assembler) : State :=
  in1.modInput 0 fun i => { i with receiver := r, assembler := a }

theorem witness_SerialLineBuildsSentences :
    (∀ a ∈ [Assembler.waitBreak, .lead, .kind, .length 0x31#8, .check 0x31#8 0 [],
        .body 0x31#8 2 [], .body 0x31#8 1 [],
        .check 0x31#8 8 [], .check 0x44#8 12 []],
      (serial (.character 406 .even) a).inputs[(0 : InUnit)].receiver = .character 406 .even ∧
      (serial (.character 406 .even) a).inputs[(0 : InUnit)].assembler = a) ∧
    parityGood .even 0xF0#8 true = false ∧ parityGood .even 0xF0#8 false = true ∧
    (48 < (49#8 : Byte).toNat ∧ (48#8 : Byte).toNat ≤ 48 ∧ 0 < (1#8 : Byte).toNat) ∧
    ([] : List Byte).length + 1 < 2 ∧ ([] : List Byte).length + 1 = 1 ∧
    sentenceOk 0x31#8 8 [] 0#8 = false ∧
    sentenceOk 0x31#8 8 [0#8, 0#8, 0#8, 0#8, 7#8, 0xD1#8, 37#8, 0x81#8] 0x49#8 = true ∧
    in1.inputs[(0 : InUnit)].held = .nothing ∧
    (sentenceOk 0x44#8 12 [0xD5#8, 0x2B#8, 1#8, 0#8, 0#8, 0#8, 0#8, 0#8, 0#8, 0#8, 0#8, 9#8] 0xA6#8 = true ∧
      readDescriptor [0xD5#8, 0x2B#8, 1#8, 0#8, 0#8, 0#8, 0#8, 0#8, 0#8, 0#8, 0#8, 9#8] =
        some ⟨none, none, [0#8, 0#8, 0#8, 0#8, 0#8, 0#8, 0#8, 9#8]⟩) ∧
    (let s := three.modSelector fun q => { q with settings := { q.settings with autoUpgrade := true } }
      let d : Descriptor := ⟨none, some 0, List.replicate 8 0#8⟩
      let t := s.modEntry 1 fun n => { n with descriptor := some d };
      t.effectiveClass 1 ≠ s.effectiveClass 1 ∧ s.selector.entries[(1 : Ext)].state = .usable ∧
      t.selector.settings.autoUpgrade = true ∧ t.selector.selected = toSource 0 ∧
      t.effectiveClass 1 < t.effectiveClass 0) ∧
    (sentenceOk 0x44#8 12 [0xD5#8, 0x2C#8, 1#8, 0#8, 0#8, 0#8, 0#8, 0#8, 0#8, 0#8, 0#8, 9#8] 0xA5#8 = true ∧
      readDescriptor [0xD5#8, 0x2C#8, 1#8, 0#8, 0#8, 0#8, 0#8, 0#8, 0#8, 0#8, 0#8, 9#8] = none) ∧
    in1.selector.entries[inSource 0].state ≠ .disabled ∧
    up.selector.entries[inSource 0].state = .disabled ∧
    (∀ r ∈ [Receiver.idle, .lowIdle, .measuring, .character 406 .none, .inBreak, .counting .odd 32552,
        .leadWait 5 false, .leadWait 5 true, .leadWait 0 false, .leadWait 0 true],
      ∀ a ∈ [Assembler.lead, .waitBreak, .length 0x31#8],
      (serial r a).inputs[(0 : InUnit)].receiver = r ∧ (serial r a).inputs[(0 : InUnit)].assembler = a) := by
  decide +kernel

theorem witness_HeldItemsRequestsAndModes :
    (row1.inputs[(0 : InUnit)].held = .pulse ⟨2001, 350, 0⟩ ⟨2001, 800000350, 0⟩ ∧
      0 < (Stamp.mk 2001 800000350 1).diff ⟨2001, 800000350, 0⟩) ∧
    (let s := up.modInput 0 fun i => { i with held := .sentence ⟨9, 0, true, 1⟩ ⟨0, 0, 0⟩ }
      let t := { s with timebase := { s.timebase with time := ⟨0, 1, 0⟩ } };
      t.inputs[(0 : InUnit)].held = .sentence ⟨9, 0, true, 1⟩ ⟨0, 0, 0⟩ ∧
      0 < t.timebase.time.stamp.diff ⟨0, 0, 0⟩) ∧
    (∀ d ∈ [none, some (Descriptor.mk none none (List.replicate 8 0#8))],
      ∀ t ∈ [Transmitter.idle, .sending 406 .none [] 9],
      let s := (up.modInput 0 fun i => { i with requestTimer := some 0, transmitter := t }).modEntry 0 fun n =>
        { n with descriptor := d };
      s.inputs[(0 : InUnit)].requestTimer = some 0 ∧ s.selector.entries[inSource 0].descriptor = d ∧
      s.inputs[(0 : InUnit)].transmitter = t) ∧
    ((up.modInput 0 fun i => { i with transmitter := .sending 406 .none [] 0 }).inputs[(0 : InUnit)].transmitter
      = .sending 406 .none [] 0) ∧
    (∀ v ∈ [[0#8], [1#8], [2#8], [3#8], []], ∀ index ∈ [18, 19, 20, 50, 51, 52], Writes up 0 2 index v) ∧
    (∀ u : InUnit, (∀ v ∈ edges 4 1000 500000, Writes up 0 2 (32 * u.val + 16) v) ∧
      (∀ v ∈ edges 2 1 65535, Writes up 0 2 (32 * u.val + 17) v) ∧
      ∀ v ∈ edges 2 10 990, Writes up 0 2 (32 * u.val + 21) v) ∧
    (∀ r ∈ [Receiver.measuring, .counting .none 5, .inBreak],
      (serial r .lead).inputs[(0 : InUnit)].receiver = r) := by
  unfold Writes Runs MayWrite; decide +kernel

/-- The frames of a MARK, a STATE, a REPLY and a QUERY. -/
theorem witness_UplinkFramesConfirmed :
    up1.uplinks[(0 : UpUnit)].running = true ∧ up1.uplinks[(0 : UpUnit)].link = .up ∧
    (∀ o c, uplinkFrame (Frame.mark (markOf o c)).encode = some (.mark (markOf o c)) ∧
      (markOf o c).opening = o ∧ (markOf o c).closing = c) ∧
    (up1.uplinks[(0 : UpUnit)].sample = none) ∧
    (let s := up1.modUplink 0 fun i => { i with sample := some ⟨⟨7, 0, 0⟩, ⟨7, 5, 0⟩, ⟨5#8, 7000#24⟩⟩ };
      s.uplinks[(0 : UpUnit)].sample = some ⟨⟨7, 0, 0⟩, ⟨7, 5, 0⟩, ⟨5#8, 7000#24⟩⟩ ∧
      (CycleWord.mk 5#8 7000#24) = (markOf false true).word ∧
      (CycleWord.mk 6#8 7000#24) ≠ (markOf false true).word) ∧
    uplinkFrame [1#8] = none ∧ uplinkFrame queryFrame.encode = some (.query 1 7#16) ∧
    up.uplinks[(0 : UpUnit)].running = false ∧
    (up1.modUplink 0 fun i => { i with link := .down }).uplinks[(0 : UpUnit)].link = .down := by
  decide +kernel

theorem witness_StateMarkSetsUpstreamClass :
    up1.uplinks[(0 : UpUnit)].running = true ∧ up1.uplinks[(0 : UpUnit)].link = .up ∧
    uplinkFrame stateFrame.encode = some (.state (markOf true false) ⟨2, 0, 0, -1, 5, 0⟩) ∧
    uplinkFrame (Frame.mark (markOf true false)).encode = some (.mark (markOf true false)) := by
  decide +kernel

/-- UP1 with a query outstanding, seen at no cycle start or at one. -/
def ranging (seen : Nat) (forward : Option Int) : State :=
  up1.modUplink 0 fun i =>
    { i with outstanding := some ⟨7#16, 1, ⟨7000, 500000050, 0⟩, seen⟩, forward := forward }

/-- `s` with events on their way to UP1. -/
def toUp1 (s : State) (l : List CycleEvent) : State :=
  { s with flight := { s.flight with cyclesToUplink := #v[l, []] } }

theorem witness_UplinkRangesAndJudges :
    (let bytes := (Frame.reply 1 7#16 7000 500004950 0 1).encode;
      uplinkFrame bytes = some (.reply 1 7#16 7000 500004950 0 1) ∧
      up1.uplinks[(0 : UpUnit)].outstanding = none ∧
      (∃ o, (ranging 0 none).uplinks[(0 : UpUnit)].outstanding = some o ∧ o.requester = 1 ∧ o.seq = 7#16) ∧
      (ranging 0 none).uplinks[(0 : UpUnit)].forward = none ∧
      (ranging 0 (some 81600)).uplinks[(0 : UpUnit)].forward = some 81600) ∧
    (let s := toUp1 up1 [.slot 20 7000 false ⟨7000, 500000000, 0⟩];
      s.flight.cyclesToUplink[(0 : UpUnit)] = .slot 20 7000 false ⟨7000, 500000000, 0⟩ :: [] ∧
      s.uplinks[(0 : UpUnit)].running = true ∧ s.uplinks[(0 : UpUnit)].link = .up ∧
      s.uplinks[(0 : UpUnit)].cut = false ∧ 7000 % s.uplinks[(0 : UpUnit)].settings.interval = 0 ∧
      s.uplinks[(0 : UpUnit)].outstanding = none) ∧
    (∀ seen ∈ [0, 1],
      let s := toUp1 (ranging seen none) [.start 7001 false ⟨7001, 0, 0⟩];
      s.flight.cyclesToUplink[(0 : UpUnit)] = .start 7001 false ⟨7001, 0, 0⟩ :: [] ∧
      s.uplinks[(0 : UpUnit)].running = true ∧
      s.uplinks[(0 : UpUnit)].outstanding = some ⟨7#16, 1, ⟨7000, 500000050, 0⟩, seen⟩) := by
  refine ⟨⟨?_, ?_, ⟨⟨7#16, 1, ⟨7000, 500000050, 0⟩, 0⟩, ?_⟩, ?_⟩, ?_⟩ <;> decide +kernel

theorem witness_UplinkStepAndLink :
    (∀ u : UpUnit, ({ up1 with flight := { up1.flight with
        stepsToUplink := Vector.replicate 2 [⟨.command, 5, ⟨1, 0, 0⟩⟩] } }).flight.stepsToUplink[u] =
      ⟨.command, 5, ⟨1, 0, 0⟩⟩ :: []) ∧
    up1.uplinks[(0 : UpUnit)].running = true ∧ up1.uplinks[(1 : UpUnit)].running = false ∧
    up1.uplinks[(0 : UpUnit)].link = .up ∧
    (∀ base ∈ [64, 96], ∀ x ∈ [(16, 4, 0, 1600000), (17, 4, 0, 1600000), (18, 6, 0, 281474976710655),
        (19, 1, 0, 39), (20, 1, 1, 16), (21, 4, 0, (16000000 : Int))],
      ∀ v ∈ edges x.2.1 x.2.2.1 x.2.2.2, Writes up 0 2 (base + x.1) v) := by
  unfold Writes Runs MayWrite; decide +kernel

theorem witness_EffectiveClassAndCompensation :
    (∀ e : Ext, (∀ v ∈ edges 1 0 7, Writes up 0 2 (32 * e.val + 1) v) ∧
      ∀ v ∈ edges 4 (-16000000) 16000000, Writes up 0 2 (32 * e.val + 4) v) ∧
    ∀ u : InUnit, ∀ v ∈ edges 4 0 1600000000, Writes up 0 2 (32 * u.val + 3) v := by
  unfold Writes Runs MayWrite; decide +kernel

/-- Each entry neither selected nor on the stack; the selected one; the top of the stack. -/
theorem witness_EnableAndDisableSource :
    (∀ b ∈ [0#8, 1#8], ∀ e : Ext, ∀ st ∈ [SourceState.disabled, .trial],
      let s := run (withSource up e st) 0 (.writeEntry 2 (32 * e.val) [b]);
      Runs s (cmd 0 (.writeEntry 2 (32 * e.val) [b])) (.writeEntry 2 (32 * e.val) [b]) ∧
      Permitted s (cmd 0 (.writeEntry 2 (32 * e.val) [b])) 2 (32 * e.val) ∧
      s.selector.entries[e].state = st ∧ s.selector.selected ≠ toSource e ∧
      ∀ t ∈ s.selector.stack.head?, t.source ≠ e) ∧
    (∀ x ∈ [(three, (0 : Ext)), (busy, 1)],
      let s := run x.1 0 (.writeEntry 2 (32 * x.2.val) [0#8]);
      Runs s (cmd 0 (.writeEntry 2 (32 * x.2.val) [0#8])) (.writeEntry 2 (32 * x.2.val) [0#8]) ∧
      Permitted s (cmd 0 (.writeEntry 2 (32 * x.2.val) [0#8])) 2 (32 * x.2.val) ∧
      s.selector.entries[x.2].state ≠ .disabled) ∧
    (∀ e : Ext, ∀ v ∈ [[2#8], [], [0#8, 0#8]],
      let s := writing up 0 2 (32 * e.val) v;
      Runs s (cmd 0 (.writeEntry 2 (32 * e.val) v)) (.writeEntry 2 (32 * e.val) v) ∧
      Permitted s (cmd 0 (.writeEntry 2 (32 * e.val) v)) 2 (32 * e.val) ∧ v ≠ [0#8] ∧ v ≠ [1#8]) ∧
    three.selector.selected = toSource 0 ∧ busy.selector.selected ≠ toSource 1 ∧
    (∃ v ∈ busy.selector.stack.head?, v.source = 1) := by
  unfold Runs Permitted; decide +kernel

/-- `s` with one event of unit `e` on its way to the selector. -/
def toSel (s : State) (e : Ext) (v : UnitEvent) : State := s.toSelector e v

/-- A phase event of UP2. -/
def eventOf (v : Validity) : PhaseEvent := ⟨3, v, none, none, none⟩

theorem witness_SelectorEventsByState :
    (∀ st ∈ [SourceState.disabled, .absent, .trial, .usable, .faulted],
      ∀ k ∈ [UnitEvent.report .accepted, .report .stray, .report .miss, .phase (eventOf (.bad .unpaired)),
        .phase (eventOf (.bad .secondsJump)), .phase (eventOf (.bad .unlockedReceiver)),
        .phase (eventOf (.bad .badDelayAbsent)), .phase (eventOf (.good (-5) (-5)))],
      (toSel (withSource up 3 st) 3 k).flight.toSelector[(3 : Ext)] = k :: [] ∧
      (withSource up 3 st).selector.entries[(3 : Ext)].state = st ∧
      (withSource up 3 st).selector.selected ≠ toSource 3) ∧
    (min 10 (0 + 1) < up.selector.settings.missLimit ∧ up.selector.settings.missLimit ≤ min 10 (2 + 1)) ∧
    (onIn1 .locked).selector.selected = toSource 0 ∧
    (let s := (withSource (onIn1 .locked) 3 .trial).modEntry 3 fun n =>
        { n with learned := 16001, learnedCount := 7 };
      s.steering.state = .locked ∧ s.selector.selected ≠ toSource 3 ∧
      8 ≤ min 255 (s.selector.entries[(3 : Ext)].learnedCount + 1) ∧
      s.selector.settings.disagreement <
        ((16001 + ((16001 : Int) - 16001).tdiv 8).natAbs : Int)) ∧
    0 + 1 < up.selector.settings.qualify ∧
    (let s := withSource up 3 .trial;
      s.selector.selected = localSource ∧ (∀ a : Ext, s.selector.entries[a].state ≠ .usable) ∧
      s.selector.stack = [] ∧ s.selector.settings.qualify ≤ 9 + 1 ∧ s.steering.state ≠ .locked) ∧
    (let s := ((withSource (onIn1 .acquire) 1 .usable).modSelector fun q =>
        { q with
          settings := { q.settings with autoUpgrade := true }
          stack := [⟨2, .loss, 6, 0, 0, ⟨true, true, true⟩⟩, ⟨1, .loss, 7, 0, 0, ⟨true, true, true⟩⟩] })
      let s := (withSource s 2 .trial).modEntry 2 fun n => { n with goodRun := 9 };
      s.selector.selected ≠ localSource ∧ s.selector.settings.autoUpgrade = true ∧
      s.selector.entries[(2 : Ext)].state = .trial ∧ s.selector.settings.qualify ≤ 9 + 1 ∧
      s.steering.state ≠ .locked ∧ s.selector.stack.head?.map (·.source) = some 2) ∧
    (∀ k ∈ [UnitEvent.report .miss, .phase ⟨0, .bad .secondsJump, none, none, none⟩,
        .phase ⟨0, .bad .unlockedReceiver, none, none, none⟩],
      let s := toSel (three.modEntry 0 fun n => { n with missRun := 2 }) 0 k;
      s.flight.toSelector[(0 : Ext)] = k :: [] ∧ s.selector.entries[(0 : Ext)].state = .usable ∧
      s.selector.selected = toSource 0 ∧ s.selector.entries[(1 : Ext)].state = .usable) := by
  decide +kernel

/-- A report of an entry that is not USABLE, of one that is and is not selected, of the selected one. -/
theorem witness_ExcursionFaultsAndFailsOver :
    let s := { three with flight := { three.flight with excursions := [⟨0, true⟩] } };
    s.flight.excursions = ⟨0, true⟩ :: [] ∧ s.selector.entries[(3 : Ext)].state ≠ .usable ∧
    s.selector.entries[(1 : Ext)].state = .usable ∧ s.selector.selected ≠ toSource 1 ∧
    s.selector.entries[(0 : Ext)].state = .usable ∧ s.selector.selected = toSource 0 := by decide +kernel

theorem witness_SelectorTimersCount :
    let s := withSource (withSource up 0 .faulted) 1 .usable
    let t := { s with flight := { s.flight with cyclesToSelector := [7] } };
    t.flight.cyclesToSelector = 7 :: [] ∧
    t.selector.entries[(0 : Ext)].state = .faulted ∧ t.selector.entries[(0 : Ext)].retry = some 1 ∧
    t.selector.entries[(1 : Ext)].restore = some 60 := by decide +kernel

theorem witness_SelectorForgetsAtStep :
    ({ three with flight := { three.flight with
      stepsToSelector := [⟨.command, 5, ⟨1, 0, 0⟩⟩] } }).flight.stepsToSelector =
    ⟨.command, 5, ⟨1, 0, 0⟩⟩ :: [] := rfl

/-- DISCARD FALLBACK on the stack of two: the new top not due, due and agreeing, due and disagreeing. -/
def discarding (restore : Nat) (learned : Int) : State :=
  run (failed.modEntry 0 fun n => { n with state := .usable, restore := some restore, learned := learned }) 0
    .discardFallback

theorem witness_FallbackCommands :
    (∀ target ∈ [0, 1, 2, 3, 4, 5],
      Runs (run three 0 (.switchSource target)) (cmd 0 (.switchSource target)) (.switchSource target)) ∧
    three.access.canWrite 1 2 = false ∧ three.access.canWrite 0 2 = true ∧
    three.access.guarded 2 167 = false ∧ (guarding three 2 167).access.guarded 2 167 = true ∧
    up.access.canWrite 1 2 = false ∧ (guarding up 2 168).access.guarded 2 168 = true ∧
    three.selector.selected = toSource 0 ∧
    three.selector.entries[(1 : Ext)].state = .usable ∧ three.selector.entries[(3 : Ext)].state ≠ .usable ∧
    (withSource up 2 .usable).selector.selected = localSource ∧
    (Runs (run up 0 .discardFallback) (cmd 0 .discardFallback) .discardFallback ∧
      Permitted (run up 0 .discardFallback) (cmd 0 .discardFallback) 2 168 ∧
      up.selector.stack = []) ∧
    (∀ x ∈ [(59, (40 : Int)), (60, 40), (60, 16041)],
      let s := discarding x.1 x.2;
      Runs s (cmd 0 .discardFallback) .discardFallback ∧ Permitted s (cmd 0 .discardFallback) 2 168 ∧
      s.selector.stack = ⟨1, .unlockedReceiver, 10005, 120, 255, ⟨false, true, true⟩⟩ ::
        [⟨0, .loss, 10000, 40, 255, ⟨true, true, true⟩⟩] ∧ s.selector.settings.revertive = true ∧
      s.selector.entries[(0 : Ext)].state = .usable ∧
      (decide (s.selector.settings.waitToRestore ≤ s.selector.entries[(0 : Ext)].restore.getD 0) =
        decide (60 ≤ x.1)) ∧
      8 ≤ s.selector.entries[(0 : Ext)].learnedCount ∧
      (decide (s.selector.settings.disagreement < ((40 - s.selector.entries[(0 : Ext)].learned).natAbs : Int)) =
        decide (x.2 = 16041)) ∧ s.selector.selected ≠ toSource 0) := by
  unfold Runs Permitted; decide +kernel

/-- `three` with IN2 of class 0. -/
def upgraded : State := three.modEntry 1 fun n => { n with cls := 0 }

/-- IN2 of class 0 ranks before IN1 of class 1, and IN1 before IN2 of class 1 on priority. -/
theorem witness_UpgradeNeedsStrictlyLowerClass :
    (∀ b ∈ [0#8, 1#8], b.toNat < 2 ∧ ∀ index ∈ [2, 34, 66, 98, 166],
      Runs (run three 0 (.writeEntry 2 index [b])) (cmd 0 (.writeEntry 2 index [b])) (.writeEntry 2 index [b]) ∧
      Permitted (run three 0 (.writeEntry 2 index [b])) (cmd 0 (.writeEntry 2 index [b])) 2 index) ∧
    (∀ v ∈ [[2#8], [], [0#8, 0#8]], ∀ index ∈ [2, 98, 166],
      let s := writing three 0 2 index v;
      Runs s (cmd 0 (.writeEntry 2 index v)) (.writeEntry 2 index v) ∧
      Permitted s (cmd 0 (.writeEntry 2 index v)) 2 index) ∧
    ((∀ x ∈ [(160, 1, 2, 60), (161, 2, 1, 3600), (162, 1, 1, 10), (163, 4, 160, 16000000),
          (164, 2, 0, (3600 : Int))],
        ∀ v ∈ edges x.2.1 x.2.2.1 x.2.2.2, Writes up 0 2 x.1 v) ∧
      ∀ v ∈ [[], [0#8], [1#8], [2#8]], Writes up 0 2 165 v) ∧
    up.selector.selected = localSource ∧ (∀ a : Ext, up.selector.entries[a].state ≠ .usable) ∧
    three.selector.selected = toSource 0 ∧
    RanksFirst upgraded (fun a => upgraded.selector.entries[a].state = .usable) 1 ∧
    RanksFirst three (fun a => three.selector.entries[a].state = .usable) 0 := by
  refine ⟨?_, ?_, ?_, ?_, ?_, ?_, ?_, ?_⟩
  · unfold Runs Permitted; decide +kernel
  · unfold Runs Permitted; decide +kernel
  · unfold Writes Runs MayWrite; decide +kernel
  · decide +kernel
  · decide +kernel
  · decide +kernel
  · refine ⟨?_, ?_⟩ <;> decide +kernel
  · refine ⟨?_, ?_⟩ <;> decide +kernel

/-- `s` with a GOOD event of IN1 handed to the steering unit. -/
def handed (s : State) (carried exact : Int) : State :=
  { s with flight := { s.flight with goodEvents := [⟨0, .good carried exact, none, none, none⟩] } }

theorem witness_GoodEventsProcessed :
    (∀ st ∈ [SteeringState.acquire, .locked],
      let s := handed (onIn1 st) 1600 1600;
      s.flight.selections = [] ∧ s.flight.goodEvents = ⟨0, .good 1600 1600, none, none, none⟩ :: [] ∧
      s.steering.steered = some 0 ∧ s.steering.pendingStep = none ∧ s.steering.state = st) ∧
    (let g := PowerOn.steering.settings;
      0 + 1 < g.lockCount ∧ g.lockCount ≤ 7 + 1 ∧ ((1600 : Int).natAbs : Int) ≤ g.tl ∧
      g.ts < ((-16000001 : Int).natAbs : Int) ∧ ((16000000 : Int).natAbs : Int) ≤ g.ts ∧
      g.tx < ((16001 : Int).natAbs : Int) ∧ ((16000 : Int).natAbs : Int) ≤ g.tx ∧
      1 + 1 < g.excursionCount ∧ g.excursionCount ≤ 2 + 1) ∧
    (handed (onIn1 .acquire) 1600 1600).steering.options.stepPermit = true ∧
    (handed up 1600 1600).steering.state = .free := by decide +kernel

/-- `s` with a step announcement on its way to the steering unit. -/
def announced (s : State) (o : StepOrigin) : State :=
  { s with flight := { s.flight with stepsToSteering := [⟨o, 5, ⟨1, 0, 0⟩⟩] } }

theorem witness_StepAnnouncementClearsLoop :
    (announced up .command).flight.stepsToSteering = ⟨.command, 5, ⟨1, 0, 0⟩⟩ :: [] ∧
    (StepAnnouncement.mk .command 5 ⟨1, 0, 0⟩).origin = .command ∧
    (StepAnnouncement.mk .steering 5 ⟨1, 0, 0⟩).origin = .steering ∧
    ((announced (onIn1 .acquire) .steering).modSteering fun t =>
      { t with pendingStep := some ⟨5, 0⟩ }).steering.pendingStep = some ⟨5, 0⟩ := by decide +kernel

/-- `s` with a selection on its way to the steering unit. -/
def selection (s : State) (i : Source) : State := { s with flight := { s.flight with selections := [i] } }

theorem witness_SelectionsMoveSteering :
    (∀ e : Ext, (selection up (toSource e)).flight.selections = toSource e :: []) ∧
    (∀ n ∈ [3, 4],
      let s := selection ((onIn1 .locked).modSteering fun t => { t with ring := List.replicate n (-5) }) 4;
      s.flight.selections = localSource :: [] ∧ s.steering.steered = some 0 ∧
      s.steering.steeredClass = some 6 ∧ s.steering.ring.length = n) := by decide +kernel

/-- HOLDOVER at an age, with a cycle start on its way. -/
def holding (age : Nat) : State :=
  let s := up.modSteering fun t => { t with state := .holdover, origin := some ⟨0, 1⟩, age := age };
  { s with flight := { s.flight with cyclesToSteering := [7] } }

theorem witness_HoldoverAgesAndExpires :
    (∀ age ∈ [86398, 86399],
      (holding age).flight.cyclesToSteering = 7 :: [] ∧ (holding age).steering.state = .holdover ∧
      (holding age).steering.origin = some ⟨0, 1⟩ ∧
      (decide ((holding age).steering.age + 1 < (holding age).steering.settings.holdoverLimit) =
        decide (age = 86398))) ∧ up.steering.state ≠ .holdover := by decide +kernel

theorem witness_HoldoverAndOutputClass :
    (holding 3600).steering.origin = some ⟨0, 1⟩ ∧ (holding 3600).steering.state = .holdover ∧
    up.steering.state = .free ∧
    (∀ st ∈ [SteeringState.locked, .acquire],
      (onIn1 st).steering.steered = some 0 ∧ (onIn1 st).selector.selected = toSource 0 ∧
      (onIn1 st).steering.state = st) := by decide +kernel

/-- The value that writes a map of forty MARK entries. -/
def markMap : List Byte := 40#8 :: List.replicate 40 1#8

/-- Every setting at and beyond its ends; options of three names and of more; maps of forty entries, and
values that carry none: too short, of another count, of an undefined kind. -/
theorem witness_OptionsMapsAndEpochWritten :
    (∀ index ∈ [6, 7], ∀ v ∈ [[7#8], [8#8], [], [0#8, 0#8]], Writes up 0 3 index v) ∧
    (∀ x ∈ [(8, 6, 1600, 16000000000), (9, 4, 16, 1600000), (10, 1, 1, 60), (11, 4, 160, 16000000),
        (12, 1, 1, 10), (13, 1, 0, 24), (14, 1, 0, 24), (15, 1, 0, 24), (16, 1, 0, 24), (17, 4, 1, 86400),
        (18, 4, 60, (604800 : Int))],
      ∀ v ∈ edges x.2.1 x.2.2.1 x.2.2.2, Writes up 0 3 x.1 v) ∧
    (∀ index ∈ [8, 13, 264, 269],
      ∀ v ∈ [markMap, [40#8], 39#8 :: List.replicate 40 1#8, 40#8 :: List.replicate 40 4#8],
      Runs (writing up 0 5 index v) (cmd 0 (.writeEntry 5 index v)) (.writeEntry 5 index v) ∧
      Permitted (writing up 0 5 index v) (cmd 0 (.writeEntry 5 index v)) 5 index) ∧
    (up.plans.bank .a).role = .inactive ∧ (armedB.bank .a).role ≠ .inactive ∧
    (armedB.bank .b).role ≠ .inactive ∧
    markMap = 40#8 :: (List.replicate 40 SlotEntry.mark).map (fun e => BitVec.ofNat 8 e.code) ∧
    (∀ map : List SlotEntry, map.length = 40 →
      [40#8] ≠ 40#8 :: map.map (fun e => BitVec.ofNat 8 e.code) ∧
      39#8 :: List.replicate 40 1#8 ≠ 40#8 :: map.map (fun e => BitVec.ofNat 8 e.code)) ∧
    ∀ v ∈ edges 2 1 3600, Writes up 0 5 512 v := by
  refine ⟨?_, ?_, ?_, ?_, ?_, ?_, ?_, fun map h => ⟨fun he => ?_, fun he => ?_⟩, ?_⟩
  case refine_8 =>
    have := congrArg List.length he
    simp [h] at this
  case refine_9 => exact absurd (List.cons.inj he).1 (by decide)
  all_goals ((try unfold Writes); (try unfold Runs); (try unfold MayWrite); (try unfold Permitted); decide +kernel)

/-- `s` with an announcement on its way to the cycle timer. -/
def toTimer (s : State) (v : TimebaseEvent) : State :=
  { s with flight := { s.flight with toCycleTimer := [v] } }

/-- Epoch boundary with a bank PENDING; between boundaries; a relabel; a slot before and in a cycle. -/
theorem witness_CyclesAndSlotsMade :
    (∀ n ∈ [5010, 5011], (toTimer { up with plans := armedB } (.boundary n ⟨n, 0, 0⟩)).flight.toCycleTimer =
      .boundary n ⟨n, 0, 0⟩ :: []) ∧
    PlansSound { up with plans := armedB } ∧
    PlansSound { up with plans := { armedB.activate with relabel := some 7 } } ∧
    5010 % up.cycleTimer.epoch = 0 ∧ armedB.pendingBank = some .b ∧ armedB.activeBank = some .a ∧
    armedB.relabel = none ∧ up.cycleTimer.resume = false ∧
    ({ armedB.activate with relabel := some 7 } : PlanStore).activeBank = some .b ∧
    up.cycleTimer.cycle = none ∧
    ({ up with cycleTimer := ⟨some 7, some 0, false, false, 10⟩ }).cycleTimer.cycle = some 7 ∧
    (toTimer up (.slot 39 ⟨7, 975000000, 0⟩)).flight.toCycleTimer = .slot 39 ⟨7, 975000000, 0⟩ :: [] ∧
    (toTimer up (.step ⟨.command, 5, ⟨1, 0, 0⟩⟩)).flight.toCycleTimer =
      .step ⟨.command, 5, ⟨1, 0, 0⟩⟩ :: [] := by
  unfold PlansSound; decide +kernel

theorem witness_ArmAndDisarmPlan :
    (∀ x ∈ [(0, 0), (1, 255), (1, 256), (2, 9)],
      Runs (run up 0 (.armPlan x.1 x.2)) (cmd 0 (.armPlan x.1 x.2)) (.armPlan x.1 x.2)) ∧
    up.access.canWrite 1 5 = false ∧ up.access.canWrite 0 5 = true ∧ up.access.guarded 5 256 = false ∧
    (guarding up 5 256).access.guarded 5 256 = true ∧ (guarding up 5 514).access.guarded 5 514 = true ∧
    (armedB.bank .a).role = .active ∧ (armedB.bank .b).role = .pending ∧
    (up.plans.bank .a).role = .inactive ∧ armedB.pendingBank ≠ none ∧
    (Runs (run up 0 .disarmPlan) (cmd 0 .disarmPlan) .disarmPlan ∧
      Permitted (run up 0 .disarmPlan) (cmd 0 .disarmPlan) 5 514) ∧
    armedB.pendingBank = some .b ∧ up.plans.pendingBank = none ∧ up.plans.relabel = none ∧
    ({ armedB.activate with relabel := some 7 } : PlanStore).pendingBank = none ∧
    ({ armedB.activate with relabel := some 7 } : PlanStore).relabel ≠ none := by
  unfold Runs Permitted; decide +kernel

/-- `s` with an event on its way to D1. -/
def toD1 (s : State) (v : PortEvent) : State :=
  { s with flight := { s.flight with toPort := s.flight.toPort.set 0 [v] } }

theorem witness_PortServesCycle :
    (toD1 busy (.start 8 (some (.a, 3)))).flight.toPort[(0 : Port)] = .start 8 (some (.a, 3)) :: [] ∧
    busy.ports[(0 : Port)].state = .serving ∧
    ((up.modPort 0 fun q => { q with state := .armed }).ports[(0 : Port)].state = .armed ∧
      up.ports[(0 : Port)].link = .up) ∧
    (toD1 busy (.start 8 none)).flight.toPort[(0 : Port)] = .start 8 none :: [] ∧
    up.ports[(0 : Port)].state = .off ∧
    (∃ a ∈ (busy.modPort 0 fun q => { q with answers := [⟨1, 7#16, ⟨7, 0, 0⟩, 1⟩] }).ports[(0 : Port)].answers,
      a.remaining ≤ 1) ∧
    (∀ e ∈ [SlotEntry.idle, .mark, .state, .answer], ∀ cut,
      let s := toD1 (busy.modPort 0 fun q => { q with map := some (List.replicate 40 e) }) (.slot 39 7 cut);
      s.flight.toPort[(0 : Port)] = .slot 39 7 cut :: [] ∧
      s.ports[(0 : Port)].map = some (List.replicate 40 e) ∧ (List.replicate 40 e)[39]? = some e) := by
  decide +kernel

/-- Departures that are due, by the reading or because their instant came before a backward step: a MARK, a
STATE, a reply group not begun and one begun; and one that is not due. -/
theorem witness_MarksAndRepliesLeave :
    (∀ w ∈ [Departing.mark 20, .state 20, .reply none, .reply (some [⟨1, 7#16, ⟨7, 0, 0⟩, 2⟩])],
      ∀ x ∈ [((⟨6200, 500000000, 0⟩ : Stamp), false), (⟨6200, 500000000, 1⟩, true), (⟨6200, 500000000, 1⟩, false)],
      let s := d4.modPort 3 fun q => { q with departures := [⟨x.1, x.2, w⟩] };
      s.ports[(3 : Port)].state = .serving ∧ s.ports[(3 : Port)].departures = ⟨x.1, x.2, w⟩ :: []) ∧
    0 ≤ (d4.reading 0).diff ⟨6200, 500000000, 0⟩ ∧ (d4.reading 0).diff ⟨6200, 500000000, 1⟩ < 0 ∧
    d4.ports[(3 : Port)].map = some (List.replicate 20 .idle ++ [.mark] ++ List.replicate 19 .idle) ∧
    d4.ports[(3 : Port)].word = some ⟨4#8, 6200#24⟩ ∧ ¬d4.ports[(3 : Port)].settings.mute ≤ d4.outputClass ∧
    (d4.modPort 3 fun q => { q with settings := { q.settings with mute := 1 } }).ports[(3 : Port)].settings.mute
      ≤ d4.outputClass := by decide +kernel

theorem witness_QueriesAndCutsAtPorts :
    busy.ports[(0 : Port)].state = .serving ∧ readFrame queryFrame.encode = some (.query 1 7#16) ∧
    (∃ a ∈ busy.ports[(0 : Port)].answers, a.requester = 1 ∧ a.seq = 7#16) ∧
    (¬∃ a ∈ d4.ports[(3 : Port)].answers, a.requester = 1 ∧ a.seq = 7#16) ∧
    d4.ports[(3 : Port)].answers.length < 8 ∧
    (let s := d4.modPort 3 fun q => { q with answers := List.replicate 8 ⟨2, 0#16, ⟨7, 0, 0⟩, 2⟩ };
      (¬∃ a ∈ s.ports[(3 : Port)].answers, a.requester = 1 ∧ a.seq = 7#16) ∧
      8 ≤ s.ports[(3 : Port)].answers.length) ∧
    readFrame [] = none ∧
    readFrame (Frame.mark (markOf true true)).encode = some (.mark (markOf true true)) ∧
    up.ports[(0 : Port)].state ≠ .serving ∧
    (toD1 busy .cut).flight.toPort[(0 : Port)] = .cut :: [] := by decide +kernel

/-- Enabled at YES, NO and other values; each setting at and beyond its ends; CLEAR PORT FLAGS with one port,
all six, one twice, none, seven, and numbers that are no port's, with and without a guard and the right. -/
theorem witness_PortStatesAndFlags :
    (∀ v ∈ [[0#8], [1#8], [2#8], []], ∀ p : Port,
      Runs (writing up 0 6 (32 * p.val) v) (cmd 0 (.writeEntry 6 (32 * p.val) v))
        (.writeEntry 6 (32 * p.val) v) ∧
      Permitted (writing up 0 6 (32 * p.val) v) (cmd 0 (.writeEntry 6 (32 * p.val) v)) 6 (32 * p.val)) ∧
    (∀ p : Port, ∀ x ∈ [(1, 1, 1, 160), (2, 2, 0, 20000), (3, 1, 0, 8), (4, 4, 0, 1600000),
        (5, 4, 0, (1600000 : Int))],
      ∀ v ∈ edges x.2.1 x.2.2.1 x.2.2.2, Writes up 0 6 (32 * p.val + x.1) v) ∧
    busy.ports[(0 : Port)].link = .up ∧ busy.ports[(0 : Port)].state = .serving ∧
    up.ports[(0 : Port)].state = .off ∧
    (∀ named ∈ [[3], [1, 2, 3, 4, 5, 6], [6, 6], [], [1, 2, 3, 4, 5, 6, 6], [0], [1, 7]], ∀ l : Link,
      Runs (run up l (.clearPortFlags named)) (cmd l (.clearPortFlags named)) (.clearPortFlags named)) ∧
    up.access.canWrite 0 6 = true ∧ up.access.canWrite 1 6 = false ∧
    (guarding up 6 45).access.guarded 6 (32 * (2 - 1) + 13) = true ∧
    (∀ n ∈ [1, 2, 3, 4, 5, 6], up.access.guarded 6 (32 * (n - 1) + 13) = false) ∧
    (busy.modPort 4 fun q => { q with overrun := true }).ports[(4 : Port)].overrun = true := by
  unfold Writes Runs Permitted MayWrite; decide +kernel

/-- A rise passed on a HIGH line, on a LOW line squelched by its class or in ACQUIRE, on one that is not;
none passed; a step with none passed, and with one; a fall that is due and one that is not. -/
theorem witness_PulseOutputsRiseAndFall :
    (∀ p ∈ [none, some (Passing.mk 127 0 true), some ⟨0, 2 ^ 64, false⟩],
      (up.modPulse 3 fun o => { o with passed := p }).pulses[(3 : PulseOut)].passed = p) ∧
    ({ PowerOn.pulse with squelch := 7 }).squelch ≤ up.outputClass ∧
    ¬(PowerOn.pulse.squelch ≤ up.outputClass ∨
      (up.steering.state = .acquire ∧ up.steering.options.squelch = true)) ∧
    ((onIn1 .acquire).steering.state = .acquire ∧ (onIn1 .acquire).steering.options.squelch = true) ∧
    PowerOn.pulse.fall = 0 ∧ o1High.fall ≠ 0 ∧ up.pulses[(3 : PulseOut)].passed = none ∧
    ({ up with flight := { up.flight with
      stepsToPulse := Vector.replicate 4 [⟨.steering, 5, ⟨1, 0, 0⟩⟩] } }).flight.stepsToPulse[(3 : PulseOut)] =
      ⟨.steering, 5, ⟨1, 0, 0⟩⟩ :: [] ∧
    (∀ k : PulseOut, ∀ x ∈ [(0, 4, -500000000, 500000000), (1, 4, 1, 500000), (2, 1, 0, (8 : Int))],
      ∀ v ∈ edges x.2.1 x.2.2.1 x.2.2.2, Writes up 0 7 (16 * k.val + x.1) v) := by
  unfold Writes Runs MayWrite; decide +kernel

/-- A due time passed on a line that was IDLE and on one that was SENDING, and none passed; a transmission at
its end and before it; the first and last tick of a sentence, and a place in each kind of bit. -/
theorem witness_CodedOutputsSendSentences :
    (∀ p ∈ [none, some (Passing.mk 127 0 true), some ⟨0, 2 ^ 64, false⟩],
      (up.modCoded 1 fun o => { o with passed := p }).coded[(1 : CodedOut)].passed = p) ∧
    (∀ n ∈ [0, 9], (up.modCoded 1 fun o => { o with line := .sending 406 .none [] n }).coded[
      (1 : CodedOut)].line = .sending 406 .none [] n) ∧ up.coded[(1 : CodedOut)].passed = none ∧
    ({ up with flight := { up.flight with
      stepsToCoded := Vector.replicate 2 [⟨.steering, 5, ⟨1, 0, 0⟩⟩] } }).flight.stepsToCoded[(1 : CodedOut)] =
      ⟨.steering, 5, ⟨1, 0, 0⟩⟩ :: [] ∧
    (∀ p ∈ [Parity.none, .even, .odd],
      let total := (14 + 1 * characterBits p) * (16 * (1 + 1))
      let bit (n : Nat) : Nat := (transmissionTicks 1 p [0x55#8].length - n) / (16 * (1 + 1))
      bit total = 0 ∧ bit (total - 12 * 32) = 12 ∧ bit (total - 13 * 32) = 13 ∧
      (∀ j < characterBits p, bit (total - (14 + j) * 32) = 14 + 0 * characterBits p + j) ∧
      0 < 1 ∧ bit 1 = 13 + characterBits p) ∧ [0x55#8][0]? = some 0x55#8 ∧
    (∀ m : CodedOut, (∀ v ∈ edges 2 0 500, Writes up 0 7 (64 + 16 * m.val) v) ∧
      (∀ v ∈ edges 2 1 65535, Writes up 0 7 (64 + 16 * m.val + 1) v) ∧
      ∀ v ∈ [[0#8], [2#8], [3#8], []], Writes up 0 7 (64 + 16 * m.val + 2) v) := by
  unfold Writes Runs MayWrite; decide +kernel

/-- A transaction not begun, one with its response wholly clocked out and one byte short of it, one ended,
an empty frame, a partial one, one with nothing clocked; command queues with room and without. -/
theorem witness_TransactionsOnLinks :
    up.links[(0 : Link)].transaction = none ∧
    (∀ t ∈ [Transaction.mk 0#8 [] false [], ⟨0#8, [0x21#8, 0#8], false, [0#8, 1#8]⟩,
        ⟨0#8, [0#8], false, [0#8]⟩, ⟨0#8, [0x21#8, 0#8, 0#8, 0xDF#8], true, [0#8, 1#8, 0#8, 0#8]⟩],
      ∀ d ∈ [none, some [1#8], some [1#8, 2#8]],
      let k : LinkUnit := { PowerOn.link with transaction := some t, delivery := d };
      (up.modLink 0 fun _ => k).links[(0 : Link)] = k ∧
      (k.clockedOut = true ↔ (1 < t.out.length ∧ d = some [1#8] ∨ 2 < t.out.length ∧ d = some [1#8, 2#8]))) ∧
    (0x21#8 : Byte) ≠ 0#8 ∧
    (∀ length ∈ [0#8, 64#8],
      length.toNat ≤ 64 ∧ (List.replicate (length.toNat + 1) 0xFF#8).length = length.toNat + 1) ∧
    (64 < (65#8 : Byte).toNat ∧ 64 < (255#8 : Byte).toNat) ∧
    (up.modLink 0 fun k => { k with transaction := some ⟨9#8, [], false, []⟩ }).links[(0 : Link)].transaction =
      some ⟨9#8, [], false, []⟩ ∧
    (linkWith 3 0).commands.length < 4 ∧ 4 ≤ (linkWith 4 0).commands.length := by decide +kernel

/-- Link A escalated; then B, after A was served, with C not eligible. -/
theorem witness_ExecutorGrantsAndAnswers :
    granting.executor.running = none ∧
    granting.links[(0 : Link)].commands =
      [0x21#8, 0#8, 0#8, 0xDF#8] :: List.replicate 3 [0x21#8, 0#8, 0#8, 0xDF#8] ∧
    granting.links[(0 : Link)].responses.length < 4 ∧ granting.links[(0 : Link)].escalated = true ∧
    (∀ m : Link, m ≠ 0 → granting.links[m].escalated ≠ granting.links[(0 : Link)].escalated) ∧
    (let s := { granting with links := #v[linkWith 2 2, linkWith 1 0, linkWith 2 4], executor := ⟨none, 0, 0⟩ }
      let eligible (m : Link) : Prop := s.links[m].commands ≠ [] ∧ s.links[m].responses.length < 4;
      s.links[(1 : Link)].commands = [0x21#8, 0#8, 0#8, 0xDF#8] :: [] ∧ eligible 1 ∧
      s.links[(1 : Link)].escalated = false ∧
      (∀ m, eligible m → s.links[m].escalated = false) ∧
      (∀ m, eligible m → m ≠ 1 →
        ((1 : Link).val + 2 - s.executor.lastServed.val) % 3 < (m.val + 2 - s.executor.lastServed.val) % 3)) ∧
    readCommandFrame [0x21#8, 0#8, 0#8, 0xDF#8] = .ok .discardFallback := by decide +kernel

/-- Reads of a section above 8, without the right, of an index that is listed and of one that is not; and a
write for each answer: the section, the right, the index, the lock, a guard, a read-only entry, its length. -/
theorem witness_EntryChecksInOrder :
    (∀ x ∈ [(0, 2), (4, 4), (8, 17), (9, 0)],
      Runs (run up 0 (.readEntry x.1 x.2)) (cmd 0 (.readEntry x.1 x.2)) (.readEntry x.1 x.2)) ∧
    up.access.canRead 1 4 = true ∧
    (let a := { up.access with rights := #v[⟨1, 0⟩, ⟨1, 0⟩, ⟨1, 0⟩] }
      let s := { up with access := a };
      s.access.canRead 0 1 = false ∧ OwnSetting (cmd 0 .readTime) 1 32 ∧ OwnSetting (cmd 0 .readTime) 1 47 ∧
      ¬OwnSetting (cmd 0 .readTime) 1 48) ∧
    5 ∉ (entriesOf up 0 4).map (fun v => v.1) ∧ 65535 ∉ (entriesOf up 0 8).map (fun v => v.1) ∧
    (∀ x ∈ [(9, 0), (4, 0), (4, 5), (8, 17), (7, 2)], ∀ l : Link,
      Runs (writing up l x.1 x.2 [9#8, 9#8]) (cmd l (.writeEntry x.1 x.2 [9#8, 9#8]))
        (.writeEntry x.1 x.2 [9#8, 9#8])) ∧
    up.access.canWrite 0 4 = true ∧ up.access.canWrite 1 4 = false ∧
    lockedUp.access.lock = true ∧ lockedUp.access.canWrite 0 8 = true ∧
    up.access.guarded 7 2 = false ∧ (guarding up 7 2).access.guarded 7 2 = true ∧
    (0 ∈ readOnlyOf 4 ∧ 17 ∈ readOnlyOf 8 ∧ 2 ∉ readOnlyOf 7) ∧
    (2, [8#8]) ∈ entriesOf up 0 7 ∧ [9#8, 9#8].length ≠ [8#8].length ∧ ¬isMapIndex 7 2 ∧ isMapIndex 5 269 := by
  unfold Runs; decide +kernel

/-- Rights and a guard stored; rights with a tenth section, without IDENTITY read, with IDENTITY written; a
guard of an undefined use, of section 9, of an empty span; values of another length; each check before. -/
theorem witness_AccessWritesAndLock :
    (let bytes (rd wr : BitVec 16) : List Byte :=
        [rd.toNat / 256, rd.toNat, wr.toNat / 256, wr.toNat].map (BitVec.ofNat 8);
      bytes 0x1FF#16 0x1FE#16 = [1#8, 0xFF#8, 1#8, 0xFE#8] ∧ bytes 0x3FF#16 0#16 = [3#8, 0xFF#8, 0#8, 0#8] ∧
      bytes 0x1FE#16 0#16 = [1#8, 0xFE#8, 0#8, 0#8] ∧ bytes 0x1FF#16 1#16 = [1#8, 0xFF#8, 0#8, 1#8]) ∧
    (∀ v ∈ [[1#8, 0xFF#8, 1#8, 0xFE#8], [3#8, 0xFF#8, 0#8, 0#8], [1#8, 0xFE#8, 0#8, 0#8], [1#8, 0xFF#8, 0#8, 1#8]],
      ∀ l : Link, Runs (writing up 0 8 l.val v) (cmd 0 (.writeEntry 8 l.val v)) (.writeEntry 8 l.val v)) ∧
    (let bytes (use sect : Byte) (first last : BitVec 16) : List Byte :=
        use :: sect :: [first.toNat / 256, first.toNat, last.toNat / 256, last.toNat].map (BitVec.ofNat 8);
      bytes 1#8 8#8 5#16 5#16 = [1#8, 8#8, 0#8, 5#8, 0#8, 5#8] ∧
      bytes 1#8 8#8 6#16 5#16 = [1#8, 8#8, 0#8, 6#8, 0#8, 5#8]) ∧
    (∀ v ∈ [[1#8, 8#8, 0#8, 5#8, 0#8, 5#8], [2#8, 0#8, 0#8, 0#8, 0#8, 0#8], [1#8, 9#8, 0#8, 0#8, 0#8, 0#8],
        [1#8, 8#8, 0#8, 6#8, 0#8, 5#8]],
      ∀ k : Fin 4,
        Runs (writing up 0 8 (k.val + 8) v) (cmd 0 (.writeEntry 8 (k.val + 8) v))
          (.writeEntry 8 (k.val + 8) v)) ∧
    (∀ index ∈ [0, 2, 8, 11],
      Runs (writing up 0 8 index []) (cmd 0 (.writeEntry 8 index [])) (.writeEntry 8 index []) ∧
      up.access.guarded 8 index = false ∧ (guarding up 8 index).access.guarded 8 index = true) ∧
    lockedUp.access.lock = true ∧ up.access.lock = false ∧
    (∀ l : Link, Runs (run up l .lockAccess) (cmd l .lockAccess) .lockAccess) ∧
    (guarding up 8 16).access.guarded 8 16 = true ∧ up.access.guarded 8 16 = false ∧
    up.access.canWrite 0 8 = true ∧ up.access.canWrite 1 8 = false := by
  unfold Runs; decide +kernel

/-- A service reset begun, and one that some blocks have taken: commands that end it, and that do not. -/
theorem witness_ResetsByCommand :
    (∀ l : Link, Runs (run busy l .linkReset) (cmd l .linkReset) .linkReset) ∧
    Runs (run busy 0 .serviceReset) (cmd 0 .serviceReset) .serviceReset ∧
    (cmd 0 .serviceReset).resetTaken = [] ∧
    (let r : Running := { cmd 0 .serviceReset with resetTaken := [.notice, .timebase] };
      Runs { busy with executor := { busy.executor with running := some r } } r .serviceReset ∧
      r.resetTaken ≠ [] ∧ (∃ b, b ∉ r.resetTaken ∧ b ∉ [ResetBlock.selector, .input 1]) ∧
      ∀ b, b ∈ r.resetTaken ∨ b ∈ allBlocks.filter fun b => decide (b ∉ r.resetTaken)) ∧
    Permitted (run busy 0 .serviceReset) (cmd 0 .serviceReset) 1 0 ∧
    (Runs (run busy 2 .serviceReset) (cmd 2 .serviceReset) .serviceReset ∧ busy.access.canWrite 2 1 = false ∧
      (guarding busy 1 0).access.guarded 1 0 = true) := by
  refine ⟨?_, ?_, ?_, ⟨?_, ?_, ⟨.planStore, ?_⟩, fun b => ?_⟩, ?_, ?_⟩
  case refine_7 =>
    by_cases h : b ∈ [ResetBlock.notice, .timebase]
    · exact .inl h
    · exact .inr (List.mem_filter.mpr ⟨mem_allBlocks b, by simpa using h⟩)
  all_goals ((try unfold Runs); (try unfold Permitted); decide +kernel)

theorem witness_NoticesLatchedTakenAndEnded :
    (let s := { up with flight := { up.flight with latches := [.timeStepped, .steeringState, .timeStepped] } };
      s.flight.latches = [.timeStepped] ++ .steeringState :: [.timeStepped] ∧
      NoticeClass.steeringState ∉ [NoticeClass.timeStepped]) ∧
    (∀ l : Link, Runs (run busy l .takeNotice) (cmd l .takeNotice) .takeNotice ∧
      Runs (run busy l .endService) (cmd l .endService) .endService) ∧
    (∀ c : Fin 6, (nested up).latch.getLsbD c.val = false) ∧
    (let n := nested (latchB (latchB up .cycle) .sourceSelected);
      n.latch.getLsbD 1 = true ∧ n.mask.getLsbD 1 = false ∧ n.stack = [] ∧ n.latch.getLsbD 0 = false) ∧
    busy.notice.links[(0 : Link)].stack = .timeStepped :: [.planActivated] ∧
    busy.notice.links[(1 : Link)].stack = [] ∧
    (∀ l : Link,
      (∀ v ∈ [[0#8], [63#8], [64#8], []], Writes up l 1 (32 + 16 * l.val) v) ∧
      (∀ v ∈ [[0#8], [1#8], [2#8], []], Writes up l 1 (32 + 16 * l.val + 1) v) ∧
      (∀ v ∈ [[0#8], [3#8], [4#8], []], Writes up l 1 (32 + 16 * l.val + 2) v) ∧
      (∀ v ∈ edges 1 0 39, Writes up l 1 (32 + 16 * l.val + 3) v) ∧
      ∀ v ∈ [[0#8], [15#8], [16#8], []], Writes up l 1 (32 + 16 * l.val + 4) v) ∧
    (up.access.canWrite 2 1 = false ∧ OwnSetting (cmd 2 .readTime) 1 64) := by
  unfold Writes Runs MayWrite; decide +kernel

/-- A completion record of cycle 7 with every port at NOT_SERVING but D1. -/
def record (r : Option Report) : CompletionRecord :=
  ⟨7, #v[r, some .notServing, some .notServing, some .notServing, some .notServing, some .notServing]⟩

/-- Cycle 7 with D1's last report and a step on their way, link A told at COMPLETE. -/
def closing (held : Option Report) (last : Report) : State :=
  let s := up.modNotice 0 fun n => { n with modeNow := .complete }
  { s with
    cycleTimer := { s.cycleTimer with cycle := some 7 }
    notice := { s.notice with completion := some (record held) }
    flight := { s.flight with
      toCycleTimer := [.step ⟨.command, 1, ⟨7, 1, 0⟩⟩, .boundary 8 ⟨8, 0, 0⟩]
      reports := s.flight.reports.set 0 [⟨7, last⟩] } }

/-- A cycle cut by a step completes only if it had already done so: the explanation of R190. The report is
taken before the cut; between the cut and the next cycle start; after the resume start has been made. -/
theorem test_cut_cycle_completes_only_before :
    ∀ x ∈ [(none, Report.noneDue), (none, .notServing), (some Report.marksDue, .closed)],
      let s := closing x.1 x.2
      let report (s : State) : State := after (exec (.portCompletionReport 0) s)
      let cycle (s : State) : State := after (exec .cycleStart s)
      let cut (s : State) : State := after (exec .cycleCut s)
      let told (s : State) : Bool := s.notice.links[(0 : Link)].latch.getLsbD 5
      told (report s) = true ∧ told (cut (report s)) = true ∧
      told (report (cut s)) = false ∧ told (report (cycle (cut s))) = false := by
  decide +kernel

/-- A cycle start with an early report of its cycle and one of another, and its cycle cut and not, before the
next cycle start and after it; slot 39, cut and not; a report and its CLOSED with no record, with a record of its cycle with a report of the port and with none, with a record
of another cycle, and behind an early report. -/
theorem witness_CycleNoticeOncePerCycle :
    (∀ flag, ∀ rest ∈ [[], [.start 9 flag ⟨9, 0, 0⟩]],
      let s := { up with
        cycleTimer := { up.cycleTimer with cut := flag }
        flight := { up.flight with cyclesToNotice := .start 8 false ⟨8, 0, 0⟩ :: rest }
        notice := { up.notice with early := [(0, ⟨8, .marksDue⟩), (0, ⟨8, .closed⟩), (1, ⟨9, .noneDue⟩)] } };
      s.flight.cyclesToNotice = .start 8 false ⟨8, 0, 0⟩ :: rest) ∧
    (∀ cut,
      let s := { up with
        flight := { up.flight with cyclesToNotice := [.slot 39 7 cut ⟨7, 975000000, 0⟩] }
        notice := { up.notice with completion := some (record none) } };
      s.flight.cyclesToNotice = .slot 39 7 cut ⟨7, 975000000, 0⟩ :: [] ∧
      s.notice.completion = some (record none)) ∧
    (∀ k ∈ [Report.noneDue, .closed], ∀ cycle ∈ [7, 8],
      ∀ c ∈ [none, some (record none), some (record (some .marksDue))],
      ∀ early ∈ [[], [((0 : Port), (⟨8, .marksDue⟩ : PortReport))]],
      let s := { up with
        flight := { up.flight with reports := up.flight.reports.set 0 [⟨cycle, k⟩] }
        notice := { up.notice with completion := c, early := early } }
      s.flight.reports[(0 : Port)] = ⟨cycle, k⟩ :: [] ∧ s.notice.completion = c ∧
      ((∃ x ∈ s.notice.early, x.1 = 0) ↔ early ≠ [])) ∧
    (record none).reports[(0 : Port)] = none ∧ (record (some .marksDue)).reports[(0 : Port)] ≠ none ∧
    (record none).cycle = 7 := by
  decide +kernel

theorem witness_FaultQueuesTakeAndGive :
    (∀ code ∈ [1, 16, 32, 48],
      let s := { up with flight := { up.flight with
        faults := [(.steering, ⟨17, 0, 7⟩), (.port 0, ⟨code, 1, 7⟩)] } }
      s.flight.faults = [(.steering, ⟨17, 0, 7⟩)] ++ (.port 0, ⟨code, 1, 7⟩) :: [] ∧
      ∀ x ∈ [((.steering : FaultOrigin), (⟨17, 0, 7⟩ : FaultEntry))], x.1 ≠ .port 0) ∧
    (∀ l : Link, Runs (run busy l .peekFault) (cmd l .peekFault) .peekFault ∧
      Runs (run busy l .popFault) (cmd l .popFault) .popFault ∧
      Runs (run busy l .clearFaultOverflow) (cmd l .clearFaultOverflow) .clearFaultOverflow) := by
  unfold Runs; decide +kernel

end Sys2Proof.Tests
end

/-! SUPPORT. What leaves the timebase alone (R1, R7 to R9): every operation of the other blocks, chapter by
chapter. -/

namespace Sys2Proof.Machine

open Sys2Proof.Config Sys2Proof.Safety

section TimebaseFrame

variable (s : State)

/-! ### Answers of the executor -/

@[simp] theorem State.answer_timebase (r : Running) (st : Status) : (s.answer r st).timebase = s.timebase := rfl

/-- A checked write moves the timebase only as its continuation does. -/
theorem State.checkedWrite_timebase {s : State} {r : Running} {sect index : Nat} {k : State}
    (hk : k.timebase = s.timebase) : (s.checkedWrite r sect index k).timebase = s.timebase := by
  rcases s.checkedWrite_cases r sect index k with ⟨-, h⟩ | ⟨-, -, h⟩ | ⟨-, h⟩ <;> simp [h, hk]

/-- A row of the executor keeps the timebase when every command it accepts does. -/
theorem State.onCommand_timebase {s : State} {f : Running → Command → Option State}
    (hf : ∀ r c t, f r c = some t → t.timebase = s.timebase) : (s.onCommand f).timebase = s.timebase := by
  rcases s.onCommand_cases f with h | ⟨r, t, -, h, h'⟩
  · rw [h]
  · rw [h', hf r _ t h]

/-! ### Input units (chapter 2) -/

@[simp] theorem State.followScale_timebase (e : Ext) : (s.followScale e).timebase = s.timebase := by
  unfold State.followScale; split <;> rfl

@[simp] theorem State.formPair_timebase (u : InUnit) (tod : TimeOfDay) (c : Stamp) :
    (s.formPair u tod c).timebase = s.timebase := by
  unfold State.formPair; dsimp only; split <;> simp

@[simp] theorem State.emitUnpaired_timebase (u : InUnit) : (s.emitUnpaired u).timebase = s.timebase := by
  simp [State.emitUnpaired_eq]

@[simp] theorem State.settleHeld_timebase (u : InUnit) (now : Stamp) :
    (s.settleHeld u now).timebase = s.timebase := by
  unfold State.settleHeld; split <;> simp

@[simp] theorem State.orphan_timebase (u : InUnit) : (s.orphan u).timebase = s.timebase := rfl

@[simp] theorem State.pairPulse_timebase (u : InUnit) (c : Stamp) : (s.pairPulse u c).timebase = s.timebase := by
  unfold State.pairPulse
  split
  · simp
  · split <;> simp

@[simp] theorem State.pairSentence_timebase (u : InUnit) (tod : TimeOfDay) (now : Stamp) :
    (s.pairSentence u tod now).timebase = s.timebase := by
  unfold State.pairSentence
  dsimp only
  split
  · split <;> simp
  · simp

@[simp] theorem State.acceptPulse_timebase (u : InUnit) (c : Stamp) (n : Count) :
    (s.acceptPulse u c n).timebase = s.timebase := by
  simp [State.acceptPulse]

@[simp] theorem State.pulse_timebase (u : InUnit) (c : Stamp) : (s.pulse u c).timebase = s.timebase := by
  unfold State.pulse
  dsimp only
  split
  · simp
  · simp
  · split <;> simp

@[simp] theorem State.miss_timebase (u : InUnit) : (s.miss u).timebase = s.timebase := rfl

/-! ### Source selector (chapter 4) -/

@[simp] theorem State.modInputOf_timebase (e : Ext) (f : InputUnit → InputUnit) :
    (s.modInputOf e f).timebase = s.timebase := by
  unfold State.modInputOf; split <;> rfl

@[simp] theorem State.modUplinkOf_timebase (e : Ext) (f : UplinkUnit → UplinkUnit) :
    (s.modUplinkOf e f).timebase = s.timebase := by
  unfold State.modUplinkOf; split <;> rfl

@[simp] theorem State.selectSource_timebase (i : Source) : (s.selectSource i).timebase = s.timebase := by
  rw [State.selectSource_eq]; split <;> rfl

@[simp] theorem State.push_timebase (e : Ext) (c : Cause) : (s.push e c).timebase = s.timebase := rfl

@[simp] theorem State.maskOptions_timebase : s.maskOptions.timebase = s.timebase := rfl

@[simp] theorem State.failureSwitch_timebase : s.failureSwitch.timebase = s.timebase := by
  simp [State.failureSwitch]

@[simp] theorem State.leaveTrial_timebase (e : Ext) : (s.leaveTrial e).timebase = s.timebase := by
  simp [State.leaveTrial]

@[simp] theorem State.faultEntry_timebase (e : Ext) (c : Cause) : (s.faultEntry e c).timebase = s.timebase := by
  unfold State.faultEntry; dsimp only; split <;> simp

@[simp] theorem State.revertTest_timebase (n : Nat) : (s.revertTest n).timebase = s.timebase :=
  State.revertTest_induct (P := fun v => v.timebase = s.timebase) s n rfl
    (fun _ _ _ h _ _ => h) (fun v t _ h _ _ _ => (v.selectSource_timebase (toSource t.source)).trans h)

@[simp] theorem State.revert_timebase : s.revert.timebase = s.timebase :=
  s.revertTest_timebase _

@[simp] theorem State.upgradeTest_timebase : s.upgradeTest.timebase = s.timebase := by
  rcases s.upgradeTest_cases with h | ⟨b, -, -, h⟩ <;> simp [h]

/-- A change that may move an effective class moves the timebase only as the change itself does. -/
theorem State.withClassChange_timebase {s : State} {e : Ext} {f : State → State}
    (hf : (f s).timebase = s.timebase) : (s.withClassChange e f).timebase = s.timebase := by
  rcases s.withClassChange_cases e f with h | h <;> simp [h, hf]

@[simp] theorem State.enterTrial_timebase (e : Ext) (b : Bool) : (s.enterTrial e b).timebase = s.timebase := by
  simp [State.enterTrial]

@[simp] theorem State.becomeUsable_timebase (e : Ext) : (s.becomeUsable e).timebase = s.timebase := by
  unfold State.becomeUsable
  dsimp only
  split_ifs <;> simp

@[simp] theorem State.heardReport_timebase (e : Ext) (k : ReportKind) :
    (s.heardReport e k).timebase = s.timebase := by
  unfold State.heardReport
  cases k with
  | accepted => rfl
  | stray => rfl
  | miss => dsimp only; split_ifs <;> simp

@[simp] theorem State.takeReport_timebase (e : Ext) (k : ReportKind) :
    (s.takeReport e k).timebase = s.timebase := by
  unfold State.takeReport; split <;> simp

@[simp] theorem State.takeGood_timebase (e : Ext) (c : Int) : (s.takeGood e c).timebase = s.timebase := by
  unfold State.takeGood
  dsimp only
  split
  · split_ifs <;> simp
  · simp

@[simp] theorem State.takeBad_timebase (e : Ext) (c : BadCause) : (s.takeBad e c).timebase = s.timebase := by
  unfold State.takeBad; dsimp only; split <;> simp

@[simp] theorem State.takePhase_timebase (e : Ext) (ev : PhaseEvent) :
    (s.takePhase e ev).timebase = s.timebase := by
  unfold State.takePhase
  split
  · rfl
  · dsimp only
    generalize hv : (if s.selector.entries[e].state = .absent then s.enterTrial e false else s) = v
    have h : v.timebase = s.timebase := by
      rw [← hv]; split <;> simp
    split
    · simp [h]
    · split <;> simp [h]

@[simp] theorem State.enableSource_timebase (e : Ext) : (s.enableSource e).timebase = s.timebase := by
  unfold State.enableSource; split <;> simp

@[simp] theorem State.switchOff_timebase (e : Ext) : (s.switchOff e).timebase = s.timebase := by
  unfold State.switchOff; dsimp only; split <;> simp

@[simp] theorem State.disableSource_timebase (e : Ext) : (s.disableSource e).timebase = s.timebase := by
  have hj : (s.withClassChange e fun t => t.switchOff e).timebase = s.timebase :=
    State.withClassChange_timebase (s.switchOff_timebase e)
  unfold State.disableSource
  dsimp only
  split_ifs <;> simp [hj]

@[simp] theorem State.countTimers_timebase (e : Ext) : (s.countTimers e).timebase = s.timebase := by
  unfold State.countTimers
  dsimp only
  split
  · split
    · split <;> simp
    · rfl
  · simp
  · rfl

/-- A fold of operations that each keep the timebase keeps it. -/
theorem foldl_timebase {α : Type} {f : State → α → State} (hf : ∀ v a, (f v a).timebase = v.timebase)
    (l : List α) (s : State) : (l.foldl f s).timebase = s.timebase := by
  induction l generalizing s with
  | nil => rfl
  | cons a l ih => rw [List.foldl_cons, ih, hf]

@[simp] theorem State.selectorCycle_timebase : s.selectorCycle.timebase = s.timebase := by
  unfold State.selectorCycle
  split
  · rfl
  · simp [foldl_timebase State.countTimers_timebase]

@[simp] theorem State.manualSwitch_timebase (i : Source) : (s.manualSwitch i).timebase = s.timebase := by
  unfold State.manualSwitch; split <;> simp

@[simp] theorem State.runSwitchSource_timebase (r : Running) (n : Nat) :
    (s.runSwitchSource r n).timebase = s.timebase := by
  refine State.checkedWrite_timebase ?_
  split
  · dsimp only
    split
    · rfl
    · split_ifs <;> simp
  · rfl

@[simp] theorem State.runDiscardFallback_timebase (r : Running) :
    (s.runDiscardFallback r).timebase = s.timebase := by
  refine State.checkedWrite_timebase ?_
  split <;> simp

/-! ### Serial lines (chapter 2) and uplink units (chapter 3) -/

@[simp] theorem State.takeDescriptor_timebase (u : InUnit) (body : List Byte) :
    (s.takeDescriptor u body).timebase = s.timebase := by
  unfold State.takeDescriptor
  split
  · rfl
  · exact State.withClassChange_timebase rfl

@[simp] theorem State.sentence_timebase (u : InUnit) (k : Byte) (n : Nat) (body : List Byte) (c : Byte)
    (now : Stamp) : (s.sentence u k n body c now).timebase = s.timebase := by
  unfold State.sentence; dsimp only; split_ifs <;> simp

@[simp] theorem State.deliver_timebase (u : InUnit) (c : Byte) (now : Stamp) :
    (s.deliver u c now).timebase = s.timebase := by
  unfold State.deliver; split <;> simp

@[simp] theorem State.release_timebase (u : UpUnit) (t1 t2 : Stamp) :
    (s.release u t1 t2).timebase = s.timebase := rfl

@[simp] theorem State.confirm_timebase (u : UpUnit) (m : MarkFields) (t1 t2 : Stamp) :
    (s.confirm u m t1 t2).timebase = s.timebase := by
  unfold State.confirm
  split
  · simp
  · simp
  · split
    · rfl
    · dsimp only; split <;> simp
  · rfl

@[simp] theorem State.takeMark_timebase (u : UpUnit) (m : MarkFields) (a : Stamp) :
    (s.takeMark u m a).timebase = s.timebase := by
  simp [State.takeMark]

@[simp] theorem State.takeUpstream_timebase (u : UpUnit) (c : Nat) (sc : Int) :
    (s.takeUpstream u c sc).timebase = s.timebase := by
  unfold State.takeUpstream
  rw [State.followScale_timebase]
  exact State.withClassChange_timebase rfl

@[simp] theorem State.uplinkCycle_timebase (u : UpUnit) (n : Nat) (d : Stamp) :
    (s.uplinkCycle u n d).timebase = s.timebase := by
  unfold State.uplinkCycle
  dsimp only
  split
  · split <;> rfl
  · rfl

@[simp] theorem State.takeUplinkCycle_timebase (u : UpUnit) : (s.takeUplinkCycle u).timebase = s.timebase := by
  unfold State.takeUplinkCycle; split <;> simp

/-! ### Steering unit (chapter 5) -/

@[simp] theorem State.requestStep_timebase (e : Ext) (d : Int) : (s.requestStep e d).timebase = s.timebase := rfl

@[simp] theorem State.lockTest_timebase (c : Int) : (s.lockTest c).timebase = s.timebase := by
  unfold State.lockTest; dsimp only; split_ifs <;> rfl

@[simp] theorem State.reportExcursion_timebase (e : Ext) (h : Bool) :
    (s.reportExcursion e h).timebase = s.timebase := rfl

@[simp] theorem State.excursionTest_timebase (e : Ext) (c : Int) :
    (s.excursionTest e c).timebase = s.timebase := by
  unfold State.excursionTest; dsimp only; split_ifs <;> rfl

@[simp] theorem State.steer_timebase (e : Ext) (c : Int) : (s.steer e c).timebase = s.timebase := by
  unfold State.steer; dsimp only; split <;> simp

@[simp] theorem State.takeGoodEvent_timebase (e : Ext) (c x : Int) :
    (s.takeGoodEvent e c x).timebase = s.timebase := by
  unfold State.takeGoodEvent; dsimp only; split_ifs <;> simp

@[simp] theorem State.takeStepAnnouncement_timebase (o : StepOrigin) :
    (s.takeStepAnnouncement o).timebase = s.timebase := by
  unfold State.takeStepAnnouncement; dsimp only; split <;> rfl

@[simp] theorem State.acquireSource_timebase (e : Ext) : (s.acquireSource e).timebase = s.timebase := by
  unfold State.acquireSource; dsimp only; split <;> rfl

@[simp] theorem State.leaveSource_timebase : s.leaveSource.timebase = s.timebase := by
  unfold State.leaveSource
  split
  · rfl
  · dsimp only; split <;> rfl

@[simp] theorem State.ageHoldover_timebase (n : Nat) : (s.ageHoldover n).timebase = s.timebase := by
  unfold State.ageHoldover; split_ifs <;> rfl

@[simp] theorem State.steeringCycle_timebase : s.steeringCycle.timebase = s.timebase := by
  unfold State.steeringCycle; split <;> simp

/-! ### Cycle timer and plan store (chapter 6) -/

@[simp] theorem State.activatePlan_timebase : s.activatePlan.timebase = s.timebase := by
  unfold State.activatePlan; dsimp only; split <;> rfl

@[simp] theorem State.countRequests_timebase (u : InUnit) : (s.countRequests u).timebase = s.timebase := by
  unfold State.countRequests; split <;> rfl

@[simp] theorem State.handCycle_timebase (n : Nat) (b : Bool) (i : Stamp) :
    (s.handCycle n b i).timebase = s.timebase := rfl

@[simp] theorem State.startCycle_timebase (n : Nat) (i : Stamp) : (s.startCycle n i).timebase = s.timebase := by
  unfold State.startCycle; dsimp only; split <;> simp

@[simp] theorem State.handSlot_timebase (k n : Nat) (i : Stamp) : (s.handSlot k n i).timebase = s.timebase := rfl

@[simp] theorem State.startSlot_timebase (k : Nat) (i : Stamp) : (s.startSlot k i).timebase = s.timebase := by
  unfold State.startSlot; split <;> simp

@[simp] theorem State.cutCycle_timebase : s.cutCycle.timebase = s.timebase := rfl

@[simp] theorem State.runArmPlan_timebase (r : Running) (b n : Nat) :
    (s.runArmPlan r b n).timebase = s.timebase := by
  unfold State.runArmPlan
  split
  · rfl
  · split
    · rfl
    · split_ifs
      · rfl
      · rfl
      · split <;> rfl

@[simp] theorem State.runDisarmPlan_timebase (r : Running) : (s.runDisarmPlan r).timebase = s.timebase := by
  refine State.checkedWrite_timebase ?_
  split <;> rfl

/-! ### Distribution ports (chapter 7) -/

@[simp] theorem State.portCycle_timebase (p : Port) (n : Nat) (nm : Option (BankName × Nat)) :
    (s.portCycle p n nm).timebase = s.timebase := by
  unfold State.portCycle
  split
  · split
    · dsimp only; split <;> simp
    · rfl
  · rfl

@[simp] theorem State.takePortCycle_timebase (p : Port) : (s.takePortCycle p).timebase = s.timebase := by
  unfold State.takePortCycle; split <;> simp

@[simp] theorem State.sendMark_timebase (p : Port) (k : Nat) (b : Bool) (x : Elapsed) :
    (s.sendMark p k b x).timebase = s.timebase := by
  unfold State.sendMark; dsimp only; split <;> rfl

@[simp] theorem State.departMark_timebase (p : Port) (k : Nat) (b : Bool) (x : Elapsed) :
    (s.departMark p k b x).timebase = s.timebase := by
  unfold State.departMark; dsimp only; split <;> simp

@[simp] theorem State.departReply_timebase (p : Port) (d : Departure) (l : Option (List Answer)) (n : Nat) :
    (s.departReply p d l n).timebase = s.timebase := by
  unfold State.departReply; dsimp only; split <;> rfl

@[simp] theorem State.takeQuery_timebase (p : Port) (r : Nat) (q : Seq) (a : Stamp) :
    (s.takeQuery p r q a).timebase = s.timebase := by
  unfold State.takeQuery; dsimp only; split_ifs <;> rfl

@[simp] theorem State.portDown_timebase (p : Port) : (s.portDown p).timebase = s.timebase := by
  unfold State.portDown; dsimp only; split_ifs <;> rfl

@[simp] theorem State.runClearPortFlags_timebase (r : Running) (l : List Nat) :
    (s.runClearPortFlags r l).timebase = s.timebase := by
  unfold State.runClearPortFlags
  dsimp only
  split_ifs
  · rfl
  · rfl
  · rfl
  · rfl
  · rw [State.respond_timebase]
    exact foldl_timebase (fun v p => v.modPort_timebase p _) _ s

/-! ### Management links and the executor's own commands (chapter 10) -/

@[simp] theorem State.badFrame_timebase (l : Link) (tag : Byte) (st : Status) :
    (s.badFrame l tag st).timebase = s.timebase := by
  unfold State.badFrame; dsimp only; split <;> rfl

@[simp] theorem State.takeCommand_timebase (l : Link) (f : List Byte) :
    (s.takeCommand l f).timebase = s.timebase := by
  unfold State.takeCommand; split <;> simp

@[simp] theorem State.grant_timebase (l : Link) : (s.grant l).timebase = s.timebase := by
  unfold State.grant; split <;> simp

@[simp] theorem State.runReadEntry_timebase (r : Running) (i j : Nat) (x : Elapsed) :
    (s.runReadEntry r i j x).timebase = s.timebase := by
  unfold State.runReadEntry
  split_ifs
  · rfl
  · rfl
  · split <;> rfl

@[simp] theorem State.runReadTime_timebase (r : Running) (x : Elapsed) :
    (s.runReadTime r x).timebase = s.timebase := by
  unfold State.runReadTime; split <;> rfl

@[simp] theorem State.runLockAccess_timebase (r : Running) : (s.runLockAccess r).timebase = s.timebase := by
  unfold State.runLockAccess; split_ifs <;> rfl

@[simp] theorem State.runLinkReset_timebase (r : Running) : (s.runLinkReset r).timebase = s.timebase := rfl

/-! ### Notices (chapter 11) -/

@[simp] theorem State.mapNotice_timebase (f : NoticeLink → NoticeLink) :
    (s.mapNotice f).timebase = s.timebase := rfl

@[simp] theorem State.judgeCycle_timebase : s.judgeCycle.timebase = s.timebase := by
  unfold State.judgeCycle; split <;> rfl

@[simp] theorem State.noticeCycle_timebase (n : Nat) : (s.noticeCycle n).timebase = s.timebase := by
  simp [State.noticeCycle]

@[simp] theorem State.noticeSlot_timebase (k : Nat) (b : Bool) : (s.noticeSlot k b).timebase = s.timebase := by
  simp [State.noticeSlot]

@[simp] theorem State.runTakeNotice_timebase (r : Running) : (s.runTakeNotice r).timebase = s.timebase := by
  unfold State.runTakeNotice; dsimp only; split <;> rfl

@[simp] theorem State.runEndService_timebase (r : Running) : (s.runEndService r).timebase = s.timebase := by
  unfold State.runEndService; split <;> rfl

@[simp] theorem State.runPeekFault_timebase (r : Running) : (s.runPeekFault r).timebase = s.timebase := rfl

@[simp] theorem State.runPopFault_timebase (r : Running) : (s.runPopFault r).timebase = s.timebase := rfl

@[simp] theorem State.runClearFaultOverflow_timebase (r : Running) :
    (s.runClearFaultOverflow r).timebase = s.timebase := rfl

end TimebaseFrame

end Sys2Proof.Machine

/-! SUPPORT. What a service reset makes of each block, whatever the order of the blocks (R183). -/

namespace Sys2Proof.Machine

open Sys2Proof.Config Sys2Proof.Safety

/-! ### One block's service reset -/

/-- An entry that leaves TRIAL stops at most its input unit's request timer. -/
theorem State.leaveIfTrial_eq (s : State) (e : Ext) :
    ∃ v : Vector InputUnit 2, s.leaveIfTrial e = { s with inputs := v } ∧
      ∀ u : InUnit, v[u] = s.inputs[u] ∨ v[u] = { s.inputs[u] with requestTimer := none } := by
  have kept : ∃ v : Vector InputUnit 2, s = { s with inputs := v } ∧
      ∀ u : InUnit, v[u] = s.inputs[u] ∨ v[u] = { s.inputs[u] with requestTimer := none } :=
    ⟨s.inputs, rfl, fun _ => .inl rfl⟩
  unfold State.leaveIfTrial State.leaveTrial State.modInputOf
  split
  · split
    · next u _ =>
      refine ⟨_, rfl, fun w => ?_⟩
      by_cases h : u = w
      · subst h; exact .inr (Vector.getElem_set_self _)
      · exact .inl (Vector.getElem_set_ne _ _ (fun he => h (Fin.ext he)))
    · exact kept
  · exact kept

theorem State.foldl_leaveIfTrial_eq (l : List Ext) (s : State) :
    ∃ v : Vector InputUnit 2, l.foldl State.leaveIfTrial s = { s with inputs := v } ∧
      ∀ u : InUnit, v[u] = s.inputs[u] ∨ v[u] = { s.inputs[u] with requestTimer := none } := by
  induction l generalizing s with
  | nil => exact ⟨s.inputs, rfl, fun _ => .inl rfl⟩
  | cons e l ih =>
    obtain ⟨v, hv, hu⟩ := s.leaveIfTrial_eq e
    obtain ⟨w, hw, hwu⟩ := ih (s.leaveIfTrial e)
    refine ⟨w, by rw [List.foldl_cons, hw, hv], fun u => ?_⟩
    have hin : (s.leaveIfTrial e).inputs = v := by rw [hv]
    have h1 := hwu u
    rw [hin] at h1
    rcases hu u with h2 | h2 <;> rw [h2] at h1
    · exact h1
    · exact .inr (h1.elim id id)

/-- What the service reset of the block `b` makes of `s`: the block at its service reset column, and the
others kept but for what a block's reset clears elsewhere: an entry's descriptor (R37), a request timer (R34),
the scale offset presented (R105). -/
structure BlockReset (s : State) (b : ResetBlock) (t : State) : Prop where
  timebase : t.timebase = if b = .timebase then s.timebase.serviceReset else s.timebase
  input : ∀ u : InUnit,
    if b = .input u then t.inputs[u] = s.inputs[u].serviceReset (s.inputEnabled u)
    else t.inputs[u] = s.inputs[u] ∨ t.inputs[u] = { s.inputs[u] with requestTimer := none }
  uplink : ∀ u : UpUnit,
    t.uplinks[u] = if b = .uplink u then s.uplinks[u].serviceReset else s.uplinks[u]
  entry : ∀ e : Ext,
    if b = .selector then t.selector.entries[e] = s.selector.entries[e].serviceReset
    else t.selector.entries[e] = s.selector.entries[e] ∨
      t.selector.entries[e] = { s.selector.entries[e] with descriptor := none }
  selected : t.selector.selected = if b = .selector then localSource else s.selector.selected
  stack : t.selector.stack = if b = .selector then [] else s.selector.stack
  settings : t.selector.settings = s.selector.settings
  steering :
    if b = .steering then t.steering = s.steering.serviceReset
    else t.steering = s.steering ∨
      s.steering.steered ≠ none ∧ ∃ c, t.steering = { s.steering with scale := c }
  cycleTimer : t.cycleTimer = s.cycleTimer
  plans : t.plans = if b = .planStore then s.plans.serviceReset else s.plans
  port : ∀ p : Port, t.ports[p] = if b = .port p then s.ports[p].serviceReset else s.ports[p]
  pulses : t.pulses = if b = .outputs then
    s.pulses.map fun o => { o with sent := 0, squelched := 0, overlapped := 0 } else s.pulses
  coded : t.coded = if b = .outputs then
    s.coded.map fun o => { o with sent := 0, skipped := 0 } else s.coded
  links : t.links = s.links
  noticeLinks : t.notice.links =
    if b = .notice then s.notice.links.map NoticeLink.serviceReset else s.notice.links
  completion : t.notice.completion = s.notice.completion
  completeMet : t.notice.completeMet = s.notice.completeMet
  early : t.notice.early = s.notice.early
  executor : t.executor = s.executor
  access : t.access = s.access

theorem State.followScale_cases (s : State) (e : Ext) :
    s.followScale e = s ∨
    s.steering.steered ≠ none ∧ ∃ c, s.followScale e = { s with steering := { s.steering with scale := c } } := by
  unfold State.followScale
  split
  · next h => exact .inr ⟨by rw [h]; exact Option.some_ne_none e, _, rfl⟩
  · exact .inl rfl

/-- Presenting a scale offset adds nothing to a block's reset but the offset. -/
theorem BlockReset.followScale {s t : State} {b : ResetBlock} (h : BlockReset s b t) (hb : b ≠ .steering)
    (hs : t.steering = s.steering) (e : Ext) : BlockReset s b (t.followScale e) := by
  rcases t.followScale_cases e with h' | ⟨hne, c, h'⟩ <;> rw [h']
  · exact h
  · refine { h with steering := ?_ }
    rw [if_neg hb]
    rw [hs] at hne
    exact .inr ⟨hne, c, by rw [hs]⟩

/-- A vector with the item at `i` changed, read at `j`. -/
theorem getElem_set_apply {α : Type} {n : Nat} (v : Vector α n) (i j : Fin n) (f : α → α) :
    (v.set i (f v[i]))[j] = if i = j then f v[j] else v[j] := by
  by_cases h : i = j
  · subst h; simp
  · simp [h, Fin.val_inj]

theorem State.resetInput_reset (s : State) (u : InUnit) : BlockReset s (.input u) (s.resetInput u) := by
  refine BlockReset.followScale (s := s) ?_ (by simp) ?_ _
  on_goal 2 => rfl
  constructor
  case input =>
    intro w
    have h := getElem_set_apply s.inputs u w (·.serviceReset (s.inputEnabled u))
    by_cases hw : u = w
    · subst hw; rw [if_pos rfl] at h ⊢; exact h
    · rw [if_neg hw] at h; rw [if_neg (by simpa using hw)]; exact .inl h
  case entry =>
    intro e
    have h := getElem_set_apply s.selector.entries (inSource u) e fun n => { n with descriptor := none }
    rw [if_neg (by simp)]
    by_cases he : inSource u = e
    · exact .inr (h.trans (if_pos he))
    · exact .inl (h.trans (if_neg he))
  all_goals simp

theorem State.resetUplink_reset (s : State) (u : UpUnit) : BlockReset s (.uplink u) (s.resetUplink u) := by
  refine BlockReset.followScale (s := s) ?_ (by simp) ?_ _
  on_goal 2 => rfl
  constructor
  case uplink => exact fun w => (getElem_set_apply s.uplinks u w _).trans (by simp)
  all_goals simp

theorem State.resetSelector_reset (s : State) (steeringDone : Bool) :
    BlockReset s .selector (s.resetSelector steeringDone) := by
  obtain ⟨v, hv, hu⟩ := State.foldl_leaveIfTrial_eq allExt s
  have he : ∃ f, s.resetSelector steeringDone =
      { s with
        inputs := v
        selector := { s.selector with
          entries := s.selector.entries.map SourceEntry.serviceReset, selected := localSource, stack := [] }
        flight := f } := by
    unfold State.resetSelector
    rw [hv]
    dsimp only
    split
    · exact ⟨_, rfl⟩
    · exact ⟨s.flight, rfl⟩
  obtain ⟨f, he⟩ := he
  rw [he]
  constructor
  case input => exact fun u => hu u
  all_goals simp

/-- What a service reset makes of the part, block by block (R183). -/
theorem State.resetBlock_reset (s : State) (done : List ResetBlock) (b : ResetBlock) :
    BlockReset s b (s.resetBlock done b) := by
  cases b with
  | timebase => constructor <;> simp [State.resetBlock]
  | input u => exact s.resetInput_reset u
  | uplink u => exact s.resetUplink_reset u
  | selector => exact s.resetSelector_reset _
  | steering => constructor <;> simp [State.resetBlock, State.resetSteering]
  | planStore => constructor <;> simp [State.resetBlock]
  | port p =>
    constructor
    case port => exact fun q => (getElem_set_apply s.ports p q _).trans (by simp)
    all_goals simp [State.resetBlock]
  | outputs => constructor <;> simp [State.resetBlock, State.resetOutputs]
  | notice => constructor <;> simp [State.resetBlock, State.mapNotice]

/-! ### The blocks named, in any order (R183) -/

section ResetBlocks

variable (s : State) (done blocks : List ResetBlock)

/-- What no block's reset touches, a service reset keeps. -/
theorem State.resetBlocks_keeps {α : Type} {π : State → α} (h : ∀ v d b, π (v.resetBlock d b) = π v) :
    π (s.resetBlocks done blocks).1 = π s :=
  State.resetBlocks_induct (P := fun v _ => π v = π s) s done blocks rfl fun v d b hv _ =>
    (h v d b).trans hv

/-- What the block `b₀` resets to `f` of it, and other blocks' resets leave or blur by `R`, ends reset when
`b₀` is among the blocks named: `f` sees through a blur before it, and a blur after it changes nothing. -/
theorem State.resetBlocks_resets_of_blur {α : Type} {π : State → α} {b₀ : ResetBlock} {f : α → α}
    {R : α → α → Prop} (hf : ∀ x y, R x y → f y = f x) (hR : ∀ x y, R (f x) y → y = f x)
    (h : ∀ v d b, if b = b₀ then π (v.resetBlock d b) = f (π v)
      else π (v.resetBlock d b) = π v ∨ R (π v) (π (v.resetBlock d b)))
    (hb : b₀ ∈ blocks) : π (s.resetBlocks [] blocks).1 = f (π s) := by
  have key := State.resetBlocks_induct s [] blocks
    (P := fun v d => if b₀ ∈ d then π v = f (π s) else f (π v) = f (π s)) (by simp) fun v d b hv hbd => by
      have hstep := h v d b
      by_cases hbb : b = b₀
      · subst hbb
        rw [if_neg hbd] at hv
        rw [if_pos rfl] at hstep
        rw [if_pos (by simp), hstep, hv]
      · rw [if_neg hbb] at hstep
        have hmem : b₀ ∈ d ++ [b] ↔ b₀ ∈ d := by simp [Ne.symm hbb]
        simp only [hmem]
        split_ifs at hv ⊢
        · rcases hstep with he | he
          · exact he.trans hv
          · rw [hv] at he; exact hR _ _ he
        · rcases hstep with he | he
          · rw [he, hv]
          · rw [hf _ _ he, hv]
  rwa [if_pos (State.mem_resetBlocks.mpr (.inr hb))] at key

/-- What the reset of one block alone touches is reset once, when that block is among those named. -/
theorem State.resetBlocks_resets {α : Type} {π : State → α} {b₀ : ResetBlock} {f : α → α}
    (h : ∀ v d b, π (v.resetBlock d b) = if b = b₀ then f (π v) else π v) (hb : b₀ ∈ blocks) :
    π (s.resetBlocks [] blocks).1 = f (π s) :=
  s.resetBlocks_resets_of_blur blocks (R := fun _ _ => False) (fun _ _ => False.elim)
    (fun _ _ => False.elim) (fun v d b => by
      have hv := h v d b
      split_ifs at hv ⊢
      · exact hv
      · exact .inl hv) hb

/-- An entry is reset with the selector; an input unit's reset clears its descriptor (R37, R87). -/
theorem State.resetBlocks_entry (e : Ext) (hb : ResetBlock.selector ∈ blocks) :
    (s.resetBlocks [] blocks).1.selector.entries[e] = s.selector.entries[e].serviceReset :=
  s.resetBlocks_resets_of_blur blocks (π := fun v => v.selector.entries[e]) (f := SourceEntry.serviceReset)
    (R := fun x y => y = { x with descriptor := none })
    (by rintro x _ rfl; rfl) (by rintro x _ rfl; rfl) (fun v d b => (v.resetBlock_reset d b).entry e) hb

/-- The steering unit is reset, whatever scale offset the units' resets present before it (R105, R109). -/
theorem State.resetBlocks_steering (hb : ResetBlock.steering ∈ blocks) :
    (s.resetBlocks [] blocks).1.steering = s.steering.serviceReset :=
  s.resetBlocks_resets_of_blur blocks (π := State.steering) (f := Steering.serviceReset)
    (R := fun x y => x.steered ≠ none ∧ ∃ c, y = { x with scale := c })
    (by rintro x _ ⟨-, c, rfl⟩; rfl) (fun x _ h => absurd rfl h.1)
    (fun v d b => (v.resetBlock_reset d b).steering) hb

/-- A block's reset disables no entry and enables none. -/
theorem BlockReset.inputEnabled {s t : State} {b : ResetBlock} (h : BlockReset s b t) (u : InUnit) :
    t.inputEnabled u = s.inputEnabled u := by
  have hs (n : SourceEntry) : n.serviceReset.state = .disabled ↔ n.state = .disabled := by
    unfold SourceEntry.serviceReset
    dsimp only
    split_ifs with hd <;> simp [hd]
  have he := h.entry (inSource u)
  unfold State.inputEnabled
  split_ifs at he
  · simp only [he, ne_eq, hs]
  · rcases he with he | he <;> rw [he]

/-- An input unit is reset as its entry stands; leaving TRIAL stops its request timer before or after
(R34, R43). -/
theorem State.resetBlocks_input (u : InUnit) (hb : ResetBlock.input u ∈ blocks) :
    (s.resetBlocks [] blocks).1.inputs[u] = s.inputs[u].serviceReset (s.inputEnabled u) := by
  refine congrArg Prod.fst (s.resetBlocks_resets_of_blur blocks
    (π := fun v => (v.inputs[u], v.inputEnabled u)) (f := fun x => (x.1.serviceReset x.2, x.2))
    (R := fun x y => y = ({ x.1 with requestTimer := none }, x.2))
    (by rintro x _ rfl; rfl) (by rintro x _ rfl; rfl) (fun v d b => ?_) hb)
  have hr := v.resetBlock_reset d b
  have hi := hr.input u
  rw [hr.inputEnabled u]
  split_ifs at hi ⊢
  · rw [hi]
  · exact hi.imp (fun h => by rw [h]) fun h => by rw [h]

end ResetBlocks

end Sys2Proof.Machine

/-! SUPPORT. What an entry write, a service reset and any command other than a tick, a step and power-on reset
can make of the timebase (R7 to R9, R17). -/

namespace Sys2Proof.Machine

open Sys2Proof.Config Sys2Proof.Safety

/-! ### Entry writes (R178) -/

/-- Every state that a write may store has the property `P`. -/
def Stored.Forall (P : State → Prop) : Stored → Prop
  | .readOnly => True
  | .refuse _ => True
  | .store s _ => P s

section StoredForall

variable {P : State → Prop} {value : List Byte}

@[simp] theorem Stored.forall_readOnly : Stored.readOnly.Forall P := trivial

@[simp] theorem Stored.forall_refuse (st : Status) : (Stored.refuse st).Forall P := trivial

@[simp] theorem Stored.forall_store (s : State) (c : Bool) : (Stored.store s c).Forall P ↔ P s := .rfl

@[simp] theorem forall_storeNum {lo hi : Int} {f : Int → State} :
    (storeNum lo hi value f).Forall P ↔ ∀ v, decField lo hi value = some v → P (f (clamp lo hi v)) := by
  unfold storeNum; split <;> simp [*]

@[simp] theorem forall_storeNat {lo hi : Nat} {f : Nat → State} :
    (storeNat lo hi value f).Forall P ↔
      ∀ v, decField lo hi value = some v → P (f (clamp lo hi v).toNat) :=
  forall_storeNum

@[simp] theorem forall_storeEnum {n : Nat} {f : Nat → State} :
    (storeEnum n value f).Forall P ↔ ∀ b, value = [b] → b.toNat < n → P (f b.toNat) := by
  unfold storeEnum
  split
  · split <;> simp [*]
  · next h => simpa using fun b hb => absurd hb (h b)

@[simp] theorem forall_storeSet {n : Nat} {f : Byte → State} :
    (storeSet n value f).Forall P ↔ ∀ b, value = [b] → b.toNat < 2 ^ n → P (f b) := by
  simp [storeSet_eq_storeEnum]

theorem Stored.Forall.mono {Q : State → Prop} {x : Stored} (h : x.Forall P) (hpq : ∀ t, P t → Q t) :
    x.Forall Q := by
  cases x with
  | readOnly => trivial
  | refuse st => trivial
  | store t c => exact hpq t h

end StoredForall

/-- A WRITE ENTRY has a property that every answer to `r` keeps, when every state it may store has it. -/
theorem State.runWriteEntry_induct {P : State → Prop} {s : State} {r : Running} {sect index : Nat}
    {value : List Byte} (h : P s) (hs : (s.storeEntry sect index value).Forall P)
    (hr : ∀ t st p, P t → P (t.respond r st p)) : P (s.runWriteEntry r sect index value) := by
  rcases s.runWriteEntry_cases r sect index value with ⟨st, e⟩ | ⟨t, c, e, -, -, e'⟩
  · rw [e]; exact hr s st [] h
  · rw [e']; rw [e] at hs; exact hr t _ _ hs

/-! ### What is made of the timebase by what moves no time (R7 to R9, R17) -/

/-- The timebase with its time, its step record and its step count kept: nothing changed, a rate word taken
(R7, R17), a rate limit stored (R8), or a trim stored (R9). -/
inductive RatesMoved (b : Timebase) : Timebase → Prop where
  | kept : RatesMoved b b
  | rate (w : Int) : RatesMoved b (b.takeRate w)
  | limit (v : Int) : RatesMoved b (b.setRateLimit v)
  | trim (v : Int) : RatesMoved b (b.setTrim v)

theorem RatesMoved.of_eq {b c : Timebase} (h : c = b) : RatesMoved b c := h ▸ .kept

theorem RatesMoved.time_eq {b c : Timebase} (h : RatesMoved b c) : c.time = b.time := by
  cases h <;> rfl

section EntryWrites

variable (s : State) (value : List Byte)

theorem State.writeInput_timebase (u : InUnit) (off : Nat) :
    (s.writeInput u off value).Forall fun t => t.timebase = s.timebase := by
  unfold State.writeInput; dsimp only; split <;> simp

theorem State.writeUplink_timebase (u : UpUnit) (off : Nat) :
    (s.writeUplink u off value).Forall fun t => t.timebase = s.timebase := by
  unfold State.writeUplink; dsimp only; split <;> simp

theorem State.writeSource_timebase (e : Ext) (off : Nat) :
    (s.writeSource e off value).Forall fun t => t.timebase = s.timebase := by
  have hc (n : Nat) : (s.setClass e n).timebase = s.timebase := State.withClassChange_timebase rfl
  unfold State.writeSource
  split
  · rw [forall_storeEnum]
    intro b _ _
    split <;> simp
  · simp
  · simp [hc]
  · split <;> simp
  · simp
  · unfold State.writeUnit
    split
    · exact s.writeInput_timebase value _ off
    · exact s.writeUplink_timebase value _ off
    · trivial

theorem State.writeSelector_timebase (index : Nat) :
    (s.writeSelector index value).Forall fun t => t.timebase = s.timebase := by
  have ha (on : Bool) : (s.setAutoUpgrade on).timebase = s.timebase := by
    unfold State.setAutoUpgrade; dsimp only; split <;> simp
  unfold State.writeSelector; dsimp only; split <;> simp [ha]

theorem State.writeSources_timebase (index : Nat) :
    (s.writeSources index value).Forall fun t => t.timebase = s.timebase := by
  unfold State.writeSources
  split_ifs
  · exact s.writeSource_timebase value _ _
  · trivial
  · exact s.writeSelector_timebase value index

theorem State.writeSteering_timebase (index : Nat) :
    (s.writeSteering index value).Forall fun t => t.timebase = s.timebase := by
  unfold State.writeSteering; dsimp only; split <;> simp

theorem State.writeTimeSection_timebase (index : Nat) :
    (s.writeTimeSection index value).Forall fun t => RatesMoved s.timebase t.timebase := by
  unfold State.writeTimeSection
  split
  · exact forall_storeNum.mpr fun v _ => .trim _
  · exact forall_storeNum.mpr fun v _ => .limit _
  · trivial

theorem State.writePlans_timebase (index : Nat) :
    (s.writePlans index value).Forall fun t => t.timebase = s.timebase := by
  unfold State.writePlans
  split
  · unfold State.writeMap
    split
    · trivial
    · split <;> simp
  · split <;> simp

theorem State.writePorts_timebase (index : Nat) :
    (s.writePorts index value).Forall fun t => t.timebase = s.timebase := by
  unfold State.writePorts
  split
  · unfold State.writePort; dsimp only; split <;> simp
  · trivial

theorem State.writeOutputs_timebase (index : Nat) :
    (s.writeOutputs index value).Forall fun t => t.timebase = s.timebase := by
  unfold State.writeOutputs
  split_ifs
  · unfold State.writePulse; split <;> simp
  · unfold State.writeCoded; split <;> simp
  · trivial

theorem State.writeControl_timebase (index : Nat) :
    (s.writeControl index value).Forall fun t => t.timebase = s.timebase := by
  unfold State.writeControl
  split
  · unfold State.writeNotice; split <;> simp
  · trivial

theorem State.writeAccess_timebase (index : Nat) :
    (s.writeAccess index value).Forall fun t => t.timebase = s.timebase := by
  unfold State.writeAccess
  split_ifs
  · split <;> simp
  · split <;> simp
  · trivial

/-- Of the nine sections only TIME's entries move the timebase, and they move its rates alone. -/
theorem State.storeEntry_ratesMoved (sect index : Nat) :
    (s.storeEntry sect index value).Forall fun t => RatesMoved s.timebase t.timebase := by
  have kept {x : Stored} (h : x.Forall fun t => t.timebase = s.timebase) :
      x.Forall fun t => RatesMoved s.timebase t.timebase := h.mono fun _ => .of_eq
  unfold State.storeEntry
  split
  · exact kept (s.writeControl_timebase value index)
  · exact kept (s.writeSources_timebase value index)
  · exact kept (s.writeSteering_timebase value index)
  · exact s.writeTimeSection_timebase value index
  · exact kept (s.writePlans_timebase value index)
  · exact kept (s.writePorts_timebase value index)
  · exact kept (s.writeOutputs_timebase value index)
  · exact kept (s.writeAccess_timebase value index)
  · trivial

theorem State.writeAs_ratesMoved (row : WriteRow) : RatesMoved s.timebase (s.writeAs row).timebase := by
  rcases s.writeAs_cases row with h | ⟨r, sect, index, value, -, -, h⟩
  · exact .of_eq (by rw [h])
  · rw [h]
    exact State.runWriteEntry_induct (P := fun t => RatesMoved s.timebase t.timebase) .kept
      (s.storeEntry_ratesMoved value sect index) fun _ _ _ ht => ht

end EntryWrites

/-! ### Service reset (R17, R183) -/

/-- However many blocks take their reset, the rate word becomes trim once or not at all (R17). -/
theorem State.resetBlocks_ratesMoved (s : State) (done blocks : List ResetBlock) :
    RatesMoved s.timebase (s.resetBlocks done blocks).1.timebase := by
  have key := State.resetBlocks_induct s done blocks
    (P := fun v _ => v.timebase = s.timebase ∨ v.timebase = s.timebase.serviceReset) (.inl rfl)
    (fun v d b hv _ => by
      rw [(v.resetBlock_reset d b).timebase]
      split
      · rcases hv with h | h <;> rw [h] <;> exact .inr rfl
      · exact hv)
  rcases key with h | h <;> rw [h]
  · exact .kept
  · exact .rate _

theorem State.runServiceReset_ratesMoved (s : State) (r : Running) (blocks : List ResetBlock) :
    RatesMoved s.timebase (s.runServiceReset r blocks).timebase := by
  have checked {k : State} (hk : RatesMoved s.timebase k.timebase) :
      RatesMoved s.timebase (s.checkedWrite r 1 0 k).timebase := by
    rcases s.checkedWrite_cases r 1 0 k with ⟨-, h⟩ | ⟨-, -, h⟩ | ⟨-, h⟩ <;> rw [h]
    · exact .kept
    · exact .kept
    · exact hk
  have hb := s.resetBlocks_ratesMoved r.resetTaken blocks
  unfold State.runServiceReset
  dsimp only
  split
  · refine checked ?_
    split <;> exact hb
  · split <;> exact hb

/-! ### Every command (R1, R7 to R9, R17) -/

/-- A row of the executor moves the rates alone when every command it accepts does. -/
theorem State.onCommand_ratesMoved {s : State} {f : Running → Command → Option State}
    (hf : ∀ r c t, f r c = some t → RatesMoved s.timebase t.timebase) :
    RatesMoved s.timebase (s.onCommand f).timebase := by
  rcases s.onCommand_cases f with h | ⟨r, t, -, h, h'⟩
  · exact .of_eq (by rw [h])
  · rw [h']; exact hf r _ t h

/-- A command other than the tick, a step and power-on reset leaves the timebase alone, or moves its rates. -/
theorem exec_ratesMoved {c : Instr} {s t : State} (hc : movesTime c = false) (h : exec c s = .next t) :
    RatesMoved s.timebase t.timebase := by
  cases c
  case powerOnReset | oscillatorTick | stepRequestApplied | stepTime => cases hc
  case rateWordTaken =>
    simp only [exec, execRateWordTaken] at h
    split at h <;> cases h
    · exact .kept
    · exact .rate _
  case rateLimitWrite | pairingModeWrite | autoRateArmWrite | sourceEnable | sourceDisable |
      autoUpgradeWrite | programmedClassWrite | steeringOptionsWrite | portMapWrite | epochLengthWrite |
      portEnable | portDisable | writeEntry | accessTableWrite | guardEntryWrite | noticeMaskWrite |
      nestModeWrite =>
    cases h; exact s.writeAs_ratesMoved _
  case serviceReset blocks =>
    cases h
    refine State.onCommand_ratesMoved fun r c t hf => ?_
    split at hf <;> cases hf
    exact s.runServiceReset_ratesMoved r blocks
  case readTime | switchSource | discardFallback | armPlan | disarmPlan | clearPortFlags | readEntry |
      lockAccess | linkReset | takeNotice | endService | peekFault | popFault | clearFaultOverflow =>
    cases h
    refine .of_eq (State.onCommand_timebase fun r c t hf => ?_)
    split at hf <;> cases hf
    simp
  -- rows without a branch of their own
  case pulseEdge | pairingWindowEnd | uplinkCycleStart | uplinkLinkDown | uplinkLinkUp |
      selectorCycleStart | steeringCycleStart | portCycleStart | portLinkDown | portLinkUp | pulseFall |
      responseDelivered | commandFrameReceived | selectReleased =>
    cases h; exact .of_eq (by simp)
  -- rows that do nothing unless their event is there
  case answerEntryExpiry | autoRateMeasurement | breakDetected | breakEnd | codedDueTime | codedOutputStep |
      codedTransmissionDone | cycleCut | cycleStart | descriptorRequestDone | falseStart | faultOffered |
      framingError | holdoverExpiry | measuredLeadEnd | noticeCycleStart | noticeLatch | noticeSlotStart |
      portCompletionReport | portUnexpectedFrame | pulseOutputStep | pulseRiseTime | pulseWindowMiss |
      queryLost | queryReceived | receiveFallingEdge | retryTimerExpiry | selectAsserted |
      selectorPhaseEvent | selectorPulseReport | selectorStep | slotStart | steeringStepAnnouncement |
      uplinkMark | uplinkQuerySlot | uplinkReply | uplinkStateMark | uplinkUnexpectedFrame =>
    cases h; refine .of_eq ?_
    split <;> simp
  -- rows whose event, when it is there, is taken in one of two ways
  case inputUnitStep | portCut | portSlotStart | steeringPhaseEvent | uplinkStep |
      characterReceived | steeringSelectExternal | steeringSelectLocal | commandGrant =>
    cases h; refine .of_eq ?_
    split
    any_goals rfl
    split <;> simp
  case requestTimerExpiry =>
    cases h; refine .of_eq ?_
    split_ifs <;> simp
  case excursionReport =>
    cases h; refine .of_eq ?_
    split
    · rfl
    · dsimp only
      split_ifs <;> simp
  case markDeparture | replyDeparture =>
    cases h; refine .of_eq ?_
    split
    · split
      · split <;> simp
      · rfl
    · rfl

end Sys2Proof.Machine

/-! SUPPORT. Station time and its rates: what keeps them in range, and what moves them (R1, R7 to R11). -/

namespace Sys2Proof.Machine

open Sys2Proof.Config Sys2Proof.Safety

/-! ### Ranges (R1, R7 to R9) -/

theorem timeNormal_of_time_eq {s t : State} (ht : t.timebase.time = s.timebase.time) (hn : TimeNormal s) :
    TimeNormal t := by
  rw [TimeNormal, ht]; exact hn

/-- A tick leaves station time normalized and the rates as they are (R1, R2). -/
theorem State.tick_inRange {s : State} (hr : RatesBounded s) : TimeNormal s.tick ∧ RatesBounded s.tick := by
  unfold TimeNormal RatesBounded
  rw [State.tick_timebase]
  exact ⟨StationTime.ofUnits_normal _, hr⟩

/-- A step leaves station time normalized and the rates as they are (R1, R10). -/
theorem State.applyStep_inRange {s : State} (hr : RatesBounded s) (o : StepOrigin) (d : Int) (x : Elapsed) :
    TimeNormal (s.applyStep o d x) ∧ RatesBounded (s.applyStep o d x) := by
  unfold TimeNormal RatesBounded
  rw [State.applyStep_timebase]
  exact ⟨StationTime.ofUnits_normal _, hr⟩

theorem powerOn_inRange (strap : Level) (ups : Vector LinkLevel 2) (links : Vector LinkLevel 6)
    (pending : List Instr) :
    TimeNormal (State.powerOn strap ups links pending) ∧
      RatesBounded (State.powerOn strap ups links pending) := by
  have h : (State.powerOn strap ups links pending).timebase = PowerOn.timebase := rfl
  unfold TimeNormal RatesBounded
  rw [h]
  decide

/-- Rates moved stay in their ranges: each is clamped as it is taken or stored (R7 to R9). -/
theorem RatesMoved.bounded {s t : State} (hm : RatesMoved s.timebase t.timebase) (hr : RatesBounded s) :
    RatesBounded t := by
  obtain ⟨h0, h1, h2, h3⟩ := hr
  have hmax : (0 : Int) ≤ rateMax := by decide
  unfold RatesBounded
  generalize t.timebase = b at hm ⊢
  cases hm with
  | kept => exact ⟨h0, h1, h2, h3⟩
  | rate w => exact ⟨h0, h1, natAbs_saturate_le h0 w, h3⟩
  | limit v =>
    have hl := le_clamp hmax v
    exact ⟨hl, clamp_le hmax v, natAbs_saturate_le hl _, h3⟩
  | trim v => exact ⟨h0, h1, h2, natAbs_saturate_le hmax v⟩

/-- STEP TIME applies a step and answers, or only answers (R14). -/
theorem State.runStepTime_cases (s : State) (r : Running) (sec ns : Int) (x : Elapsed) :
    ∃ v st p, s.runStepTime r sec ns x = State.respond v r st p ∧
      (v = s ∨ v = s.applyStep .command (stepOffset sec ns) x) := by
  rcases s.checkedWrite_cases r 4 0 _ with ⟨-, h⟩ | ⟨-, -, h⟩ | ⟨-, h⟩ <;> rw [State.runStepTime, h]
  · exact ⟨s, _, _, rfl, .inl rfl⟩
  · exact ⟨s, _, _, rfl, .inl rfl⟩
  · split_ifs
    · exact ⟨s, _, _, rfl, .inl rfl⟩
    · exact ⟨s, _, _, rfl, .inl rfl⟩
    · exact ⟨s, _, _, rfl, .inl rfl⟩
    · exact ⟨_, _, _, rfl, .inr rfl⟩

/-- What a command that may move station time does: power-on reset, a tick, or a step, if anything. -/
theorem exec_timeMoved {c : Instr} {s t : State} (hc : movesTime c = true) (h : exec c s = .next t) :
    (∃ strap ups links, t = State.powerOn strap ups links s.pending) ∨ t = s.tick ∨
      t.timebase = s.timebase ∨ ∃ o d x, t.timebase = (s.applyStep o d x).timebase := by
  cases c <;> cases hc
  case powerOnReset strap ups links => cases h; exact .inl ⟨strap, ups, links, rfl⟩
  case oscillatorTick => cases h; exact .inr (.inl rfl)
  case stepRequestApplied x =>
    simp only [exec, execStepRequestApplied] at h
    split at h <;> cases h
    · exact .inr (.inr (.inl rfl))
    · next d _ _ => exact .inr (.inr (.inr ⟨.steering, d, x, rfl⟩))
  case stepTime x =>
    cases h
    refine .inr (.inr ?_)
    rcases s.onCommand_cases _ with e | ⟨r, t, -, ht, e⟩ <;> rw [e]
    · exact .inl rfl
    · split at ht <;> cases ht
      next sec ns _ =>
        obtain ⟨v, st, p, e, rfl | rfl⟩ := s.runStepTime_cases r sec ns x <;> rw [e]
        · exact .inl rfl
        · exact .inr ⟨_, _, _, rfl⟩

/-- Every command keeps station time normalized and the rates in their ranges. -/
theorem exec_inRange {c : Instr} {s t : State} (hn : TimeNormal s) (hr : RatesBounded s)
    (h : exec c s = .next t) : TimeNormal t ∧ RatesBounded t := by
  cases hc : movesTime c
  · have hm := exec_ratesMoved hc h
    exact ⟨timeNormal_of_time_eq hm.time_eq hn, hm.bounded hr⟩
  · rcases exec_timeMoved hc h with ⟨_, _, _, rfl⟩ | rfl | e | ⟨o, d, x, e⟩
    · exact powerOn_inRange _ _ _ _
    · exact State.tick_inRange hr
    · unfold TimeNormal RatesBounded
      rw [e]
      exact ⟨hn, hr⟩
    · unfold TimeNormal RatesBounded
      rw [e]
      exact State.applyStep_inRange hr o d x

/-- Settles O4: what a step runs keeps the ranges, command by command. -/
theorem timebaseStaysInRange : Obligations.TimebaseStaysInRange := by
  unfold Obligations.TimebaseStaysInRange
  intro s t hn hr h
  rcases step_cases h with ⟨-, rfl⟩ | ⟨c, rest, -, h'⟩
  · exact ⟨hn, hr⟩
  · exact exec_inRange (s := { s with pending := rest }) hn hr h'

/-- Settles O14: a command that moves no time moves at most the rates. -/
theorem onlyTicksAndStepsMoveTime : Obligations.OnlyTicksAndStepsMoveTime := by
  unfold Obligations.OnlyTicksAndStepsMoveTime
  intro c s t hc h
  exact (exec_ratesMoved hc h).time_eq

end Sys2Proof.Machine

/-! SUPPORT. The rate word, the rate limit and the trim (R7 to R9). -/

namespace Sys2Proof.Machine

open Sys2Proof.Config Sys2Proof.Safety

/-- Only values in its range matter to a numeric store. -/
theorem storeNum_congr {lo hi : Int} (hl : lo ≤ hi) {value : List Byte} {f g : Int → State}
    (h : ∀ m, lo ≤ m → m ≤ hi → f m = g m) : storeNum lo hi value f = storeNum lo hi value g := by
  unfold storeNum
  split
  · rfl
  · rw [h _ (le_clamp hl _) (clamp_le hl _)]

theorem Timebase.setRateLimit_of_mem {b : Timebase} {m : Int} (h : 0 ≤ m) (h' : m ≤ rateMax) :
    b.setRateLimit m = { b with rateLimit := m, rate := clamp (-m) m b.rate } := by
  simp [Timebase.setRateLimit, saturate, clamp_of_mem h h']

theorem Timebase.setTrim_of_mem {b : Timebase} {m : Int} (h : -rateMax ≤ m) (h' : m ≤ rateMax) :
    b.setTrim m = { b with trim := m } := by
  simp [Timebase.setTrim, saturate, clamp_of_mem h h']

/-- TIME 3 is stored clamped, with the rate word clamped to it (R8). -/
theorem rateLimitWrite_stores (s : State) (r : Running) :
    NumericWrite .rateLimitWrite s r 4 3 4 0 6871947 fun m =>
      { s with timebase := { s.timebase with rateLimit := m, rate := clamp (-m) m s.timebase.rate } } := by
  refine numericWrite_of_storeNum (row := .rateLimit) rfl (fun _ => rfl) (by omega) ?_ (by decide) (by omega)
    (fun value => ?_) fun m h0 _ => ?_
  · simp [State.readEntry, State.readTimeSection]
  · refine storeNum_congr (lo := 0) (hi := rateMax) (f := fun m =>
      { s with timebase := s.timebase.setRateLimit m }) (by decide) fun m h h' => ?_
    rw [Timebase.setRateLimit_of_mem h h']
  · lift m to Nat using h0
    simp only [State.readEntry, State.readTimeSection, encField_natCast]
    rfl

/-- TIME 2 is stored clamped, and the rate word stays (R9). -/
theorem trimWrite_stores (s : State) (r : Running) :
    NumericWrite .writeEntry s r 4 2 4 (-6871947) 6871947 fun m =>
      { s with timebase := { s.timebase with trim := m } } := by
  refine numericWrite_of_storeNum (row := .writeEntry) rfl (fun _ => rfl) (by omega) ?_ (by decide) (by omega)
    (fun value => ?_) fun m _ _ => ?_
  · simp [State.readEntry, State.readTimeSection]
  · refine storeNum_congr (lo := -rateMax) (hi := rateMax) (f := fun m =>
      { s with timebase := s.timebase.setTrim m }) (by decide) fun m h h' => ?_
    rw [Timebase.setTrim_of_mem h h']
  · rfl

/-- Settles O19: the oldest rate word is taken clamped, and the two writes are numeric stores. -/
theorem rateWordLimitAndTrim : Obligations.RateWordLimitAndTrim := by
  unfold Obligations.RateWordLimitAndTrim
  refine ⟨fun s w ws h => ?_, fun s r => ⟨rateLimitWrite_stores s r, trimWrite_stores s r⟩⟩
  simp only [exec, execRateWordTaken, h]
  rfl

end Sys2Proof.Machine

/-! SUPPORT. What one tick makes of the blocks that count in ticks (R2, R3, R27, R35, R111, R135, R152, R154,
R157, R158). -/

namespace Sys2Proof.Machine

open Sys2Proof.Config Sys2Proof.Safety

/-- A tick at a rate in its range advances station time by about 8 ns (R2, R7, R8). -/
theorem Timebase.advance_bounds {s : State} (hr : RatesBounded s) :
    34359738368 - 6871947 ≤ s.timebase.advance ∧ s.timebase.advance ≤ 34359738368 + 6871947 := by
  obtain ⟨_, h2, h3, _⟩ := hr
  simp only [rateMax] at h2
  unfold Timebase.advance tickUnits
  omega

/-- The reading at a crossing is that of the tick's end, or worked back from it (R3, R4). -/
theorem readingBack_reads (old new : StationTime) (past : Nat) :
    (past = 0 → readingBack old new past = new.reading 0) ∧
    (past ≠ 0 → ∃ part : Elapsed, part.val = min 127 ((2 ^ 35 - past) / 2 ^ 28) ∧
      readingBack old new past = old.reading part) :=
  ⟨fun h => by rw [h, readingBack_zero],
    fun h => ⟨partOfTick past, partOfTick_val past, readingBack_pos (Nat.pos_of_ne_zero h)⟩⟩

section Announcements

variable {s : State} (hn : TimeNormal s) (hr : RatesBounded s)

include hn hr

/-- A tick that carries nanoseconds across 10^9 announces the second boundary (R3). -/
theorem State.tick_announces_boundary
    (h : 1000000000 * 2 ^ 32 ≤ s.timebase.time.ns * 2 ^ 32 + s.timebase.time.frac + s.timebase.advance) :
    s.tick.flight.toCycleTimer = s.flight.toCycleTimer ++
      [.boundary ((s.timebase.time.sec + 1) % 2 ^ 48) (readingBack s.timebase.time s.tick.timebase.time
        (s.timebase.time.ns * 2 ^ 32 + s.timebase.time.frac + s.timebase.advance - 1000000000 * 2 ^ 32))] :=
  have ⟨hl, hu⟩ := Timebase.advance_bounds hr
  congrArg (s.flight.toCycleTimer ++ ·) ((crossings_eq hn hl hu).trans (if_pos h))

/-- A tick that carries nanoseconds across k × 25 ms within the second announces the crossing (R111). -/
theorem State.tick_announces_slot {k : Nat}
    (h : ¬1000000000 * 2 ^ 32 ≤ s.timebase.time.ns * 2 ^ 32 + s.timebase.time.frac + s.timebase.advance)
    (hk : k = (s.timebase.time.ns * 2 ^ 32 + s.timebase.time.frac + s.timebase.advance) / 2 ^ 32 / 25000000)
    (hne : k ≠ s.timebase.time.ns / 25000000) :
    s.tick.flight.toCycleTimer = s.flight.toCycleTimer ++
      [.slot k (readingBack s.timebase.time s.tick.timebase.time
        (s.timebase.time.ns * 2 ^ 32 + s.timebase.time.frac + s.timebase.advance - k * 25000000 * 2 ^ 32))] := by
  have ⟨hl, hu⟩ := Timebase.advance_bounds hr
  subst hk
  exact congrArg (s.flight.toCycleTimer ++ ·)
    (((crossings_eq hn hl hu).trans (if_neg h)).trans (if_pos hne))

/-- Any other tick announces nothing. -/
theorem State.tick_announces_nothing
    (h : ¬1000000000 * 2 ^ 32 ≤ s.timebase.time.ns * 2 ^ 32 + s.timebase.time.frac + s.timebase.advance)
    (hk : (s.timebase.time.ns * 2 ^ 32 + s.timebase.time.frac + s.timebase.advance) / 2 ^ 32 / 25000000 =
      s.timebase.time.ns / 25000000) :
    s.tick.flight.toCycleTimer = s.flight.toCycleTimer := by
  have ⟨hl, hu⟩ := Timebase.advance_bounds hr
  exact (congrArg (s.flight.toCycleTimer ++ ·)
    (((crossings_eq hn hl hu).trans (if_neg h)).trans (if_neg (not_not.mpr hk)))).trans (List.append_nil _)

end Announcements

/-- A tick changes nothing but station time, what is counted in ticks, the placed times, the departures'
marks and the announcements to the cycle timer. -/
theorem State.tick_frame (s : State) : s.tick =
    { s with
      timebase := { s.timebase with time := s.tick.timebase.time }
      inputs := s.tick.inputs, ports := s.tick.ports, pulses := s.tick.pulses, coded := s.tick.coded
      flight := { s.flight with toCycleTimer := s.tick.flight.toCycleTimer } } := rfl

theorem State.tick_getElem_inputs (s : State) (u : InUnit) : s.tick.inputs[u] = s.inputs[u].tick := by
  simp

theorem State.tick_getElem_ports (s : State) (p : Port) :
    s.tick.ports[p] = s.ports[p].reach s.tick.timebase.time.stamp := by
  simp

/-- What an output notes of a placed time at a tick: as before while a step announcement waits, the passed
time aged, or the next time tested (R152, R155, R157). -/
theorem passedOver_notes {busy : Elapsed → Bool} {P : Elapsed → Prop} (h : ∀ part, busy part = true ↔ P part)
    (old : Option Passing) (waits : List StepAnnouncement) (start adv : Nat) (next : Stamp) :
    let new := passedOver old (!waits.isEmpty) start adv next busy
    (waits ≠ [] → new = old) ∧
    (waits = [] →
      (∀ p, old = some p → new = some { p with since := p.since + adv }) ∧
      (old = none → Passes start adv next P new)) := by
  cases waits with
  | cons a rest => simp
  | nil =>
    refine ⟨fun hw => absurd rfl hw, fun _ => ⟨?_, ?_⟩⟩
    · rintro p rfl; rfl
    · rintro rfl; exact passedBy_passes h

/-- The line of a pulse output at a place of the tick just made (R154). -/
theorem PulseUnit.highAt_ticked (o : PulseUnit) (part : Elapsed) :
    ({ o with high := o.high && decide (o.fall ≠ 0), fall := o.fall - 1 } : PulseUnit).highAt part = true ↔
      o.high = true ∧ o.fall ≠ 0 ∧ ¬(o.fall = 1 ∧ o.risePart ≤ part) := by
  by_cases hf : o.fall = 0
  · simp [PulseUnit.highAt, hf]
  · have h1 : o.fall - 1 = 0 ↔ o.fall = 1 := by omega
    simp only [PulseUnit.highAt, hf, h1, Bool.and_eq_true, Bool.not_eq_true', decide_eq_true_eq,
      Bool.and_eq_false_imp, decide_eq_false_iff_not, not_and, ne_eq, not_false_eq_true, and_true, true_and]

/-- The line of a coded-time output at a place of the tick just made (R158). -/
theorem CodedUnit.sendingAt_ticked (o : CodedUnit) (part : Elapsed) :
    ({ o with line := o.line.tick } : CodedUnit).sendingAt part = true ↔
      ∃ d p chars n, o.line = .sending d p chars (n + 1) ∧ ¬(n = 0 ∧ o.beginPart ≤ part) := by
  cases hl : o.line with
  | idle => simp [CodedUnit.sendingAt, CodedLine.tick]
  | sending d p chars n =>
    rcases n with _ | _ | n <;> simp [CodedUnit.sendingAt, CodedLine.tick]

/-- Settles O18: the tick's parts, each by the lemma that says what the tick makes of it. -/
theorem tickAdvancesAndAnnounces : Obligations.TickAdvancesAndAnnounces := by
  unfold Obligations.TickAdvancesAndAnnounces
  intro s hn hr adv sum k read noted
  refine ⟨s.tick, rfl, State.tick_units hr, (State.tick_inRange hr).1, s.tick_frame, ?_, ?_, ?_, ?_, ?_⟩
  · split_ifs with h1 h2
    · exact ⟨_, readingBack_reads _ _ _, State.tick_announces_boundary hn hr h1⟩
    · exact ⟨_, readingBack_reads _ _ _, State.tick_announces_slot hn hr h1 rfl h2⟩
    · exact State.tick_announces_nothing hn hr h1 (not_not.mp h2)
  · exact fun u => s.tick_getElem_inputs u
  · exact fun p => s.tick_getElem_ports p
  · intro o v
    rw [State.tick_getElem_pulses]
    exact ⟨rfl, passedOver_notes v.highAt_ticked v.passed _ _ _ _⟩
  · intro m v
    rw [State.tick_getElem_coded]
    exact ⟨rfl, passedOver_notes v.sendingAt_ticked v.passed _ _ _ _⟩

end Sys2Proof.Machine

/-! SUPPORT. Steps, STEP TIME and READ TIME (R10, R11, R13, R14). -/

namespace Sys2Proof.Machine

open Sys2Proof.Config Sys2Proof.Safety

/-! ### Commands of the executor -/

/-- A row of the executor does what it makes of the command that runs. -/
theorem State.onCommand_of_runs {s t : State} {r : Running} {c : Command}
    {f : Running → Command → Option State} (h : Runs s r c) (hf : f r c = some t) : s.onCommand f = t := by
  simp [State.onCommand, h.1, h.2, hf]

theorem State.checkedWrite_of_denied {s : State} {r : Running} {sect index : Nat}
    (h : s.access.canWrite r.link sect = false) (k : State) :
    s.checkedWrite r sect index k = s.respond r .denied [] := by
  rw [State.checkedWrite, h]; rfl

theorem State.checkedWrite_of_guarded {s : State} {r : Running} {sect index : Nat}
    (h : s.access.canWrite r.link sect = true) (hg : s.access.guarded sect index = true) (k : State) :
    s.checkedWrite r sect index k = s.respond r .guarded [] := by
  rw [State.checkedWrite, h, hg]; rfl

/-! ### A step (R10, R11) -/

theorem StationTime.units_mod_fu (t : StationTime) : t.units % 2 ^ 28 = t.frac % 2 ^ 28 := by
  unfold StationTime.units unitsPerNano
  omega

/-- A step moves station time exactly, keeps the low 28 bits of the fine fraction, and is announced. -/
theorem State.applyStep_stepped (s : State) (o : StepOrigin) (d : Int) (x : Elapsed) :
    Stepped s (s.applyStep o d x) o d x := by
  have hu : ((s.applyStep o d x).timebase.time.units : Int) =
      ((s.timebase.time.units : Int) + d * 2 ^ 28) % (2 ^ 48 * 1000000000 * 2 ^ 32) :=
    StationTime.units_ofUnits _
  refine ⟨hu, StationTime.ofUnits_normal _, ?_, rfl⟩
  have hs := s.timebase.time.units_mod_fu
  have ht := (s.applyStep o d x).timebase.time.units_mod_fu
  omega

/-! ### STEP TIME and READ TIME (R13, R14) -/

/-- STEP TIME that passes the checks of a write tests its operand, answers at 0, or steps (R14). -/
theorem State.runStepTime_of_permitted {s : State} {r : Running} (h : Permitted s r 4 0) (sec ns : Int)
    (x : Elapsed) : s.runStepTime r sec ns x =
      if ns < -999999999 ∨ 999999999 < ns then s.respond r .badValue []
      else if (0 < sec ∧ ns < 0) ∨ (sec < 0 ∧ 0 < ns) then s.respond r .badValue []
      else if sec = 0 ∧ ns = 0 then s.respond r .ok (encStamp (s.reading x))
      else (s.applyStep .command (stepOffset sec ns) x).respond r .ok
        (encStamp ((s.applyStep .command (stepOffset sec ns) x).reading x)) :=
  State.checkedWrite_of_permitted h _

theorem stepOffset_eq (sec ns : Int) : stepOffset sec ns = sec * 16000000000 + ns * 16 := by
  simp [stepOffset, fuPerSecond, fuPerNano]

theorem exec_stepTime {s : State} {r : Running} {sec ns : Int} (h : Runs s r (.stepTime sec ns)) (x : Elapsed) :
    exec (.stepTime x) s = .next (s.runStepTime r sec ns x) :=
  congrArg Host.Outcome.next (State.onCommand_of_runs h rfl)

theorem exec_readTime {s : State} {r : Running} (h : Runs s r .readTime) (x : Elapsed) :
    exec (.readTime x) s = .next (s.runReadTime r x) :=
  congrArg Host.Outcome.next (State.onCommand_of_runs h rfl)

/-- A rate word takes four bytes (R163). -/
theorem encField_rate (v : Int) : encField (-rateMax) rateMax v = beInt 4 v := by
  rw [encField, show fieldWidth (-rateMax) rateMax = 4 by decide]

/-- Settles O20: the oldest request is stepped by, STEP TIME check by check, and READ TIME's answer. -/
theorem stepsAppliedAndTimeRead : Obligations.StepsAppliedAndTimeRead := by
  unfold Obligations.StepsAppliedAndTimeRead
  refine ⟨fun s d ds x h _ => ?_, fun s r sec ns x hr _ => ?_, fun s r x hr => ?_⟩
  · refine ⟨_, ?_, State.applyStep_stepped _ _ _ _⟩
    simp only [exec, execStepRequestApplied, h]
  · rw [exec_stepTime hr]
    by_cases h1 : s.access.canWrite r.link 4 = false
    · rw [if_pos h1, State.runStepTime, State.checkedWrite_of_denied h1]
    rw [if_neg h1]
    rw [Bool.not_eq_false] at h1
    by_cases h2 : s.access.guarded 4 0 = true
    · rw [if_pos h2, State.runStepTime, State.checkedWrite_of_guarded h1 h2]
    rw [if_neg h2, State.runStepTime_of_permitted ⟨h1, by simpa using h2⟩]
    split_ifs
    · rfl
    · rfl
    · rfl
    · rw [stepOffset_eq]
      exact ⟨_, State.applyStep_stepped _ _ _ _, rfl⟩
  · rw [exec_readTime hr, State.runReadTime, encField_rate, encCount]
    cases s.access.canRead r.link 4 <;> simp [State.answer]

end Sys2Proof.Machine

/-! SUPPORT. A time-of-day sentence that completes, and what pairing makes of it (R29 to R33). -/

namespace Sys2Proof.Machine

open Sys2Proof.Config Sys2Proof.Safety

/-! ### One input unit changed twice -/

theorem State.modInput_modInput (s : State) (u : InUnit) (f g : InputUnit → InputUnit) :
    (s.modInput u f).modInput u g = s.modInput u fun i => g (f i) := by
  simp [State.modInput]

theorem State.modInput_getElem (s : State) (u : InUnit) (f : InputUnit → InputUnit) :
    (s.modInput u f).inputs[u] = f s.inputs[u] := by
  simp

theorem State.toSelector_modInput (s : State) (u : InUnit) (f : InputUnit → InputUnit) (e : Ext)
    (v : UnitEvent) : (s.toSelector e v).modInput u f = (s.modInput u f).toSelector e v := rfl

/-! ### The held item (R30, R31, R33) -/

theorem unpaired_of_nothing {s : State} {u : InUnit} (h : s.inputs[u].held = .nothing) : unpaired s u = s := by
  unfold unpaired
  rw [h]

/-- A pulse held is dropped with its capture (R33). -/
theorem unpaired_of_pulse {s : State} {u : InUnit} {c w : Stamp} (h : s.inputs[u].held = .pulse c w) :
    unpaired s u = (s.modInput u fun i => { i with held := .nothing }).toSelector (inSource u)
      (.phase ⟨inSource u, .bad .unpaired, none, some c, s.compensation (inSource u)⟩) := by
  unfold unpaired
  rw [h]
  rfl

/-- A sentence held is dropped with its seconds as the reference (R33). -/
theorem unpaired_of_sentence {s : State} {u : InUnit} {tod : TimeOfDay} {w : Stamp}
    (h : s.inputs[u].held = .sentence tod w) :
    unpaired s u = (s.modInput u fun i => { i with held := .nothing }).toSelector (inSource u)
      (.phase ⟨inSource u, .bad .unpaired, some ⟨tod.seconds, 0, 0⟩, none, s.compensation (inSource u)⟩) := by
  unfold unpaired
  rw [h]
  rfl

theorem unpaired_getElem (s : State) (u : InUnit) :
    (unpaired s u).inputs[u] = { s.inputs[u] with held := .nothing } := by
  cases h : s.inputs[u].held with
  | nothing => rw [unpaired_of_nothing h, ← h]
  | pulse c w => rw [unpaired_of_pulse h]; exact Vector.getElem_set_self _
  | sentence tod w => rw [unpaired_of_sentence h]; exact Vector.getElem_set_self _

theorem State.settleHeld_of_not_overdue {s : State} {u : InUnit} {now : Stamp}
    (h : ¬Overdue s.inputs[u].held now) : s.settleHeld u now = s := by
  rw [State.settleHeld, if_neg (mt (Held.endedBefore_iff _ _).mp h)]

/-- Dropping the held item leaves nothing for its window's end to drop, and the other way round. -/
theorem State.emitUnpaired_settleHeld (s : State) (u : InUnit) (now : Stamp) :
    (s.settleHeld u now).emitUnpaired u = unpaired s u := by
  rw [State.emitUnpaired_eq]
  by_cases h : Overdue s.inputs[u].held now
  · rw [(State.settleHeld_of_overdue h).1, unpaired_of_nothing (unpaired_held s u)]
  · rw [State.settleHeld_of_not_overdue h]

theorem State.settleHeld_settings (s : State) (u : InUnit) (now : Stamp) :
    (s.settleHeld u now).inputs[u].settings = s.inputs[u].settings := by
  by_cases h : Overdue s.inputs[u].held now
  · rw [(State.settleHeld_of_overdue h).1, unpaired_getElem]
  · rw [State.settleHeld_of_not_overdue h]

/-! ### The sentence's last character (R24, R26, R28, R29) -/

/-- The unit once a sentence is complete: no character under way, the assembler waiting for a break. -/
def InputUnit.sentenceDone (i : InputUnit) : InputUnit :=
  { i with receiver := .idle, assembler := .waitBreak }

/-- The last character of a right time-of-day sentence hands the sentence to pairing. -/
theorem exec_lastCharacter {s : State} {u : InUnit} {d : Nat} {p : Parity} {body : List Byte} {check : Byte}
    {bit : Bool} (hr : s.inputs[u].receiver = .character d p) (hp : parityGood p check bit = true)
    (ha : s.inputs[u].assembler = .check 0x31#8 8 body) (ho : sentenceOk 0x31#8 8 body check = true)
    (x : Elapsed) :
    exec (.characterReceived u check bit x) s = .next
      ((s.modInput u InputUnit.sentenceDone).pairSentence u (readTimeOfDay body) (s.reading x)) := by
  have hd : (s.modInput u fun i => { i with receiver := .idle }).deliver u check (s.reading x) =
      (s.modInput u InputUnit.sentenceDone).pairSentence u (readTimeOfDay body) (s.reading x) := by
    rw [State.deliver, State.modInput_getElem]
    dsimp only
    rw [ha]
    dsimp only
    rw [State.sentence, if_pos ho, if_pos rfl, State.modInput_modInput]
    rfl
  simp only [exec, execCharacterReceived, hr, hp, if_true, hd]

/-- A sentence finds what settling the held item leaves, and nothing else of the state before. -/
theorem State.pairSentence_congr {s t : State} {u : InUnit} {now : Stamp}
    (h : s.settleHeld u now = t.settleHeld u now) (tod : TimeOfDay) :
    s.pairSentence u tod now = t.pairSentence u tod now := by
  unfold State.pairSentence
  rw [h]

theorem unpaired_sentenceDone (s : State) (u : InUnit) :
    unpaired (s.modInput u InputUnit.sentenceDone) u = (unpaired s u).modInput u InputUnit.sentenceDone := by
  have hh : (s.modInput u InputUnit.sentenceDone).inputs[u].held = s.inputs[u].held := by
    rw [State.modInput_getElem]; rfl
  have swap (v : UnitEvent) : ((s.modInput u InputUnit.sentenceDone).modInput u
      fun i => { i with held := .nothing }).toSelector (inSource u) v =
      ((s.modInput u fun i => { i with held := .nothing }).toSelector (inSource u) v).modInput u
        InputUnit.sentenceDone := by
    rw [State.toSelector_modInput, State.modInput_modInput, State.modInput_modInput]; rfl
  cases h : s.inputs[u].held with
  | nothing => rw [unpaired_of_nothing h, unpaired_of_nothing (hh.trans h)]
  | pulse c w => rw [unpaired_of_pulse h, unpaired_of_pulse (hh.trans h)]; exact swap _
  | sentence tod w => rw [unpaired_of_sentence h, unpaired_of_sentence (hh.trans h)]; exact swap _

/-- A held item whose window has ended is dropped before the sentence, whichever way it is dropped. -/
theorem State.settleHeld_sentenceDone_of_overdue {s : State} {u : InUnit} {now : Stamp}
    (h : Overdue s.inputs[u].held now) :
    (s.modInput u InputUnit.sentenceDone).settleHeld u now =
      ((unpaired s u).modInput u InputUnit.sentenceDone).settleHeld u now := by
  have ho : Overdue (s.modInput u InputUnit.sentenceDone).inputs[u].held now := by
    rw [State.modInput_getElem]; exact h
  obtain ⟨h1, h2⟩ := State.settleHeld_of_overdue ho
  rw [h1, ← unpaired_sentenceDone, h2]

/-- In FOLLOWS a sentence within the window of a held pulse forms a pair with it (R30, R32). -/
theorem State.pairSentence_follows {s : State} {u : InUnit} {c w now : Stamp}
    (hm : s.inputs[u].settings.mode = .follows) (hh : s.inputs[u].held = .pulse c w) (hw : now.diff w ≤ 0)
    (tod : TimeOfDay) :
    s.pairSentence u tod now = (s.modInput u fun i => { i with held := .nothing }).formPair u tod c := by
  have ho : ¬Overdue s.inputs[u].held now := by
    rw [hh]
    rintro (⟨c', w', e, hlt⟩ | ⟨_, _, e, _⟩) <;> cases e
    omega
  rw [State.pairSentence, State.settleHeld_of_not_overdue ho, hm, hh]

/-- In PRECEDES a sentence drops what is held and is held itself (R31, R33). -/
theorem State.pairSentence_precedes {s : State} {u : InUnit} (hm : s.inputs[u].settings.mode = .precedes)
    (tod : TimeOfDay) (now : Stamp) :
    s.pairSentence u tod now =
      (unpaired s u).modInput u fun i => { i with held := .sentence tod (i.windowEnd now) } := by
  rw [State.pairSentence, State.settleHeld_settings, hm, State.emitUnpaired_settleHeld]

/-- Settles O22: the held item settled first, then the pair formed, or the sentence held instead. -/
theorem pairedPulseGivesPhaseEvent : Obligations.PairedPulseGivesPhaseEvent := by
  unfold Obligations.PairedPulseGivesPhaseEvent
  intro s u d p body check bit x i tod done hr hp ha ho
  rw [exec_lastCharacter hr hp ha ho]
  have hi : (s.modInput u InputUnit.sentenceDone).inputs[u] = i.sentenceDone := State.modInput_getElem _ _ _
  refine ⟨fun hov => ?_, fun c w comp hm hh hw hc => ?_, fun old w hm hh => ?_⟩
  · have hg := unpaired_getElem s u
    rw [exec_lastCharacter (by rw [hg]; exact hr) hp (by rw [hg]; exact ha) ho]
    have hrd : (unpaired s u).reading x = s.reading x := by
      rw [State.reading, unpaired_timebase]; rfl
    rw [hrd, State.pairSentence_congr (State.settleHeld_sentenceDone_of_overdue hov)]
  · have hd : (s.modInput u fun _ => done).inputs[u] = done := State.modInput_getElem _ _ _
    have hj := InputUnit.judgePair_judged done tod c comp
    refine ⟨_, hj, ?_⟩
    rw [State.pairSentence_follows (by rw [hi]; exact hm) (by rw [hi]; exact hh) hw, State.modInput_modInput]
    have hf := State.formPair_eq (s := s.modInput u fun _ => done) (tod := tod) (c := c) hc
    rw [hd] at hf
    exact congrArg Host.Outcome.next hf
  · rw [State.pairSentence_precedes (by rw [hi]; exact hm)]
    rw [unpaired_of_sentence (by rw [hi]; exact hh), State.toSelector_modInput, State.modInput_modInput,
      State.modInput_modInput]
    rfl

end Sys2Proof.Machine

/-! SUPPORT. The part after power-on reset: each block at its power-on column, and each promise met (R17, R43,
R61, R87, R109, R127, R151, R162, R184, R195). -/

namespace Sys2Proof.Machine

open Sys2Proof.Config Sys2Proof.Safety

section PowerOn

variable (strap : Level) (ups : Vector LinkLevel 2) (links : Vector LinkLevel 6) (pending : List Instr)

/-! ### Each unit of a block -/

theorem powerOn_input (u : InUnit) :
    (State.powerOn strap ups links pending).inputs[u] = PowerOn.input := by
  simp [State.powerOn]

theorem powerOn_uplink (u : UpUnit) :
    (State.powerOn strap ups links pending).uplinks[u] = PowerOn.uplink ups[u] (u.val + 1) := by
  fin_cases u <;> rfl

theorem powerOn_entry (e : Ext) :
    (State.powerOn strap ups links pending).selector.entries[e] = PowerOn.sourceEntry := by
  simp [State.powerOn, PowerOn.selector]

theorem powerOn_port (p : Port) :
    (State.powerOn strap ups links pending).ports[p] = PowerOn.port links[p] := by
  simp [State.powerOn]

theorem powerOn_pulse (k : PulseOut) :
    (State.powerOn strap ups links pending).pulses[k] = PowerOn.pulse := by
  simp [State.powerOn]

theorem powerOn_coded (m : CodedOut) :
    (State.powerOn strap ups links pending).coded[m] = PowerOn.codedUnit := by
  simp [State.powerOn]

theorem powerOn_link (l : Link) :
    (State.powerOn strap ups links pending).links[l] = PowerOn.link := by
  simp [State.powerOn]

theorem powerOn_notice (l : Link) :
    (State.powerOn strap ups links pending).notice.links[l] = PowerOn.noticeLink := by
  simp [State.powerOn]

theorem powerOn_guard (g : Fin 4) :
    (State.powerOn strap ups links pending).access.guards[g] = ⟨false, 0, 0, 0⟩ := by
  simp [State.powerOn, PowerOn.access]

theorem powerOn_toPort (p : Port) :
    (State.powerOn strap ups links pending).flight.toPort[p] = [] := by
  simp [State.powerOn, PowerOn.flight]

/-! ### Each promise -/

theorem powerOn_linksSound : LinksSound (State.powerOn strap ups links pending) := by
  intro l
  unfold LinkSound
  rw [powerOn_link]
  simp [State.powerOn, PowerOn.link]

theorem powerOn_plansSound : PlansSound (State.powerOn strap ups links pending) := by
  simp [PlansSound, State.powerOn, PowerOn.bank, PlanStore.pendingBank]

theorem powerOn_fallbackSound : FallbackSound (State.powerOn strap ups links pending) := by
  have hs : (State.powerOn strap ups links pending).selector.stack = [] := rfl
  unfold FallbackSound
  rw [hs]
  exact ⟨List.nodup_nil, by simp, fun e h => absurd h.symm (toSource_ne_local e)⟩

theorem powerOn_timersSound : TimersSound (State.powerOn strap ups links pending) := by
  intro e
  rw [powerOn_entry]
  decide

theorem powerOn_unitsSound : UnitsSound (State.powerOn strap ups links pending) := by
  refine ⟨fun u => ?_, fun u => ?_⟩
  · rw [powerOn_input, powerOn_entry]; decide
  · rw [powerOn_uplink, powerOn_entry]; exact iff_of_true rfl rfl

theorem powerOn_steeringSound : SteeringSound (State.powerOn strap ups links pending) := by
  refine ⟨?_, ?_, ?_⟩
  · have hs : (State.powerOn strap ups links pending).steering = PowerOn.steering := rfl
    unfold SteeringNamed
    rw [hs]
    decide
  · unfold SelectionFollowed
    rw [if_neg (by simp [resetTaken, State.powerOn])]
    exact .inl rfl
  · simp [ResetListed, State.powerOn]

theorem powerOn_integralBounded : IntegralBounded (State.powerOn strap ups links pending) := by
  have hs : (State.powerOn strap ups links pending).steering = PowerOn.steering := rfl
  have ht : (State.powerOn strap ups links pending).timebase = PowerOn.timebase := rfl
  unfold IntegralBounded LoopSettingsSound
  rw [hs, ht]
  decide

theorem powerOn_historiesBounded : HistoriesBounded (State.powerOn strap ups links pending) := by
  refine ⟨Nat.zero_le _, fun u => ?_⟩
  rw [powerOn_uplink]
  simp [PowerOn.uplink]

theorem powerOn_portsSound : PortsSound (State.powerOn strap ups links pending) := by
  intro p
  unfold PortSound
  rw [powerOn_port]
  simp [PowerOn.port]

theorem powerOn_servingSound : ServingSound (State.powerOn strap ups links pending) := by
  intro p
  rw [powerOn_port, powerOn_toPort]
  simp [PowerOn.port]

theorem powerOn_noticesSound : NoticesSound (State.powerOn strap ups links pending) := by
  intro l
  rw [powerOn_notice]
  simp [PowerOn.noticeLink]

theorem powerOn_accessSound : AccessSound (State.powerOn strap ups links pending) := by
  refine ⟨fun l => ?_, fun g => ?_⟩
  · have hs : (State.powerOn strap ups links pending).access.rights = (PowerOn.access .low).rights := rfl
    rw [hs]
    revert l
    decide
  · rw [powerOn_guard]; decide

end PowerOn

/-- Settles O2: block by block, by what each unit is after power-on reset. -/
theorem powerOnResetValues : Obligations.PowerOnResetValues := by
  unfold Obligations.PowerOnResetValues
  intro strap ups links s
  exact ⟨State.powerOn strap ups links s.pending, rfl, rfl, rfl, powerOn_input _ _ _ _, powerOn_uplink _ _ _ _,
    powerOn_entry _ _ _ _, rfl, rfl, rfl, rfl, rfl, rfl, rfl, rfl, powerOn_port _ _ _ _, powerOn_pulse _ _ _ _,
    powerOn_coded _ _ _ _, fun l => ⟨powerOn_link _ _ _ _ l, powerOn_notice _ _ _ _ l⟩, rfl, rfl, rfl, rfl,
    powerOn_guard _ _ _ _, rfl, rfl, rfl, rfl⟩

/-- Settles O3: promise by promise. -/
theorem resetMeetsEveryPromise : Obligations.ResetMeetsEveryPromise := by
  unfold Obligations.ResetMeetsEveryPromise
  intro strap ups links pending
  obtain ⟨hn, hr⟩ := powerOn_inRange strap ups links pending
  exact ⟨hn, hr, powerOn_linksSound _ _ _ _, powerOn_plansSound _ _ _ _, powerOn_fallbackSound _ _ _ _,
    powerOn_timersSound _ _ _ _, powerOn_unitsSound _ _ _ _, powerOn_steeringSound _ _ _ _,
    powerOn_integralBounded _ _ _ _, powerOn_historiesBounded _ _ _ _, powerOn_portsSound _ _ _ _,
    powerOn_servingSound _ _ _ _, powerOn_noticesSound _ _ _ _, powerOn_accessSound _ _ _ _⟩

end Sys2Proof.Machine

/-! SUPPORT. LINK RESET and SERVICE RESET as commands (R182, R183). -/

namespace Sys2Proof.Machine

open Sys2Proof.Config Sys2Proof.Safety

/-! ### LINK RESET (R182) -/

theorem exec_linkReset {s : State} {r : Running} (h : Runs s r .linkReset) :
    exec .linkReset s = .next (s.runLinkReset r) :=
  congrArg Host.Outcome.next (State.onCommand_of_runs h rfl)

/-- LINK RESET empties its link and leaves its own response alone in the response queue. -/
theorem State.runLinkReset_eq (s : State) (r : Running) : s.runLinkReset r =
    { s with
      links := s.links.set r.link
        { s.links[r.link] with
          commands := [], responses := [responseFrame r.tag .ok []], dropped := false
          delivery := none, escalated := false }
      notice := { s.notice with
        links := s.notice.links.set r.link { s.notice.links[r.link] with latch := 0, stack := [] } }
      executor := { s.executor with running := none } } := by
  simp [State.runLinkReset, State.answer, State.respond, State.modLink, State.modNotice, LinkUnit.linkReset]

/-! ### SERVICE RESET (R183) -/

theorem exec_serviceReset {s : State} {r : Running} (h : Runs s r .serviceReset) (blocks : List ResetBlock) :
    exec (.serviceReset blocks) s = .next (s.runServiceReset r blocks) :=
  congrArg Host.Outcome.next (State.onCommand_of_runs h rfl)

theorem State.runServiceReset_of_denied {s : State} {r : Running} (ht : r.resetTaken = [])
    (h : s.access.canWrite r.link 1 = false) (blocks : List ResetBlock) :
    s.runServiceReset r blocks = s.respond r .denied [] := by
  rw [State.runServiceReset, ht]
  exact State.checkedWrite_of_denied h _

theorem State.runServiceReset_of_guarded {s : State} {r : Running} (ht : r.resetTaken = [])
    (h : s.access.canWrite r.link 1 = true) (hg : s.access.guarded 1 0 = true) (blocks : List ResetBlock) :
    s.runServiceReset r blocks = s.respond r .guarded [] := by
  rw [State.runServiceReset, ht]
  exact State.checkedWrite_of_guarded h hg _

/-- Its checks passed, or passed when it began, SERVICE RESET hands the blocks named their reset, and ends
when all have taken it. -/
theorem State.runServiceReset_of_permitted {s : State} {r : Running} (h : r.resetTaken = [] → Permitted s r 1 0)
    (blocks : List ResetBlock) :
    s.runServiceReset r blocks =
      let left := s.resetBlocks r.resetTaken blocks
      if resetComplete left.2 then left.1.finishReset r
      else { left.1 with
        executor := { left.1.executor with running := some { r with resetTaken := left.2 } } } := by
  unfold State.runServiceReset
  dsimp only
  by_cases ht : r.resetTaken = []
  · rw [if_pos (by rw [ht]; rfl), State.checkedWrite_of_permitted (h ht)]
  · rw [if_neg (by simpa using ht)]

theorem State.runServiceReset_of_complete {s : State} {r : Running} (h : r.resetTaken = [] → Permitted s r 1 0)
    {blocks : List ResetBlock} (hall : ∀ b, b ∈ r.resetTaken ∨ b ∈ blocks) :
    s.runServiceReset r blocks = (s.resetBlocks r.resetTaken blocks).1.finishReset r := by
  rw [State.runServiceReset_of_permitted h]
  exact if_pos (resetComplete_iff.mpr fun b => State.mem_resetBlocks.mpr (hall b))

theorem State.runServiceReset_of_incomplete {s : State} {r : Running}
    (h : r.resetTaken = [] → Permitted s r 1 0) {blocks : List ResetBlock}
    (hsome : ∃ b, b ∉ r.resetTaken ∧ b ∉ blocks) :
    s.runServiceReset r blocks =
      let left := s.resetBlocks r.resetTaken blocks
      { left.1 with
        executor := { left.1.executor with running := some { r with resetTaken := left.2 } } } := by
  obtain ⟨b, hr, hb⟩ := hsome
  rw [State.runServiceReset_of_permitted h]
  refine if_neg fun hc => ?_
  rcases State.mem_resetBlocks.mp (resetComplete_iff.mp hc b) with hm | hm
  · exact hr hm
  · exact hb hm

theorem PlanStore.serviceReset_pendingBank (p : PlanStore) : p.serviceReset.pendingBank = none := by
  unfold PlanStore.serviceReset PlanStore.pendingBank
  dsimp only
  split_ifs <;> simp_all

theorem PlanStore.serviceReset_activeBank (p : PlanStore) : p.serviceReset.activeBank = p.activeBank := by
  unfold PlanStore.serviceReset PlanStore.activeBank
  dsimp only
  split_ifs <;> simp_all

theorem PlanStore.serviceReset_bank (p : PlanStore) (nm : BankName) :
    (p.serviceReset.bank nm).planId = (p.bank nm).planId ∧ (p.serviceReset.bank nm).maps = (p.bank nm).maps := by
  cases nm <;> exact ⟨rfl, rfl⟩

/-- An input unit's service reset column (R43). -/
theorem State.input_serviceReset_eq (s : State) (u : InUnit) :
    s.inputs[u].serviceReset (s.inputEnabled u) = { s.inputs[u] with
      tracker := if s.selector.entries[inSource u].state = .disabled then .idle else .seeking
      anchor := none, intervals := 0, held := .nothing, receiver := .idle, assembler := .waitBreak
      requestTimer := none, lastScale := 0, counters := ⟨0, 0, 0, 0, 0, 0, 0, 0, 0, 0⟩ } := by
  simp [InputUnit.serviceReset, State.inputEnabled, PowerOn.input]

/-- Every block of `v` stands at its service reset column of `s`, and what no column names is kept (R17, R43,
R61, R87, R109, R127, R151, R162, R184, R195). -/
structure AllReset (s v : State) : Prop where
  timebase : v.timebase = s.timebase.serviceReset
  input : ∀ u : InUnit, v.inputs[u] = s.inputs[u].serviceReset (s.inputEnabled u)
  uplink : ∀ u : UpUnit, v.uplinks[u] = s.uplinks[u].serviceReset
  entry : ∀ e : Ext, v.selector.entries[e] = s.selector.entries[e].serviceReset
  selected : v.selector.selected = localSource
  stack : v.selector.stack = []
  settings : v.selector.settings = s.selector.settings
  steering : v.steering = s.steering.serviceReset
  cycleTimer : v.cycleTimer = s.cycleTimer
  plans : v.plans = s.plans.serviceReset
  port : ∀ p : Port, v.ports[p] = s.ports[p].serviceReset
  pulses : v.pulses = s.pulses.map fun o => { o with sent := 0, squelched := 0, overlapped := 0 }
  coded : v.coded = s.coded.map fun o => { o with sent := 0, skipped := 0 }
  links : v.links = s.links
  noticeLinks : v.notice.links = s.notice.links.map NoticeLink.serviceReset
  completion : v.notice.completion = s.notice.completion
  completeMet : v.notice.completeMet = s.notice.completeMet
  early : v.notice.early = s.notice.early
  executor : v.executor = s.executor
  access : v.access = s.access

/-- Blocks that are all of them leave every block reset, in whatever order they take it (R183). -/
theorem State.resetBlocks_allReset (s : State) {blocks : List ResetBlock} (hb : ∀ b, b ∈ blocks) :
    AllReset s (s.resetBlocks [] blocks).1 where
  timebase := s.resetBlocks_resets blocks (fun v d b => (v.resetBlock_reset d b).timebase) (hb _)
  input u := s.resetBlocks_input blocks u (hb _)
  uplink u := s.resetBlocks_resets blocks (π := (·.uplinks[u]))
    (fun v d b => (v.resetBlock_reset d b).uplink u) (hb _)
  entry e := s.resetBlocks_entry blocks e (hb _)
  selected := s.resetBlocks_resets blocks (π := (·.selector.selected)) (f := fun _ => localSource)
    (fun v d b => (v.resetBlock_reset d b).selected) (hb _)
  stack := s.resetBlocks_resets blocks (π := (·.selector.stack)) (f := fun _ => [])
    (fun v d b => (v.resetBlock_reset d b).stack) (hb _)
  settings := s.resetBlocks_keeps [] blocks (π := (·.selector.settings)) fun v d b =>
    (v.resetBlock_reset d b).settings
  steering := s.resetBlocks_steering blocks (hb _)
  cycleTimer := s.resetBlocks_keeps [] blocks fun v d b => (v.resetBlock_reset d b).cycleTimer
  plans := s.resetBlocks_resets blocks (fun v d b => (v.resetBlock_reset d b).plans) (hb _)
  port p := s.resetBlocks_resets blocks (π := (·.ports[p]))
    (fun v d b => (v.resetBlock_reset d b).port p) (hb _)
  pulses := s.resetBlocks_resets blocks (π := State.pulses) (f := fun x => x.map _)
    (fun v d b => (v.resetBlock_reset d b).pulses) (hb _)
  coded := s.resetBlocks_resets blocks (π := State.coded) (f := fun x => x.map _)
    (fun v d b => (v.resetBlock_reset d b).coded) (hb _)
  links := s.resetBlocks_keeps [] blocks fun v d b => (v.resetBlock_reset d b).links
  noticeLinks := s.resetBlocks_resets blocks (π := (·.notice.links)) (f := fun x => x.map _)
    (fun v d b => (v.resetBlock_reset d b).noticeLinks) (hb _)
  completion := s.resetBlocks_keeps [] blocks (π := (·.notice.completion)) fun v d b =>
    (v.resetBlock_reset d b).completion
  completeMet := s.resetBlocks_keeps [] blocks (π := (·.notice.completeMet)) fun v d b =>
    (v.resetBlock_reset d b).completeMet
  early := s.resetBlocks_keeps [] blocks (π := (·.notice.early)) fun v d b =>
    (v.resetBlock_reset d b).early
  executor := s.resetBlocks_keeps [] blocks fun v d b => (v.resetBlock_reset d b).executor
  access := s.resetBlocks_keeps [] blocks fun v d b => (v.resetBlock_reset d b).access

/-- The end of a service reset sets the link counters to 0 and answers OK (R183, R184). -/
theorem State.finishReset_links (v : State) (r : Running) : (v.finishReset r).links =
    (v.links.map fun k => { k with counters := ⟨0, 0, 0, 0, 0, 0⟩ }).set r.link
      { v.links[r.link] with
        counters := ⟨0, 0, 0, 0, 0, 0⟩
        responses := v.links[r.link].responses ++ [responseFrame r.tag .ok []] } := by
  simp [State.finishReset, State.answer, PowerOn.link]

/-- Settles O57: LINK RESET as one update, SERVICE RESET's checks, then block by block what it leaves. -/
theorem resetsByCommand : Obligations.ResetsByCommand := by
  unfold Obligations.ResetsByCommand
  refine ⟨fun s r h => ?_, fun s r blocks h ht => ⟨fun hd => ?_, fun hw hg => ?_⟩, fun s r h ht hp => ?_,
    fun s r blocks h hp => ⟨fun b => State.mem_resetBlocks, fun hs => ?_, fun ha => ?_⟩⟩
  · rw [exec_linkReset h, State.runLinkReset_eq]
  · rw [exec_serviceReset h, State.runServiceReset_of_denied ht hd]
  · rw [exec_serviceReset h, State.runServiceReset_of_guarded ht hw hg]
  · refine ⟨_, exec_serviceReset h allBlocks, ?_⟩
    rw [State.runServiceReset_of_complete (fun _ => hp) fun b => .inr (mem_allBlocks b), ht]
    have hv := s.resetBlocks_allReset mem_allBlocks
    generalize (s.resetBlocks [] allBlocks).1 = v at hv
    refine ⟨hv.timebase, fun u => (hv.input u).trans (s.input_serviceReset_eq u), hv.uplink, hv.entry,
      hv.selected, hv.stack, hv.settings, hv.steering, hv.cycleTimer, congrArg PlanStore.relabel hv.plans,
      (congrArg PlanStore.pendingBank hv.plans).trans s.plans.serviceReset_pendingBank,
      (congrArg PlanStore.activeBank hv.plans).trans s.plans.serviceReset_activeBank, fun nm => ?_, hv.port,
      hv.pulses, hv.coded, ?_, hv.noticeLinks, hv.completion, hv.completeMet, hv.early, ?_, hv.access⟩
    · have hb := s.plans.serviceReset_bank nm
      rwa [← hv.plans] at hb
    · rw [v.finishReset_links, hv.links]
    · have he : (v.finishReset r).executor = ⟨none, v.executor.lastServed, v.executor.resetCount + 1⟩ := rfl
      rw [he, hv.executor]
  · rw [exec_serviceReset h, State.runServiceReset_of_incomplete hp hs]
  · rw [exec_serviceReset h, State.runServiceReset_of_complete hp ha]
    rfl

end Sys2Proof.Machine

/-! SUPPORT. Cycle starts, activation points, slot starts and cuts (R34, R110 to R113, R120, R121). -/

namespace Sys2Proof.Machine

open Sys2Proof.Config Sys2Proof.Safety

/-! ### Activation points (R113, R120) -/

theorem isActivation_iff {c : CycleTimer} {p : PlanStore} {n : Nat} :
    isActivation c p n = true ↔ n % c.epoch = 0 ∨ p.activeBank = none ∨ c.resume = true := by
  simp [isActivation, or_assoc]

theorem PlanStore.hasPending_iff {p : PlanStore} :
    p.hasPending = true ↔ p.pendingBank.isSome = true ∨ p.relabel.isSome = true := by
  simp [PlanStore.hasPending]

/-- With nothing pending there is nothing to apply. -/
theorem PlanStore.activate_of_not_hasPending {p : PlanStore} (h : p.hasPending = false) : p.activate = p := by
  simp only [PlanStore.hasPending, Bool.or_eq_false_iff, Option.isSome_eq_false_iff,
    Option.isNone_iff_eq_none] at h
  simp [PlanStore.activate, h.1, h.2]

theorem PlanStore.bank_role_of_pendingBank {p : PlanStore} {nm : BankName} (h : p.pendingBank = some nm) :
    (p.bank nm).role = .pending := by
  unfold PlanStore.pendingBank at h
  split_ifs at h <;> cases h <;> assumption

theorem Role.activated_of_ne_pending {r : Role} (h : r ≠ .pending) : r.activated = .inactive := by
  cases r <;> first | rfl | exact absurd rfl h

/-- A PENDING bank becomes ACTIVE, and the other, which is not PENDING too, INACTIVE (R120). -/
theorem PlanStore.activate_of_pendingBank {p : PlanStore} {nm : BankName} (h : p.pendingBank = some nm)
    (ho : ¬(p.a.role = .pending ∧ p.b.role = .pending)) :
    p.activate.relabel = p.relabel ∧ p.activate.bank nm = { p.bank nm with role := .active } ∧
      p.activate.bank nm.other = { p.bank nm.other with role := .inactive } := by
  have hr := PlanStore.bank_role_of_pendingBank h
  unfold PlanStore.activate
  rw [h]
  cases nm with
  | a =>
    have ha : p.a.role = .pending := hr
    have hb := Role.activated_of_ne_pending fun hb => ho ⟨ha, hb⟩
    exact ⟨rfl, by simp [PlanStore.bank, ha, Role.activated], by simp [PlanStore.bank, BankName.other, hb]⟩
  | b =>
    have hb : p.b.role = .pending := hr
    have ha := Role.activated_of_ne_pending fun ha => ho ⟨ha, hb⟩
    exact ⟨rfl, by simp [PlanStore.bank, hb, Role.activated], by simp [PlanStore.bank, BankName.other, ha]⟩

/-- A relabel gives the ACTIVE bank its plan ID and leaves the other bank (R120). -/
theorem PlanStore.activate_of_relabel {p : PlanStore} {nm : BankName} {i : Nat} (hp : p.pendingBank = none)
    (ha : p.activeBank = some nm) (hi : p.relabel = some i) :
    p.activate.relabel = none ∧ p.activate.bank nm = { p.bank nm with planId := i } ∧
      p.activate.bank nm.other = p.bank nm.other := by
  unfold PlanStore.activate
  rw [hp, ha, hi]
  cases nm <;> exact ⟨rfl, rfl, rfl⟩

/-- What the plan store's part in the cycle start of cycle `n` leaves (R113, R120). -/
def State.planned (s : State) (n : Nat) : State :=
  if isActivation s.cycleTimer s.plans n then s.activatePlan else s

theorem State.planned_of_not_activation {s : State} {n : Nat} (h : isActivation s.cycleTimer s.plans n = false) :
    s.planned n = s := by
  simp [State.planned, h]

theorem State.planned_of_not_hasPending {s : State} {n : Nat} (h : s.plans.hasPending = false) :
    s.planned n = s := by
  unfold State.planned State.activatePlan
  rw [PlanStore.activate_of_not_hasPending h, h]
  exact ite_self s

theorem State.planned_of_change {s : State} {n : Nat} (ha : isActivation s.cycleTimer s.plans n = true)
    (hc : s.plans.hasPending = true) :
    s.planned n = State.latch { s with plans := s.plans.activate } .planActivated := by
  simp [State.planned, State.activatePlan, ha, hc]

/-- The plan store's part changes plans and latches alone. -/
theorem State.planned_frame (s : State) (n : Nat) :
    s.planned n = { s with
      plans := (s.planned n).plans
      flight := { s.flight with latches := (s.planned n).flight.latches } } := by
  unfold State.planned State.activatePlan
  dsimp only
  split_ifs <;> rfl

/-! ### Cycle starts (R34, R110) -/

/-- The request timer of the unit counts down while its entry is in TRIAL, and nothing else moves (R34). -/
theorem State.countRequests_eq (s : State) (u : InUnit) :
    ∃ v : Vector InputUnit 2, s.countRequests u = { s with inputs := v } ∧ ∀ w : InUnit, v[w] =
      if u = w ∧ s.selector.entries[inSource w].state = .trial then s.inputs[w].countRequest
      else s.inputs[w] := by
  unfold State.countRequests
  split
  · next ht =>
    refine ⟨_, rfl, fun w => (getElem_set_apply s.inputs u w InputUnit.countRequest).trans ?_⟩
    by_cases hw : u = w
    · subst hw; rw [if_pos rfl, if_pos ⟨rfl, ht⟩]
    · rw [if_neg hw, if_neg fun h => hw h.1]
  · next ht =>
    refine ⟨s.inputs, rfl, fun w => (if_neg ?_).symm⟩
    rintro ⟨rfl, h⟩
    exact ht h

theorem State.countRequests_both (s : State) :
    ∃ v : Vector InputUnit 2, (s.countRequests 0).countRequests 1 = { s with inputs := v } ∧
      ∀ u : InUnit, v[u] =
        if s.selector.entries[inSource u].state = .trial then s.inputs[u].countRequest else s.inputs[u] := by
  obtain ⟨v, hv, hvu⟩ := s.countRequests_eq 0
  obtain ⟨w, hw, hwu⟩ := (s.countRequests 0).countRequests_eq 1
  rw [hv] at hw hwu
  refine ⟨w, by rw [hv, hw], fun u => ?_⟩
  rw [hwu, hvu]
  fin_cases u <;> simp

/-- The plan store's and the cycle timer's part in the cycle start of cycle `n` (R110, R113, R120). -/
def State.begun (s : State) (n : Nat) : State :=
  { s.planned n with cycleTimer :=
    { (s.planned n).cycleTimer with cycle := some n, slot := some 0, cut := false, resume := false } }

/-- A cycle start begins the cycle, counts the request timers, and is handed on. -/
theorem State.startCycle_eq (s : State) (n : Nat) (instant : Stamp) : s.startCycle n instant =
    (((s.begun n).countRequests 0).countRequests 1).handCycle n s.cycleTimer.resume instant := rfl

theorem State.begun_frame (s : State) (n : Nat) :
    s.begun n = { s with
      plans := (s.planned n).plans
      cycleTimer := { s.cycleTimer with cycle := some n, slot := some 0, cut := false, resume := false }
      flight := { s.flight with latches := (s.planned n).flight.latches } } := by
  unfold State.begun
  rw [State.planned_frame]

theorem exec_cycleStart {s : State} {n : Nat} {instant : Stamp} {rest : List TimebaseEvent}
    (h : s.flight.toCycleTimer = .boundary n instant :: rest) :
    exec .cycleStart s =
      .next ((s.modFlight fun f => { f with toCycleTimer := rest }).startCycle n instant) := by
  simp only [exec, execCycleStart, h]

/-! ### Slot starts and cuts (R111, R112) -/

theorem exec_slotStart {s : State} {k : Nat} {instant : Stamp} {rest : List TimebaseEvent}
    (h : s.flight.toCycleTimer = .slot k instant :: rest) :
    exec .slotStart s =
      .next ((s.modFlight fun f => { f with toCycleTimer := rest }).startSlot k instant) := by
  simp only [exec, execSlotStart, h]

theorem State.startSlot_of_cycle {s : State} {n : Nat} (h : s.cycleTimer.cycle = some n) (k : Nat)
    (instant : Stamp) : s.startSlot k instant =
      State.handSlot { s with cycleTimer := { s.cycleTimer with slot := some k } } k n instant := by
  rw [State.startSlot, h]

/-- An uplink unit is handed the start of its query slot alone (R51, R111). -/
theorem State.handSlot_getElem (s : State) (k n : Nat) (instant : Stamp) (u : UpUnit) :
    (s.handSlot k n instant).flight.cyclesToUplink[u] = s.flight.cyclesToUplink[u] ++
      (if s.uplinks[u].settings.slot = k then [.slot k n s.cycleTimer.cut instant] else []) := by
  have h (p : Prop) [Decidable p] (l m : List CycleEvent) :
      (if p then l ++ m else l) = l ++ if p then m else [] := by
    split_ifs <;> simp
  rw [← h]
  fin_cases u <;> rfl

/-- Settles O43: the plan store's part by the pending change, then what each taker is handed. -/
theorem cyclesAndSlotsMade : Obligations.CyclesAndSlotsMade := by
  unfold Obligations.CyclesAndSlotsMade
  refine ⟨?_, fun s k instant rest hf => ⟨fun hc => ?_, fun n hc => ?_⟩, fun s a rest hf => ?_⟩
  · intro s n instant rest hf ⟨_, hpp, hpr, _⟩ point change
    let taken := s.modFlight fun f => { f with toCycleTimer := rest }
    have kept (hn : ¬(point ∧ change)) : taken.planned n = taken := by
      by_cases hp : point
      · exact State.planned_of_not_hasPending
          (by rw [← Bool.not_eq_true, PlanStore.hasPending_iff]; exact fun hc => hn ⟨hp, hc⟩)
      · exact State.planned_of_not_activation (by rw [← Bool.not_eq_true, isActivation_iff]; exact hp)
    have moved (hp : point) (hc : change) : taken.planned n =
        State.latch { taken with plans := s.plans.activate } .planActivated :=
      State.planned_of_change (isActivation_iff.mpr hp) (PlanStore.hasPending_iff.mpr hc)
    obtain ⟨v, hv, hvu⟩ := (taken.begun n).countRequests_both
    refine ⟨_, exec_cycleStart hf, ?_⟩
    rw [State.startCycle_eq, hv, State.begun_frame]
    rw [State.begun_frame] at hvu
    refine ⟨rfl, fun hn => ?_, fun hp hc => ?_, fun nm hp hb => ?_, fun nm i hp ha hi => ?_, hvu⟩
    · have h := kept hn
      exact ⟨(congrArg State.plans h :), (congrArg (·.flight.latches) h :)⟩
    · have h := moved hp hc
      exact (congrArg (·.flight.latches) h :)
    · have hc : s.plans.pendingBank.isSome = true := by rw [hb]; rfl
      have ht : (taken.planned n).plans = s.plans.activate := congrArg State.plans (moved hp (.inl hc))
      show (taken.planned n).plans.relabel = _ ∧ (taken.planned n).plans.bank nm = _ ∧ _
      rw [ht]
      exact PlanStore.activate_of_pendingBank hb hpp
    · have hc : s.plans.relabel.isSome = true := by rw [hi]; rfl
      have hb : s.plans.pendingBank = none := by
        rw [← Option.not_isSome_iff_eq_none]
        exact fun hb => hpr ⟨hb, hc⟩
      have ht : (taken.planned n).plans = s.plans.activate := congrArg State.plans (moved hp (.inr hc))
      show (taken.planned n).plans.relabel = _ ∧ (taken.planned n).plans.bank nm = _ ∧
        (taken.planned n).plans.bank nm.other = _
      rw [ht]
      exact PlanStore.activate_of_relabel hb ha hi
  · rw [exec_slotStart hf, State.startSlot, State.modFlight_cycleTimer, hc]
    rfl
  · refine ⟨_, exec_slotStart hf, ?_⟩
    rw [State.startSlot_of_cycle (s := s.modFlight _) hc]
    exact ⟨rfl, State.handSlot_getElem _ k n instant⟩
  · simp only [exec, execCycleCut, hf]
    rfl

end Sys2Proof.Machine

/-! SUPPORT. The selector's handling of a cycle start (R72, R84). -/

namespace Sys2Proof.Machine

open Sys2Proof.Config Sys2Proof.Safety

/-- An entry's timers counted at a cycle start: the retry timer while FAULTED, with TRIAL at its 0, and the
restore timer while USABLE (R72, R84). -/
def SourceEntry.counted (m : SourceEntry) : SourceEntry :=
  match m.state, m.retry, m.restore with
  | .faulted, some k, _ =>
    if k ≤ 1 then { m with state := .trial, goodRun := 0, missRun := 0, retry := none, restore := none }
    else { m with retry := some (k - 1) }
  | .usable, _, some k => { m with restore := some (min 3600 (k + 1)) }
  | _, _, _ => m

/-- The cycle start brings the entry's retry timer to 0. -/
def SourceEntry.Expires (m : SourceEntry) : Prop :=
  m.state = .faulted ∧ ∃ k ≤ 1, m.retry = some k

/-- `t` is `s` with the timers of the entries in `l` counted, and the input units of those that go from FAULTED
to TRIAL on a new pulse sequence, asking for the descriptor (R19, R34). -/
structure TimersCounted (l : List Ext) (s t : State) : Prop where
  frame : t = { s with
    selector := { s.selector with entries := t.selector.entries }
    inputs := t.inputs }
  entry : ∀ e : Ext, t.selector.entries[e] =
    if e ∈ l then s.selector.entries[e].counted else s.selector.entries[e]
  restarted : ∀ u : InUnit, inSource u ∈ l → s.selector.entries[inSource u].Expires →
    t.inputs[u] = s.inputs[u].enterTrial true
  kept : ∀ u : InUnit, ¬(inSource u ∈ l ∧ s.selector.entries[inSource u].Expires) → t.inputs[u] = s.inputs[u]

/-! ### The input unit of an entry -/

/-- The input unit of an entry changed: that unit alone. -/
theorem State.modInputOf_eq (s : State) (e : Ext) (f : InputUnit → InputUnit) :
    ∃ v : Vector InputUnit 2, s.modInputOf e f = { s with inputs := v } ∧
      ∀ u : InUnit, v[u] = if inSource u = e then f s.inputs[u] else s.inputs[u] := by
  unfold State.modInputOf inputOf
  split
  · next w hw =>
    split_ifs at hw with he
    cases hw
    refine ⟨_, rfl, fun u => (getElem_set_apply s.inputs _ u f).trans (if_congr ?_ rfl rfl)⟩
    simp [inSource, Fin.ext_iff, eq_comm]
  · next hw =>
    split_ifs at hw with he
    refine ⟨s.inputs, rfl, fun u => (if_neg ?_).symm⟩
    rintro rfl
    exact he u.isLt

/-! ### One entry's timers -/

/-- Counting an entry's timers changes the entry, and restarts its input unit when the retry timer ends. -/
theorem State.countTimers_eq (s : State) (e : Ext) :
    (s.selector.entries[e].Expires → s.countTimers e =
      (s.modEntry e SourceEntry.counted).modInputOf e fun i => i.enterTrial true) ∧
    (¬s.selector.entries[e].Expires → s.countTimers e = s.modEntry e SourceEntry.counted) := by
  have counted {f : SourceEntry → SourceEntry} (h : f s.selector.entries[e] = s.selector.entries[e].counted) :
      s.modEntry e f = s.modEntry e SourceEntry.counted := by
    rw [State.modEntry, h]; rfl
  have still (h : s.selector.entries[e].counted = s.selector.entries[e]) :
      s = s.modEntry e SourceEntry.counted := (State.modEntry_of_fixed h).symm
  unfold State.countTimers
  generalize hn : s.selector.entries[e] = n at *
  dsimp only
  cases hs : n.state with
  | faulted =>
    cases hr : n.retry with
    | none =>
      exact ⟨fun h => by simp [SourceEntry.Expires, hr] at h, fun _ =>
        still (by simp [SourceEntry.counted, hs, hr])⟩
    | some k =>
      by_cases hk : k ≤ 1
      · refine ⟨fun _ => ?_, fun h => absurd ⟨hs, k, hk, hr⟩ h⟩
        simp only [hk, if_true]
        unfold State.enterTrial
        rw [counted]
        simp [SourceEntry.counted, hs, hr, hk]
      · refine ⟨fun h => ?_, fun _ => ?_⟩
        · obtain ⟨-, j, hj, hr'⟩ := h
          rw [hr, Option.some.injEq] at hr'
          omega
        · simp only [hk, if_false]
          exact counted (by simp [SourceEntry.counted, hs, hr, hk])
  | usable =>
    refine ⟨fun h => by simp [SourceEntry.Expires, hs] at h, fun _ => counted ?_⟩
    cases hr : n.restore with
    | none => cases n; simp_all [SourceEntry.counted]
    | some k => simp [SourceEntry.counted, hs, hr]
  | disabled | absent | trial =>
    exact ⟨fun h => by simp [SourceEntry.Expires, hs] at h, fun _ => still (by simp [SourceEntry.counted, hs])⟩

theorem State.countTimers_timersCounted (s : State) (e : Ext) : TimersCounted [e] s (s.countTimers e) := by
  have entry (a : Ext) : (s.modEntry e SourceEntry.counted).selector.entries[a] =
      if a ∈ [e] then s.selector.entries[a].counted else s.selector.entries[a] :=
    (getElem_set_apply s.selector.entries e a _).trans (if_congr (by simp [eq_comm]) rfl rfl)
  by_cases hx : s.selector.entries[e].Expires
  · rw [s.countTimers_eq e |>.1 hx]
    obtain ⟨v, hv, hvu⟩ := (s.modEntry e SourceEntry.counted).modInputOf_eq e fun i => i.enterTrial true
    rw [hv]
    refine ⟨rfl, entry, fun u hu _ => ?_, fun u hu => ?_⟩
    · exact (hvu u).trans (if_pos (List.mem_singleton.mp hu))
    · refine (hvu u).trans (if_neg ?_)
      rintro rfl
      exact hu ⟨by simp, hx⟩
  · rw [s.countTimers_eq e |>.2 hx]
    exact ⟨rfl, entry, fun u hu hx' => absurd (List.mem_singleton.mp hu ▸ hx') hx, fun _ _ => rfl⟩

/-! ### Every entry's timers -/

/-- The timers of different entries are counted independently of each other. -/
theorem State.foldl_countTimers {l : List Ext} (hl : l.Nodup) (s : State) :
    TimersCounted l s (l.foldl State.countTimers s) := by
  induction l generalizing s with
  | nil => exact ⟨rfl, fun _ => by simp, fun _ hu => by simp at hu, fun _ _ => rfl⟩
  | cons e l ih =>
    obtain ⟨he, hl⟩ := List.nodup_cons.mp hl
    have h1 := s.countTimers_timersCounted e
    have h2 := ih hl (s.countTimers e)
    rw [List.foldl_cons]
    generalize s.countTimers e = v at h1 h2
    have other (a : Ext) (ha : a ∈ l) : v.selector.entries[a] = s.selector.entries[a] := by
      rw [h1.entry, if_neg]
      rw [List.mem_singleton]
      rintro rfl
      exact he ha
    refine ⟨by rw [h2.frame, h1.frame], fun a => ?_, fun u hu hx => ?_, fun u hu => ?_⟩
    · rw [h2.entry]
      by_cases ha : a ∈ l
      · simp [ha, other a ha]
      · simp [ha, h1.entry]
    · by_cases hul : inSource u ∈ l
      · rw [h2.restarted u hul (by rwa [other _ hul]), h1.kept u]
        rintro ⟨hm, -⟩
        rw [List.mem_singleton] at hm
        exact he (hm ▸ hul)
      · have hue : inSource u ∈ [e] := by simpa [hul] using hu
        rw [h2.kept u (fun h => hul h.1), h1.restarted u hue hx]
    · rw [h2.kept, h1.kept]
      · exact fun h => hu ⟨by simp_all, h.2⟩
      · rintro ⟨hm, hx⟩
        rw [other _ hm] at hx
        exact hu ⟨by simp [hm], hx⟩

/-- The whole handling of a cycle start: every entry's timers, then the revert test (R84). -/
theorem State.selectorCycle_cases {s : State} {n : Nat} {rest : List Nat}
    (h : s.flight.cyclesToSelector = n :: rest) :
    ∃ v, TimersCounted allExt (s.modFlight fun f => { f with cyclesToSelector := rest }) v ∧
      RevertTested v s.selectorCycle := by
  refine ⟨_, State.foldl_countTimers (by decide) _, ?_⟩
  unfold State.selectorCycle
  rw [h]
  exact State.revert_revertTested _

/-- Settles O33: the timers counted entry by entry, then the revert test. -/
theorem selectorTimersCount : Obligations.SelectorTimersCount := by
  unfold Obligations.SelectorTimersCount
  intro s n rest h expires
  obtain ⟨v, hv, ht⟩ := State.selectorCycle_cases h
  refine ⟨v, s.selectorCycle, rfl, fun e hs hr => ?_, ht, hv.frame, fun u => ⟨fun hx => ?_, fun hx => ?_⟩,
    fun e => ?_⟩
  · have hd : s.retryDue e = true := by simpa [State.retryDue, h] using ⟨hs, hr⟩
    simp only [exec, execRetryTimerExpiry, hd, if_true]
  · rw [hv.restarted u (mem_allExt _) hx, InputUnit.enterTrial_eq]
    rfl
  · exact hv.kept u fun hm => hx hm.2
  · rw [hv.entry, if_pos (mem_allExt e)]
    rfl

end Sys2Proof.Machine

/-! SUPPORT. The pulse tracker and what pairing makes of an accepted pulse (R18 to R23, R30 to R32, R38). -/

namespace Sys2Proof.Machine

open Sys2Proof.Config Sys2Proof.Safety

/-! ### A pulse captured (R18 to R21) -/

theorem inWindow_iff {c e : Stamp} {h : Nat} : inWindow c e h = true ↔ (c.diff e).natAbs ≤ h * 16 := by
  unfold inWindow fuPerNano
  exact decide_eq_true_iff

/-- A pulse finds what settling the held item leaves, and nothing else of the state before. -/
theorem State.pulse_of_overdue {s : State} {u : InUnit} {c : Stamp} (h : Overdue s.inputs[u].held c) :
    s.pulse u c = (unpaired s u).pulse u c := by
  obtain ⟨h1, h2⟩ := State.settleHeld_of_overdue h
  unfold State.pulse
  rw [h1, h2]

section Tracked

variable {s : State} {u : InUnit} {c : Stamp} (ho : ¬Overdue s.inputs[u].held c)

include ho

theorem State.pulse_of_idle (ht : s.inputs[u].tracker = .idle) : s.pulse u c = s := by
  rw [State.pulse, State.settleHeld_of_not_overdue ho]
  rw [ht]

theorem State.pulse_of_outside {e : Stamp} {h : Nat} (ht : s.inputs[u].tracker = .tracking e h)
    (hw : h * 16 < (c.diff e).natAbs) : s.pulse u c = s.toSelector (inSource u) (.report .stray) := by
  have hn : inWindow c e h = false := by
    rw [← Bool.not_eq_true, inWindow_iff]
    omega
  rw [State.pulse, State.settleHeld_of_not_overdue ho]
  rw [ht]
  dsimp only
  rw [hn]
  rfl

theorem State.pulse_of_seeking (ht : s.inputs[u].tracker = .seeking) : s.pulse u c = s.acceptPulse u c 0 := by
  rw [State.pulse, State.settleHeld_of_not_overdue ho]
  rw [ht]

theorem State.pulse_of_inside {e : Stamp} {h : Nat} (ht : s.inputs[u].tracker = .tracking e h)
    (hw : (c.diff e).natAbs ≤ h * 16) :
    s.pulse u c = s.acceptPulse u c (bumpIntervals s.inputs[u].intervals) := by
  rw [State.pulse, State.settleHeld_of_not_overdue ho]
  rw [ht]
  exact if_pos (inWindow_iff.mpr hw)

end Tracked

/-! ### A pulse accepted (R19, R20, R30 to R32) -/

/-- The unit after a pulse accepted at `c`: the next expected one second on, `n` intervals counted. -/
def InputUnit.accepted (i : InputUnit) (c : Stamp) (n : Count) : InputUnit :=
  { i with tracker := .tracking (c.plus 16000000000) i.settings.halfWidth, intervals := n }

theorem State.acceptPulse_eq (s : State) (u : InUnit) (c : Stamp) (n : Count) :
    s.acceptPulse u c n =
      State.pairPulse ((s.modInput u (·.accepted c n)).toSelector (inSource u) (.report .accepted)) u c := rfl

/-- In FOLLOWS an accepted pulse is held with its window (R30). -/
theorem State.acceptPulse_of_follows {s : State} {u : InUnit} (hm : s.inputs[u].settings.mode = .follows)
    (c : Stamp) (n : Count) :
    s.acceptPulse u c n = (s.modInput u fun i =>
        { i.accepted c n with held := .pulse c (c.plus (i.settings.window * 16000000)) }).toSelector
      (inSource u) (.report .accepted) := by
  have hm' : ((s.modInput u (·.accepted c n)).toSelector (inSource u)
      (.report .accepted)).inputs[u].settings.mode = .follows := by
    rw [State.toSelector_inputs, State.modInput_getElem]; exact hm
  rw [State.acceptPulse_eq, State.pairPulse, hm']
  dsimp only
  rw [State.toSelector_modInput, State.modInput_modInput]
  rfl

/-- In PRECEDES a pulse that finds nothing held is an orphan (R31). -/
theorem State.acceptPulse_of_nothing {s : State} {u : InUnit} (hm : s.inputs[u].settings.mode = .precedes)
    (hh : s.inputs[u].held = .nothing) (c : Stamp) (n : Count) :
    s.acceptPulse u c n = (s.modInput u fun i =>
        { i.accepted c n with counters := { i.counters with orphans := i.counters.orphans + 1 } }).toSelector
      (inSource u) (.report .accepted) := by
  have hi : ((s.modInput u (·.accepted c n)).toSelector (inSource u)
      (.report .accepted)).inputs[u] = s.inputs[u].accepted c n := by
    rw [State.toSelector_inputs, State.modInput_getElem]
  have hm' : (s.inputs[u].accepted c n).settings.mode = .precedes := hm
  have hh' : (s.inputs[u].accepted c n).held = .nothing := hh
  rw [State.acceptPulse_eq, State.pairPulse, hi, hm', hh']
  dsimp only
  rw [State.orphan, State.toSelector_modInput, State.modInput_modInput]
  rfl

/-- An event on its way before the pair's stands before it. -/
theorem pairFormed_toSelector (s : State) (u : InUnit) (tod : TimeOfDay) (c : Stamp) (comp : Int) (v : Validity)
    (k : UnitEvent) :
    pairFormed (s.toSelector (inSource u) k) u tod c comp v [] = pairFormed s u tod c comp v [k] := by
  simp [pairFormed, State.toSelector, State.modFlight]; rfl

/-- In PRECEDES a pulse that finds a sentence held pairs with it (R31, R32). -/
theorem State.acceptPulse_of_sentence {s : State} {u : InUnit} {tod : TimeOfDay} {w : Stamp} {comp : Int}
    (hm : s.inputs[u].settings.mode = .precedes) (hh : s.inputs[u].held = .sentence tod w)
    (hc : s.compensation (inSource u) = some comp) (c : Stamp) (n : Count) :
    ∃ v, Judged tod s.inputs[u].anchor n c comp v ∧
      s.acceptPulse u c n =
        pairFormed (s.modInput u fun i => { i.accepted c n with held := .nothing }) u tod c comp v
          [.report .accepted] := by
  let f (i : InputUnit) : InputUnit := { i.accepted c n with held := .nothing }
  refine ⟨_, InputUnit.judgePair_judged (f s.inputs[u]) tod c comp, ?_⟩
  have hi : ((s.modInput u (·.accepted c n)).toSelector (inSource u)
      (.report .accepted)).inputs[u] = s.inputs[u].accepted c n := by
    rw [State.toSelector_inputs, State.modInput_getElem]
  have hm' : (s.inputs[u].accepted c n).settings.mode = .precedes := hm
  have hh' : (s.inputs[u].accepted c n).held = .sentence tod w := hh
  rw [State.acceptPulse_eq, State.pairPulse, hi, hm', hh']
  dsimp only
  rw [State.toSelector_modInput, State.modInput_modInput]
  have hf := State.formPair_eq (s := (s.modInput u f).toSelector (inSource u) (.report .accepted)) (tod := tod)
    (c := c) hc
  rw [pairFormed_toSelector, State.toSelector_inputs, State.modInput_getElem] at hf
  exact hf

/-- Settles O21: the pulse by the tracker and the held item, the miss, and the step. -/
theorem pulseTrackerEvents : Obligations.PulseTrackerEvents := by
  unfold Obligations.PulseTrackerEvents
  intro counted
  refine ⟨fun s u x => ?_, fun s u e w ht hw => ?_, fun s u a rest h => ?_⟩
  · intro i c becomes accepted after
    have hexec (t : State) (h : s.pulse u c = t) : becomes t := congrArg Host.Outcome.next h
    have hset (n : Count) (h : Held) (k : InputCounters) :
        after n h k = s.modInput u fun i => { i.accepted c n with held := h, counters := k } := rfl
    refine ⟨fun ho => ?_, fun ho => ⟨fun ht => hexec _ (State.pulse_of_idle ho ht),
      fun e h ht hw => hexec _ (State.pulse_of_outside ho ht hw), fun n hn => ?_⟩⟩
    · have hr : (unpaired s u).reading x = c := by
        rw [State.reading, unpaired_timebase]; rfl
      exact congrArg Host.Outcome.next ((State.pulse_of_overdue ho).trans (by rw [hr]))
    · have hp : s.pulse u c = s.acceptPulse u c n := by
        rcases hn with ⟨ht, rfl⟩ | ⟨e, h, ht, hw, rfl⟩
        · exact State.pulse_of_seeking ho ht
        · exact State.pulse_of_inside ho ht hw
      refine ⟨fun hm => hexec _ (hp.trans (State.acceptPulse_of_follows hm c n)),
        fun hm hh => hexec _ ?_, fun tod w comp hm hh hc => ?_⟩
      · rw [hp, State.acceptPulse_of_nothing hm hh, ← hh]
        rfl
      · obtain ⟨v, hj, hv⟩ := State.acceptPulse_of_sentence hm hh hc c n
        exact ⟨v, hj, hexec _ (hp.trans hv)⟩
  · have hp : s.windowPassed u = true := by
      rw [State.windowPassed, ht]
      exact decide_eq_true hw
    have hm : s.miss u = (s.modInput u fun i =>
        { i with
          tracker := .tracking (e.plus 16000000000) i.settings.halfWidth
          intervals := counted i.intervals }).toSelector (inSource u) (.report .miss) := by
      simp only [State.miss, State.modInput, ht]
      rfl
    exact congrArg Host.Outcome.next ((if_pos hp).trans hm)
  · simp only [exec, execInputUnitStep, h]
    by_cases hd : s.selector.entries[inSource u].state = .disabled
    · have he : s.inputEnabled u = false := decide_eq_false (not_not.mpr hd)
      rw [if_pos hd, if_neg (by rw [he]; exact Bool.false_ne_true)]
      rfl
    · have he : s.inputEnabled u = true := decide_eq_true hd
      rw [if_neg hd, if_pos he]
      rfl

end Sys2Proof.Machine

/-! SUPPORT. The serial receiver and the assembler (R24 to R31, R36, R42). -/

namespace Sys2Proof.Machine

open Sys2Proof.Config Sys2Proof.Safety

/-- A change of an input unit that leaves it as it is changes nothing. -/
theorem State.modInput_of_fixed {s : State} {u : InUnit} {f : InputUnit → InputUnit}
    (h : f s.inputs[u] = s.inputs[u]) : s.modInput u f = s := by
  have h2 : s.inputs.set u s.inputs[u] = s.inputs := Vector.set_getElem_self _
  rw [State.modInput, h, h2]

/-! ### A character received (R24, R26) -/

section Character

variable {s : State} {u : InUnit} {d : Nat} {p : Parity} {c : Byte} {bit : Bool}
  (hr : s.inputs[u].receiver = .character d p)

include hr

/-- A bad verdict is counted and sends the assembler to WAIT_BREAK (R26). -/
theorem exec_badParity (hp : parityGood p c bit = false) (x : Elapsed) :
    exec (.characterReceived u c bit x) s = .next (s.modInput u fun i =>
      { i with
        receiver := .idle, assembler := .waitBreak
        counters := { i.counters with parity := i.counters.parity + 1 } }) := by
  simp only [exec, execCharacterReceived, hr, hp, Bool.false_eq_true, if_false, State.modInput_modInput]
  rfl

/-- A good character that ends no sentence moves the assembler on (R28). -/
theorem exec_characterInside (hp : parityGood p c bit = true)
    (ha : ∀ k n got, s.inputs[u].assembler ≠ .check k n got) (x : Elapsed) :
    exec (.characterReceived u c bit x) s =
      .next (s.modInput u fun i => { i.assemble c with receiver := .idle }) := by
  have hd : (s.modInput u fun i => { i with receiver := .idle }).deliver u c (s.reading x) =
      s.modInput u fun i => { i with receiver := .idle }.assemble c := by
    rw [State.deliver, State.modInput_getElem]
    dsimp only
    split
    · next k n got h => exact absurd h (ha k n got)
    · exact s.modInput_modInput u _ _
  have hi (i : InputUnit) : { i with receiver := .idle }.assemble c = { i.assemble c with receiver := .idle } := by
    unfold InputUnit.assemble
    dsimp only
    split <;> (try split_ifs) <;> rfl
  simp only [exec, execCharacterReceived, hr, hp, if_true, hd, hi]

/-- A good character in CHECK ends the sentence (R29). -/
theorem exec_characterEnding (hp : parityGood p c bit = true) {k : Byte} {n : Nat} {got : List Byte}
    (ha : s.inputs[u].assembler = .check k n got) (x : Elapsed) :
    exec (.characterReceived u c bit x) s =
      .next ((s.modInput u fun i => { i with receiver := .idle }).sentence u k n got c (s.reading x)) := by
  have hd : (s.modInput u fun i => { i with receiver := .idle }).deliver u c (s.reading x) =
      (s.modInput u fun i => { i with receiver := .idle }).sentence u k n got c (s.reading x) := by
    rw [State.deliver, State.modInput_getElem]
    dsimp only
    rw [ha]
  simp only [exec, execCharacterReceived, hr, hp, if_true, hd]

end Character

/-! ### What a character inside a sentence makes of the assembler (R28) -/

section Assemble

variable {i : InputUnit} {c : Byte}

theorem InputUnit.assemble_waitBreak (h : i.assembler = .waitBreak) :
    i.assemble c = { i with counters := { i.counters with unframed := i.counters.unframed + 1 } } := by
  cases i; cases h; rfl

theorem InputUnit.assemble_lead (h : i.assembler = .lead) :
    i.assemble c = if c = 0xF0#8 then { i with assembler := .kind } else
      { i with
        assembler := .waitBreak
        counters := { i.counters with badSentences := i.counters.badSentences + 1 } } := by
  rw [InputUnit.assemble, h]; rfl

theorem InputUnit.assemble_kind (h : i.assembler = .kind) : i.assemble c = { i with assembler := .length c } := by
  rw [InputUnit.assemble, h]

theorem InputUnit.assemble_length {k : Byte} (h : i.assembler = .length k) :
    i.assemble c =
      if 48 < c.toNat then
        { i with
          assembler := .waitBreak
          counters := { i.counters with badSentences := i.counters.badSentences + 1 } }
      else if c.toNat = 0 then { i with assembler := .check k 0 [] }
      else { i with assembler := .body k c.toNat [] } := by
  rw [InputUnit.assemble, h]; rfl

theorem InputUnit.assemble_body {k : Byte} {n : Nat} {got : List Byte} (h : i.assembler = .body k n got) :
    i.assemble c = { i with assembler :=
      if got.length + 1 < n then .body k n (got ++ [c]) else .check k n (got ++ [c]) } := by
  rw [InputUnit.assemble, h]
  dsimp only
  split_ifs <;> rfl

end Assemble

/-! ### What a sentence's end makes of the unit (R29 to R31, R36) -/

section Sentence

variable {s : State} {u : InUnit} {c : Byte} {now : Stamp}

/-- A sentence that fails a check is counted (R29). -/
theorem State.sentence_bad {k : Byte} {n : Nat} {got : List Byte} (h : sentenceOk k n got c = false) :
    s.sentence u k n got c now = s.modInput u fun i =>
      { i with
        assembler := .waitBreak
        counters := { i.counters with badSentences := i.counters.badSentences + 1 } } := by
  rw [State.sentence, if_neg (by rw [h]; exact Bool.false_ne_true), State.modInput_modInput]
  rfl

theorem State.sentence_timeOfDay {n : Nat} {got : List Byte} (h : sentenceOk 0x31#8 n got c = true) :
    s.sentence u 0x31#8 n got c now =
      (s.modInput u fun i => { i with assembler := .waitBreak }).pairSentence u (readTimeOfDay got) now := by
  rw [State.sentence, if_pos h, if_pos rfl]

theorem State.sentence_descriptor {n : Nat} {got : List Byte} (h : sentenceOk 0x44#8 n got c = true) :
    s.sentence u 0x44#8 n got c now =
      (s.modInput u fun i => { i with assembler := .waitBreak }).takeDescriptor u got := by
  rw [State.sentence, if_pos h, if_neg (by decide)]

/-- In FOLLOWS a sentence that finds nothing held is an orphan (R30). -/
theorem State.pairSentence_orphan (hm : s.inputs[u].settings.mode = .follows)
    (hh : s.inputs[u].held = .nothing) (tod : TimeOfDay) : s.pairSentence u tod now = s.orphan u := by
  have ho : ¬Overdue s.inputs[u].held now := by
    rw [hh]
    rintro (⟨_, _, e, -⟩ | ⟨_, _, e, -⟩) <;> cases e
  rw [State.pairSentence, State.settleHeld_of_not_overdue ho, hm, hh]

/-- In PRECEDES a sentence that finds nothing held is held itself (R31). -/
theorem State.pairSentence_held (hm : s.inputs[u].settings.mode = .precedes)
    (hh : s.inputs[u].held = .nothing) (tod : TimeOfDay) :
    s.pairSentence u tod now = s.modInput u fun i => { i with held := .sentence tod (i.windowEnd now) } := by
  rw [State.pairSentence_precedes hm, unpaired_of_nothing hh]

end Sentence

/-! ### The other events of the receiver (R24, R25, R27, R28) -/

/-- The end of a break discards a partial sentence and counts it (R28). -/
theorem InputUnit.breakEnded_eq (i : InputUnit) :
    i.breakEnded = { i with
      assembler := .lead
      counters := { i.counters with
        badSentences := i.counters.badSentences +
          (if i.assembler = .waitBreak ∨ i.assembler = .lead then 0 else 1) } } := by
  unfold InputUnit.breakEnded
  cases h : i.assembler <;> simp [InputUnit.badSentence, InputUnit.count]

/-- The end of a measurement (R27, R28, R42). -/
theorem InputUnit.measured_eq (i : InputUnit) (p : Parity) (n : Nat) :
    i.measured p n =
      let d := (clamp 1 65535 (halfAway n 80 - 1)).toNat
      { i with
        receiver := .leadWait (characterBits p * (16 * (d + 1)) - n) false
        assembler := if i.assembler = .lead then .kind else i.assembler
        settings := { i.settings with divisor := d, armed := false }
        counters := { i.counters with measurements := i.counters.measurements + 1 } } := by
  unfold InputUnit.measured
  cases h : i.assembler <;> simp [InputUnit.count, measuredDivisor, bitTicks, h]

/-- A line that may be low since a falling edge (R25). -/
theorem Receiver.fallen_iff {r : Receiver} :
    r.fallen = true ↔ (∃ d p, r = .character d p) ∨ (∃ p n, r = .counting p n) ∨ r = .lowIdle ∨
      ∃ n, r = .leadWait n true := by
  cases r <;> simp [Receiver.fallen]

theorem exec_receiveFallingEdge {s : State} {u : InUnit} (h : s.selector.entries[inSource u].state ≠ .disabled) :
    exec (.receiveFallingEdge u) s = .next (s.modInput u InputUnit.fallingEdge) :=
  congrArg Host.Outcome.next (if_pos (decide_eq_true h))

section Receiver

variable {s : State} {u : InUnit}

theorem exec_falseStart {d : Nat} {p : Parity} (h : s.inputs[u].receiver = .character d p) :
    exec (.falseStart u) s = .next (s.modInput u fun i => { i with receiver := .idle }) := by
  simp only [exec, execFalseStart, h]

theorem exec_framingError {d : Nat} {p : Parity} (h : s.inputs[u].receiver = .character d p) :
    exec (.framingError u) s = .next (s.modInput u fun i =>
      { i with
        receiver := .idle, assembler := .waitBreak
        counters := { i.counters with framing := i.counters.framing + 1 } }) := by
  simp only [exec, execFramingError, h]
  rfl

theorem exec_breakEnd (h : s.inputs[u].receiver = .inBreak) :
    exec (.breakEnd u) s = .next (s.modInput u fun i =>
      { i.breakEnded with receiver := if i.settings.armed = true then .measuring else .idle }) := by
  simp only [exec, execBreakEnd, h]

theorem exec_autoRateMeasurement {p : Parity} {n : Nat} (h : s.inputs[u].receiver = .counting p n) :
    exec (.autoRateMeasurement u) s = .next (s.modInput u fun i => i.measured p n) := by
  simp only [exec, execAutoRateMeasurement, h]

theorem exec_measuredLeadEnd {low : Bool} (h : s.inputs[u].receiver = .leadWait 0 low) :
    exec (.measuredLeadEnd u) s =
      .next (s.modInput u fun i => { i with receiver := if low = true then .lowIdle else .idle }) := by
  simp only [exec, execMeasuredLeadEnd, h]

end Receiver

/-- Settles O23: the character by its verdict and the assembler's state, the other events by the receiver's. -/
theorem serialLineBuildsSentences : Obligations.SerialLineBuildsSentences := by
  unfold Obligations.SerialLineBuildsSentences
  refine ⟨fun s u d p c bit x hr => ?_, fun s u => ?_⟩
  · intro i result
    refine ⟨fun hp => exec_badParity hr hp x, fun hp => ?_⟩
    have inside {j : InputUnit} (ha : ∀ k n got, i.assembler ≠ .check k n got) (hj : i.assemble c = j) :
        result j := by
      subst hj
      exact exec_characterInside hr hp ha x
    have ending {k : Byte} {n : Nat} {got : List Byte} {t : State} (ha : i.assembler = .check k n got)
        (ht : (s.modInput u fun i => { i with receiver := .idle }).sentence u k n got c (s.reading x) = t) :
        exec (.characterReceived u c bit x) s = .next t :=
      (exec_characterEnding hr hp ha x).trans (congrArg _ ht)
    refine ⟨fun h => ?_, fun h hc => ?_, fun h hc => ?_, fun h => ?_, fun k h hc => ?_, fun k h hc => ?_,
      fun k h h0 hc => ?_, fun k n got h hl => ?_, fun k n got h hl => ?_, fun k n got h hb => ?_,
      fun n got h hb hh => ⟨fun hm => ?_, fun hm => ?_⟩, fun n got h hb => ⟨fun hd => ?_, fun v hd => ?_⟩⟩
    · exact inside (by simp [h]) (InputUnit.assemble_waitBreak h)
    · exact inside (by simp [h]) ((InputUnit.assemble_lead h).trans (if_pos hc))
    · exact inside (by simp [h]) ((InputUnit.assemble_lead h).trans (if_neg hc))
    · exact inside (by simp [h]) (InputUnit.assemble_kind h)
    · exact inside (by simp [h]) ((InputUnit.assemble_length h).trans (if_pos hc))
    · exact inside (by simp [h]) ((InputUnit.assemble_length h).trans (by simp [hc]))
    · exact inside (by simp [h]) ((InputUnit.assemble_length h).trans
        ((if_neg (by omega)).trans (if_neg (by omega))))
    · exact inside (by simp [h]) ((InputUnit.assemble_body h).trans (by rw [if_pos hl]))
    · exact inside (by simp [h]) ((InputUnit.assemble_body h).trans (by rw [if_neg (by omega)]))
    · exact ending h ((State.sentence_bad hb).trans (State.modInput_modInput ..))
    · refine ending h (State.sentence_timeOfDay hb |>.trans ?_)
      rw [State.modInput_modInput, State.pairSentence_orphan (by rw [State.modInput_getElem]; exact hm)
        (by rw [State.modInput_getElem]; exact hh), State.orphan, State.modInput_modInput]
      rfl
    · refine ending h (State.sentence_timeOfDay hb |>.trans ?_)
      rw [State.modInput_modInput, State.pairSentence_held (by rw [State.modInput_getElem]; exact hm)
        (by rw [State.modInput_getElem]; exact hh), State.modInput_modInput]
      rfl
    · refine ending h (State.sentence_descriptor hb |>.trans ?_)
      rw [State.takeDescriptor, hd, State.modInput_modInput]
      exact State.modInput_modInput ..
    · refine ⟨_, State.withClassChange_classJudged _ _ fun t => t.modEntry (inSource u) fun m =>
        { m with descriptor := some v }, ending h (State.sentence_descriptor hb |>.trans ?_)⟩
      rw [State.takeDescriptor, hd]
      dsimp only
      rw [State.modInput_modInput, State.modInput_modInput]
      rfl
  · intro i becomes
    have made {c : Instr} {f : InputUnit → InputUnit} {j : InputUnit} (hj : f i = j)
        (h : exec c s = .next (s.modInput u f)) : becomes c j := by
      subst hj
      exact h
    refine ⟨fun h => ?_, fun h => ⟨fun hr => ?_, fun hr => ?_, fun n low hr => ?_⟩,
      fun d p hr => ⟨?_, ?_⟩, fun hr => ?_, fun hr => ?_, fun p n hr => ?_, fun low hr => ?_⟩
    · refine made (f := fun i => i) rfl ((congrArg Host.Outcome.next (if_neg ?_)).trans ?_)
      · rw [State.inputEnabled, decide_eq_false (not_not.mpr h)]
        exact Bool.false_ne_true
      · rw [State.modInput_of_fixed rfl]
    · refine made ?_ (exec_receiveFallingEdge h)
      rcases hr with hr | hr <;> rw [InputUnit.fallingEdge, hr]
    · exact made (by rw [InputUnit.fallingEdge, hr]) (exec_receiveFallingEdge h)
    · exact made (by rw [InputUnit.fallingEdge, hr]) (exec_receiveFallingEdge h)
    · exact made rfl (exec_falseStart hr)
    · exact made rfl (exec_framingError hr)
    · exact made rfl (congrArg Host.Outcome.next (if_pos (Receiver.fallen_iff.mpr hr)))
    · exact made (by rw [InputUnit.breakEnded_eq]) (exec_breakEnd hr)
    · exact made (i.measured_eq p n) (exec_autoRateMeasurement hr)
    · exact made rfl (exec_measuredLeadEnd hr)

end Sys2Proof.Machine

/-! SUPPORT. Held items, descriptor requests, and the writes of an input unit's settings (R25, R33 to R35, R42,
R64, R178). -/

namespace Sys2Proof.Machine

open Sys2Proof.Config Sys2Proof.Safety

/-! ### The end of a pairing window (R33) -/

theorem exec_pairingWindowEnd {s : State} {u : InUnit} (h : Overdue s.inputs[u].held s.timebase.time.stamp) :
    exec (.pairingWindowEnd u) s = .next (unpaired s u) :=
  congrArg Host.Outcome.next (State.settleHeld_of_overdue h).1

/-! ### Descriptor requests (R34, R35) -/

/-- A request made sets the timer to 10, sent or skipped. -/
theorem InputUnit.sendRequest_eq (i : InputUnit) : { i.sendRequest with requestTimer := some 10 } = asked i :=
  i.enterTrial_eq false

theorem exec_requestTimerExpiry {s : State} {u : InUnit} (h : s.inputs[u].requestTimer = some 0) :
    exec (.requestTimerExpiry u) s = .next (s.modInput u fun i =>
      if s.selector.entries[inSource u].descriptor = none then asked i else { i with requestTimer := none }) := by
  refine congrArg Host.Outcome.next ((if_pos h).trans ?_)
  simp only [Option.isNone_iff_eq_none, InputUnit.sendRequest_eq]
  split_ifs <;> rfl

theorem exec_descriptorRequestDone {s : State} {u : InUnit} {d : Nat} {p : Parity} {bs : List Byte}
    (h : s.inputs[u].transmitter = .sending d p bs 0) :
    exec (.descriptorRequestDone u) s = .next (s.modInput u fun i => { i with transmitter := .idle }) := by
  simp only [exec, execDescriptorRequestDone, h]

/-! ### Where an input unit's settings stand (R64) -/

theorem State.readEntry_input (s : State) (u : InUnit) {off : Nat} (h : 16 ≤ off) (h' : off < 32)
    (x : Elapsed) : s.readEntry 2 (32 * u.val + off) x = s.inputs[u].read off :=
  (s.readEntry_source (inSource u) h' x).trans (s.readSource_inSource u h)

theorem State.storeEntry_input (s : State) (u : InUnit) {off : Nat} (h : 16 ≤ off) (h' : off < 32)
    (value : List Byte) : s.storeEntry 2 (32 * u.val + off) value = s.writeInput u off value :=
  (s.storeEntry_source (inSource u) h' value).trans (s.writeSource_inSource u h value)

theorem writeRow_source (e : Ext) {off : Nat} (h : off < 32) (value : List Byte) :
    writeRow 2 (32 * e.val + off) value = sourceRow e.val off value := by
  have := e.isLt
  have h1 : (32 * e.val + off) / 32 = e.val := by omega
  have h2 : (32 * e.val + off) % 32 = off := by omega
  simp [writeRow, h1, h2]

/-! ### Writes of an input unit's settings (R42, R178) -/

/-- A numeric setting of an input unit, from how it is stored and read. -/
theorem inputSetting_numericWrite {s : State} {r : Running} {u : InUnit} {off bytes lo hi : Nat}
    {f : Nat → InputSettings → InputSettings} (h : 16 ≤ off) (h' : off < 32)
    (hrow : ∀ value, sourceRow u.val off value = .writeEntry) (hb : fieldWidth lo hi = bytes) (hlh : lo ≤ hi)
    (hs : ∀ value, s.writeInput u off value =
      storeNat lo hi value fun n => s.modInput u fun i => { i with settings := f n i.settings })
    (hr : ∀ (i : InputUnit) (n : Nat), { i with settings := f n i.settings }.read off = some (encField lo hi n))
    (hl : s.inputs[u].read off ≠ none) :
    NumericWrite .writeEntry s r 2 (32 * u.val + off) bytes lo hi fun m =>
      s.modInput u fun i => { i with settings := f m.toNat i.settings } := by
  refine numericWrite_of_storeNum (row := .writeEntry) rfl
    (fun value => (writeRow_source (inSource u) h' value).trans (hrow value)) (by omega)
    (by rwa [State.readEntry_input _ _ h h']) hb (by exact_mod_cast hlh)
    (fun value => (s.storeEntry_input u h h' value).trans (hs value)) fun m h0 _ => ?_
  lift m to Nat using by omega
  rw [State.readEntry_input _ _ h h', State.modInput_getElem, hr, encField_natCast, hb]
  rw [if_neg (by omega)]

/-- An enumerated setting of an input unit, from how it is stored and read. -/
theorem inputSetting_enumWrite {c : Instr} {row : WriteRow} {s : State} {r : Running} {u : InUnit} {off n : Nat}
    {store : Byte → InputUnit → InputUnit} (hc : exec c s = .next (s.writeAs row)) (h : 16 ≤ off)
    (h' : off < 32) (hrow : ∀ value, sourceRow u.val off value = row)
    (hs : ∀ value, s.writeInput u off value =
      storeEnum n value fun k => s.modInput u (store (BitVec.ofNat 8 k)))
    (hr : ∀ (b : Byte) (i : InputUnit), b.toNat < n → (store b i).read off = some [b])
    (hl : s.inputs[u].read off ≠ none) :
    EnumWrite c s r 2 (32 * u.val + off) n fun b => s.modInput u (store b) := by
  refine enumWrite_of_storeEnum hc
    (fun value => (writeRow_source (inSource u) h' value).trans (hrow value)) (by omega)
    (by rwa [State.readEntry_input _ _ h h']) (fun value => (s.storeEntry_input u h h' value).trans (hs value))
    fun b hb => ?_
  rw [State.readEntry_input _ _ h h', State.modInput_getElem, hr b _ hb]

theorem eq_of_toNat_lt_two {b : Byte} (h : b.toNat < 2) : b = 0#8 ∨ b = 1#8 := by
  bv_omega

/-- The pairing mode of a byte (2.1). -/
theorem setMode_ofNat {k : Nat} (hk : k < 2) (i : InputUnit) :
    i.setMode (if k = 0 then .follows else .precedes) =
      { i with
        settings := { i.settings with mode := if BitVec.ofNat 8 k = 0#8 then .follows else .precedes }
        held := .nothing } := by
  interval_cases k <;> rfl

/-- What a write of auto-rate arm leaves: CLEAR abandons a measurement (R25, R42). -/
def InputUnit.armWritten (i : InputUnit) (b : Byte) : InputUnit :=
  let j := { i with settings := { i.settings with armed := decide (b = 1#8) } }
  match i.receiver with
  | .measuring => if b = 0#8 then { j with receiver := .idle, assembler := .waitBreak } else j
  | .counting _ _ => if b = 0#8 then { j with receiver := .lowIdle, assembler := .waitBreak } else j
  | _ => j

theorem setArm_ofNat {k : Nat} (hk : k < 2) (i : InputUnit) :
    i.setArm (decide (k = 1)) = i.armWritten (BitVec.ofNat 8 k) := by
  interval_cases k <;> unfold InputUnit.setArm InputUnit.armWritten <;> cases h : i.receiver <;> rfl

theorem InputUnit.armWritten_settings (i : InputUnit) (b : Byte) :
    (i.armWritten b).settings = { i.settings with armed := decide (b = 1#8) } := by
  unfold InputUnit.armWritten
  dsimp only
  split <;> (try split_ifs) <;> rfl

/-- Settles O24: the held item, the request timer and the transmitter, then the settings one by one. -/
theorem heldItemsRequestsAndModes : Obligations.HeldItemsRequestsAndModes := by
  unfold Obligations.HeldItemsRequestsAndModes
  refine ⟨⟨fun s u c w h hw => ?_, fun s u tod w h hw => ?_, fun s u h => exec_requestTimerExpiry h,
    fun s u d p bs h => exec_descriptorRequestDone h⟩, fun s r u => ?_⟩
  · rw [exec_pairingWindowEnd (.inl ⟨c, w, h, hw⟩), unpaired_of_pulse h]
  · rw [exec_pairingWindowEnd (.inr ⟨tod, w, h, hw⟩), unpaired_of_sentence h]
  · intro set
    have hu : u.val < 2 := u.isLt
    refine ⟨?_, ?_, ?_, ?_, ?_, ?_⟩
    · refine inputSetting_enumWrite (row := .pairingMode) (store := fun b i =>
        { i with
          settings := { i.settings with mode := if b = 0#8 then .follows else .precedes }
          held := .nothing }) rfl (by omega) (by omega) (fun _ => if_pos hu) (fun value => ?_)
        (fun b i hb => ?_) (Option.some_ne_none _)
      · exact storeEnum_congr
          (f := fun k => s.modInput u fun i => i.setMode (if k = 0 then .follows else .precedes))
          fun k hk => congrArg (s.modInput u) (funext fun i => setMode_ofNat hk i)
      · rcases eq_of_toNat_lt_two hb with rfl | rfl <;> rfl
    · refine inputSetting_enumWrite (row := .autoRateArm) (store := fun b i => i.armWritten b) rfl (by omega)
        (by omega) (fun _ => if_pos hu) (fun value => ?_) (fun b i hb => ?_) (Option.some_ne_none _)
      · exact storeEnum_congr (f := fun k => s.modInput u fun i => i.setArm (decide (k = 1)))
          fun k hk => congrArg (s.modInput u) (funext fun i => setArm_ofNat hk i)
      · rw [InputUnit.read, InputUnit.armWritten_settings]
        rcases eq_of_toNat_lt_two hb with rfl | rfl <;> rfl
    · exact inputSetting_numericWrite (lo := 1000) (hi := 500000)
        (f := fun n c => { c with halfWidth := n }) (by omega)
        (by omega) (fun _ => rfl) (by decide) (by omega) (fun _ => rfl) (fun _ _ => rfl) (Option.some_ne_none _)
    · exact inputSetting_numericWrite (lo := 1) (hi := 65535)
        (f := fun n c => { c with divisor := n }) (by omega)
        (by omega) (fun _ => rfl) (by decide) (by omega) (fun _ => rfl) (fun _ _ => rfl) (Option.some_ne_none _)
    · refine inputSetting_enumWrite (row := .writeEntry) (store := fun b i =>
        { i with settings := { i.settings with
          parity := if b = 0#8 then .none else if b = 1#8 then .even else .odd } }) rfl (by omega)
        (by omega) (fun _ => rfl) (fun value => ?_) (fun b i hb => ?_) (Option.some_ne_none _)
      · refine storeEnum_congr (f := fun k => s.modInput u fun i =>
          { i with settings := { i.settings with parity := parityOf k } }) fun k hk => ?_
        interval_cases k <;> rfl
      · have hb' : b = 0#8 ∨ b = 1#8 ∨ b = 2#8 := by bv_omega
        rcases hb' with rfl | rfl | rfl <;> rfl
    · exact inputSetting_numericWrite (lo := 10) (hi := 990)
        (f := fun n c => { c with window := n }) (by omega)
        (by omega) (fun _ => rfl) (by decide) (by omega) (fun _ => rfl) (fun _ _ => rfl) (Option.some_ne_none _)

end Sys2Proof.Machine

/-! SUPPORT. What an entry and its unit stand at, and what keeps it (R39, R40, R58, R72, R78): every operation
that moves no entry between its states. -/

namespace Sys2Proof.Machine

open Sys2Proof.Config Sys2Proof.Safety

/-! ### What an entry and its unit stand at -/

/-- What the promise of R39, R40, R58, R72 and R78 reads of an entry and its unit: the entry's state, whether
each of its timers runs, and whether the unit is IDLE. -/
structure Standing where
  state : SourceState
  retrying : Bool
  restoring : Bool
  idle : Bool

/-- The unit of an external source is IDLE (R39, R58). -/
def State.unitIdle (s : State) (e : Ext) : Bool :=
  match inputOf e, uplinkOf e with
  | some u, _ => decide (s.inputs[u].tracker = .idle)
  | none, some u => !s.uplinks[u].running
  | none, none => false

def State.standing (s : State) (e : Ext) : Standing where
  state := s.selector.entries[e].state
  retrying := s.selector.entries[e].retry.isSome
  restoring := s.selector.entries[e].restore.isSome
  idle := s.unitIdle e

/-- The timers run and the unit is IDLE in the states that ask for it. -/
structure Standing.Sound (x : Standing) : Prop where
  retrying : x.retrying = true ↔ x.state = .faulted
  restoring : x.restoring = true ↔ x.state = .usable
  idle : x.idle = true ↔ x.state = .disabled

/-- Every entry stands sound. -/
def EntriesSound (s : State) : Prop :=
  ∀ e : Ext, (s.standing e).Sound

theorem State.unitIdle_inSource_eq (s : State) (u : InUnit) :
    s.unitIdle (inSource u) = decide (s.inputs[u].tracker = .idle) := by
  rw [State.unitIdle, inputOf_inSource]

theorem State.unitIdle_upSource_eq (s : State) (u : UpUnit) :
    s.unitIdle (upSource u) = !s.uplinks[u].running := by
  rw [State.unitIdle, inputOf_upSource, uplinkOf_upSource]

theorem State.unitIdle_inSource (s : State) (u : InUnit) :
    s.unitIdle (inSource u) = true ↔ s.inputs[u].tracker = .idle := by
  rw [State.unitIdle_inSource_eq, decide_eq_true_iff]

theorem State.unitIdle_upSource (s : State) (u : UpUnit) :
    s.unitIdle (upSource u) = true ↔ s.uplinks[u].running = false := by
  rw [State.unitIdle_upSource_eq, Bool.not_eq_true']

/-- An external source is an input unit's or an uplink unit's. -/
theorem input_or_uplink (e : Ext) : (∃ u, e = inSource u) ∨ ∃ u, e = upSource u := by
  revert e; decide

/-- The two promises together say that every entry stands sound. -/
theorem entriesSound_iff {s : State} : EntriesSound s ↔ TimersSound s ∧ UnitsSound s := by
  refine ⟨fun h => ⟨fun e => ⟨(h e).retrying, (h e).restoring⟩, fun u => ?_, fun u => ?_⟩,
    fun ⟨ht, hi, hu⟩ e => ⟨(ht e).1, (ht e).2, ?_⟩⟩
  · rw [← s.unitIdle_inSource u]; exact (h (inSource u)).idle
  · rw [← s.unitIdle_upSource u]; exact (h (upSource u)).idle
  · rcases input_or_uplink e with ⟨u, rfl⟩ | ⟨u, rfl⟩
    · exact (s.unitIdle_inSource u).trans (hi u)
    · exact (s.unitIdle_upSource u).trans (hu u)

theorem EntriesSound.of_eq {s t : State} (h : t.standing = s.standing) (hs : EntriesSound s) :
    EntriesSound t := by
  intro e
  rw [h]
  exact hs e

/-! ### The unit of an entry -/

theorem State.modInputOf_inSource (s : State) (u : InUnit) (f : InputUnit → InputUnit) :
    s.modInputOf (inSource u) f = s.modInput u f := by
  rw [State.modInputOf, inputOf_inSource]

theorem State.modInputOf_upSource (s : State) (u : UpUnit) (f : InputUnit → InputUnit) :
    s.modInputOf (upSource u) f = s := by
  rw [State.modInputOf, inputOf_upSource]

theorem State.modUplinkOf_inSource (s : State) (u : InUnit) (f : UplinkUnit → UplinkUnit) :
    s.modUplinkOf (inSource u) f = s := by
  rw [State.modUplinkOf, uplinkOf_inSource]

theorem State.modUplinkOf_upSource (s : State) (u : UpUnit) (f : UplinkUnit → UplinkUnit) :
    s.modUplinkOf (upSource u) f = s.modUplink u f := by
  rw [State.modUplinkOf, uplinkOf_upSource]

/-! ### The updates of one block -/

section Updates

variable {s t : State}

/-- What the standing reads is the inputs, the uplinks and the entries. -/
theorem State.standing_congr (hi : t.inputs = s.inputs) (hu : t.uplinks = s.uplinks)
    (he : t.selector.entries = s.selector.entries) : t.standing = s.standing := by
  funext e
  unfold State.standing State.unitIdle
  rw [hi, hu, he]

/-- What the entry of an input unit changed stands at, the others as before. -/
theorem State.modInput_standing_apply (s : State) (u : InUnit) (f : InputUnit → InputUnit) (a : Ext) :
    (s.modInput u f).standing a =
      if inSource u = a then { s.standing a with idle := decide ((f s.inputs[u]).tracker = .idle) }
      else s.standing a := by
  have hu (w : InUnit) : (s.modInput u f).unitIdle (inSource w) =
      if u = w then decide ((f s.inputs[u]).tracker = .idle) else s.unitIdle (inSource w) := by
    have hw : (s.modInput u f).inputs[w] = _ := getElem_set_apply s.inputs u w f
    rw [State.unitIdle_inSource_eq, State.unitIdle_inSource_eq]
    by_cases h : u = w
    · subst h; rw [if_pos rfl] at hw ⊢; simp only [hw]
    · rw [if_neg h] at hw ⊢; simp only [hw]
  rcases input_or_uplink a with ⟨w, rfl⟩ | ⟨w, rfl⟩
  · have hi : inSource u = inSource w ↔ u = w := by simp [inSource, Fin.ext_iff]
    unfold State.standing
    rw [hu]
    by_cases h : u = w
    · rw [if_pos h, if_pos (hi.mpr h)]; rfl
    · rw [if_neg h, if_neg (mt hi.mp h)]; rfl
  · have hi : inSource u ≠ upSource w := by simp [inSource, upSource, Fin.ext_iff]; omega
    have hd : (s.modInput u f).unitIdle (upSource w) = s.unitIdle (upSource w) := by
      rw [State.unitIdle_upSource_eq, State.unitIdle_upSource_eq]; rfl
    rw [if_neg hi]
    unfold State.standing
    rw [hd]
    rfl

/-- What the entry of an uplink unit changed stands at, the others as before. -/
theorem State.modUplink_standing_apply (s : State) (u : UpUnit) (f : UplinkUnit → UplinkUnit) (a : Ext) :
    (s.modUplink u f).standing a =
      if upSource u = a then { s.standing a with idle := !(f s.uplinks[u]).running } else s.standing a := by
  have hu (w : UpUnit) : (s.modUplink u f).unitIdle (upSource w) =
      if u = w then !(f s.uplinks[u]).running else s.unitIdle (upSource w) := by
    have hw : (s.modUplink u f).uplinks[w] = _ := getElem_set_apply s.uplinks u w f
    rw [State.unitIdle_upSource_eq, State.unitIdle_upSource_eq, hw]
    split_ifs with h
    · rw [h]
    · rfl
  rcases input_or_uplink a with ⟨w, rfl⟩ | ⟨w, rfl⟩
  · have hi : upSource u ≠ inSource w := by simp [inSource, upSource, Fin.ext_iff]; omega
    have hd : (s.modUplink u f).unitIdle (inSource w) = s.unitIdle (inSource w) := by
      rw [State.unitIdle_inSource_eq, State.unitIdle_inSource_eq]; rfl
    rw [if_neg hi]
    unfold State.standing
    rw [hd]
    rfl
  · have hi : upSource u = upSource w ↔ u = w := by simp [upSource, Fin.ext_iff]
    unfold State.standing
    rw [hu]
    by_cases h : u = w
    · rw [if_pos h, if_pos (hi.mpr h)]; rfl
    · rw [if_neg h, if_neg (mt hi.mp h)]; rfl

/-- A change of an input unit that neither starts nor stops its tracker. -/
theorem State.modInput_standing {u : InUnit} {f : InputUnit → InputUnit}
    (h : (f s.inputs[u]).tracker = .idle ↔ s.inputs[u].tracker = .idle) :
    (s.modInput u f).standing = s.standing := by
  funext a
  rw [State.modInput_standing_apply]
  split_ifs with ha
  · subst ha
    have hd : decide ((f s.inputs[u]).tracker = .idle) = (s.standing (inSource u)).idle := by
      rw [Bool.eq_iff_iff, decide_eq_true_iff]
      exact h.trans (s.unitIdle_inSource u).symm
    rw [hd]
  · rfl

/-- A change of an uplink unit that neither starts nor stops it. -/
theorem State.modUplink_standing {u : UpUnit} {f : UplinkUnit → UplinkUnit}
    (h : (f s.uplinks[u]).running = s.uplinks[u].running) : (s.modUplink u f).standing = s.standing := by
  funext a
  rw [State.modUplink_standing_apply]
  split_ifs with ha
  · subst ha
    have hd : (!(f s.uplinks[u]).running) = (s.standing (upSource u)).idle := by
      rw [h, ← State.unitIdle_upSource_eq]; rfl
    rw [hd]
  · rfl

@[simp] theorem State.modInput_standing_of_tracker {u : InUnit} {f : InputUnit → InputUnit}
    (h : ∀ i, (f i).tracker = i.tracker) : (s.modInput u f).standing = s.standing :=
  State.modInput_standing (by rw [h])

@[simp] theorem State.modUplink_standing_of_running {u : UpUnit} {f : UplinkUnit → UplinkUnit}
    (h : ∀ i, (f i).running = i.running) : (s.modUplink u f).standing = s.standing :=
  State.modUplink_standing (h _)

/-- What an entry changed stands at, the others as before. -/
theorem State.modEntry_standing_apply (s : State) (e a : Ext) (f : SourceEntry → SourceEntry) :
    (s.modEntry e f).standing a =
      if e = a then
        ⟨(f s.selector.entries[a]).state, (f s.selector.entries[a]).retry.isSome,
          (f s.selector.entries[a]).restore.isSome, s.unitIdle a⟩
      else s.standing a := by
  have hw := getElem_set_apply s.selector.entries e a f
  have hd : (s.modEntry e f).unitIdle a = s.unitIdle a := rfl
  unfold State.standing
  rw [State.modEntry_selector, hd]
  dsimp only
  rw [hw]
  split_ifs <;> rfl

/-- A change of an entry that keeps its state and its timers running or not. -/
@[simp] theorem State.modEntry_standing {e : Ext} {f : SourceEntry → SourceEntry}
    (h : (f s.selector.entries[e]).state = s.selector.entries[e].state ∧
      (f s.selector.entries[e]).retry.isSome = s.selector.entries[e].retry.isSome ∧
      (f s.selector.entries[e]).restore.isSome = s.selector.entries[e].restore.isSome) :
    (s.modEntry e f).standing = s.standing := by
  funext a
  rw [State.modEntry_standing_apply]
  split_ifs with ha
  · subst ha
    obtain ⟨h1, h2, h3⟩ := h
    rw [h1, h2, h3]
    rfl
  · rfl

@[simp] theorem State.modSelector_standing {f : Selector → Selector}
    (h : (f s.selector).entries = s.selector.entries) : (s.modSelector f).standing = s.standing :=
  State.standing_congr rfl rfl h

variable (s)

@[simp] theorem State.modSteering_standing (f : Steering → Steering) :
    (s.modSteering f).standing = s.standing := rfl

@[simp] theorem State.modPort_standing (p : Port) (f : PortUnit → PortUnit) :
    (s.modPort p f).standing = s.standing := rfl

@[simp] theorem State.modPulse_standing (k : PulseOut) (f : PulseUnit → PulseUnit) :
    (s.modPulse k f).standing = s.standing := rfl

@[simp] theorem State.modCoded_standing (m : CodedOut) (f : CodedUnit → CodedUnit) :
    (s.modCoded m f).standing = s.standing := rfl

@[simp] theorem State.modLink_standing (l : Link) (f : LinkUnit → LinkUnit) :
    (s.modLink l f).standing = s.standing := rfl

@[simp] theorem State.modNotice_standing (l : Link) (f : NoticeLink → NoticeLink) :
    (s.modNotice l f).standing = s.standing := rfl

@[simp] theorem State.modFlight_standing (f : Flight → Flight) : (s.modFlight f).standing = s.standing := rfl

@[simp] theorem State.logFault_standing (b : FaultOrigin) (c e d : Nat) :
    (s.logFault b c e d).standing = s.standing := rfl

@[simp] theorem State.latch_standing (c : NoticeClass) : (s.latch c).standing = s.standing := rfl

@[simp] theorem State.toSelector_standing (e : Ext) (v : UnitEvent) :
    (s.toSelector e v).standing = s.standing := rfl

@[simp] theorem State.handRate_standing (w : Int) : (s.handRate w).standing = s.standing := rfl

@[simp] theorem State.portReport_standing (p : Port) (r : PortReport) :
    (s.portReport p r).standing = s.standing := rfl

@[simp] theorem State.respond_standing (r : Running) (st : Status) (b : List Byte) :
    (s.respond r st b).standing = s.standing := rfl

end Updates

end Sys2Proof.Machine

/-! SUPPORT. What moves no entry between its states (R39, R40, R58, R72, R78): every operation that neither
faults, qualifies, enables nor disables an entry, chapter by chapter. -/

namespace Sys2Proof.Machine

open Sys2Proof.Config Sys2Proof.Safety

section StandingFrame

variable (s : State)

/-! ### Answers of the executor -/

@[simp] theorem State.answer_standing (r : Running) (st : Status) : (s.answer r st).standing = s.standing := rfl

/-- A checked write keeps the standing when its continuation does. -/
theorem State.checkedWrite_standing {s : State} {r : Running} {sect index : Nat} {k : State}
    (hk : k.standing = s.standing) : (s.checkedWrite r sect index k).standing = s.standing := by
  rcases s.checkedWrite_cases r sect index k with ⟨-, h⟩ | ⟨-, -, h⟩ | ⟨-, h⟩ <;> simp [h, hk]

/-! ### Source selector (chapter 4) -/

/-- The input unit of an entry changed, neither started nor stopped. -/
theorem State.modInputOf_standing {s : State} {e : Ext} {f : InputUnit → InputUnit}
    (h : ∀ u, e = inSource u → ((f s.inputs[u]).tracker = .idle ↔ s.inputs[u].tracker = .idle)) :
    (s.modInputOf e f).standing = s.standing := by
  rcases input_or_uplink e with ⟨u, rfl⟩ | ⟨u, rfl⟩
  · rw [State.modInputOf_inSource]
    exact State.modInput_standing (h u rfl)
  · rw [State.modInputOf_upSource]

@[simp] theorem State.selectSource_standing (i : Source) : (s.selectSource i).standing = s.standing := by
  rw [State.selectSource_eq]
  split
  · rfl
  · exact State.standing_congr rfl rfl rfl

@[simp] theorem State.maskOptions_standing : s.maskOptions.standing = s.standing := rfl

@[simp] theorem State.failureSwitch_standing : s.failureSwitch.standing = s.standing := by
  simp [State.failureSwitch]

@[simp] theorem State.leaveTrial_standing (e : Ext) : (s.leaveTrial e).standing = s.standing :=
  State.modInputOf_standing fun _ _ => Iff.rfl

@[simp] theorem State.revertTest_standing (n : Nat) : (s.revertTest n).standing = s.standing :=
  State.revertTest_induct (P := fun v => v.standing = s.standing) s n rfl
    (fun _ _ _ h _ _ => by simpa using h)
    (fun v t _ h _ _ _ => (v.selectSource_standing (toSource t.source)).trans h)

@[simp] theorem State.revert_standing : s.revert.standing = s.standing :=
  s.revertTest_standing _

@[simp] theorem State.upgradeTest_standing : s.upgradeTest.standing = s.standing := by
  rcases s.upgradeTest_cases with h | ⟨b, -, -, h⟩ <;> simp [h]

/-- The upgrade test that may follow a change adds nothing to what the change makes of the standing. -/
@[simp] theorem State.withClassChange_standing (e : Ext) (f : State → State) :
    (s.withClassChange e f).standing = (f s).standing := by
  rcases s.withClassChange_cases e f with h | h <;> simp [h]

theorem Selector.stepped_getElem (q : Selector) (e : Ext) :
    q.stepped.entries[e] = { q.entries[e] with learned := 0, learnedCount := 0 } := by
  simp [Selector.stepped]

@[simp] theorem State.stepped_standing : (s.modSelector Selector.stepped).standing = s.standing := by
  funext e
  unfold State.standing
  rw [State.modSelector_selector, Selector.stepped_getElem]
  rfl

/-! ### Input units (chapter 2) -/

@[simp] theorem State.followScale_standing (e : Ext) : (s.followScale e).standing = s.standing := by
  unfold State.followScale; split <;> rfl

@[simp] theorem State.formPair_standing (u : InUnit) (tod : TimeOfDay) (c : Stamp) :
    (s.formPair u tod c).standing = s.standing := by
  unfold State.formPair; dsimp only; split <;> simp

@[simp] theorem unpaired_standing (u : InUnit) : (unpaired s u).standing = s.standing := by
  cases h : s.inputs[u].held with
  | nothing => rw [unpaired_of_nothing h]
  | pulse c w => rw [unpaired_of_pulse h]; simp
  | sentence tod w => rw [unpaired_of_sentence h]; simp

@[simp] theorem State.emitUnpaired_standing (u : InUnit) : (s.emitUnpaired u).standing = s.standing := by
  simp [State.emitUnpaired_eq]

@[simp] theorem State.settleHeld_standing (u : InUnit) (now : Stamp) :
    (s.settleHeld u now).standing = s.standing := by
  unfold State.settleHeld; split <;> simp

@[simp] theorem State.orphan_standing (u : InUnit) : (s.orphan u).standing = s.standing :=
  State.modInput_standing Iff.rfl

@[simp] theorem State.pairPulse_standing (u : InUnit) (c : Stamp) : (s.pairPulse u c).standing = s.standing := by
  unfold State.pairPulse
  split
  · simp
  · split <;> simp

@[simp] theorem State.pairSentence_standing (u : InUnit) (tod : TimeOfDay) (now : Stamp) :
    (s.pairSentence u tod now).standing = s.standing := by
  unfold State.pairSentence
  dsimp only
  split
  · split <;> simp
  · simp

/-- A tracker that runs goes on running. -/
theorem State.acceptPulse_standing {s : State} {u : InUnit} (h : s.inputs[u].tracker ≠ .idle) (c : Stamp)
    (n : Count) : (s.acceptPulse u c n).standing = s.standing := by
  rw [State.acceptPulse_eq, State.pairPulse_standing, State.toSelector_standing]
  exact State.modInput_standing (iff_of_false (fun h => nomatch h) h)

@[simp] theorem State.pulse_standing (u : InUnit) (c : Stamp) : (s.pulse u c).standing = s.standing := by
  unfold State.pulse
  dsimp only
  split
  · simp
  · next h => rw [State.acceptPulse_standing (by rw [h]; exact fun h => nomatch h), State.settleHeld_standing]
  · next h =>
    split
    · rw [State.acceptPulse_standing (by rw [h]; exact fun h => nomatch h), State.settleHeld_standing]
    · simp

@[simp] theorem State.miss_standing (u : InUnit) : (s.miss u).standing = s.standing := by
  rw [State.miss, State.toSelector_standing]
  refine State.modInput_standing ?_
  cases s.inputs[u].tracker <;> simp

/-! ### Serial lines and descriptor requests (chapter 2) -/

@[simp] theorem InputUnit.count_tracker (i : InputUnit) (f : InputCounters → InputCounters) :
    (i.count f).tracker = i.tracker := by
  cases i; rfl

@[simp] theorem InputUnit.characterError_tracker (i : InputUnit) : i.characterError.tracker = i.tracker := by
  cases i; rfl

@[simp] theorem InputUnit.fallingEdge_tracker (i : InputUnit) : i.fallingEdge.tracker = i.tracker := by
  cases i; rfl

@[simp] theorem InputUnit.measured_tracker (i : InputUnit) (p : Parity) (n : Nat) :
    (i.measured p n).tracker = i.tracker := by
  cases i; rfl

@[simp] theorem InputUnit.sendRequest_tracker (i : InputUnit) : i.sendRequest.tracker = i.tracker := by
  unfold InputUnit.sendRequest; split <;> rfl

@[simp] theorem InputUnit.breakEnded_tracker (i : InputUnit) : i.breakEnded.tracker = i.tracker := by
  rw [InputUnit.breakEnded_eq]

@[simp] theorem InputUnit.assemble_tracker (i : InputUnit) (c : Byte) : (i.assemble c).tracker = i.tracker := by
  unfold InputUnit.assemble
  split <;> (try split_ifs) <;> rfl

@[simp] theorem State.takeDescriptor_standing (u : InUnit) (body : List Byte) :
    (s.takeDescriptor u body).standing = s.standing := by
  unfold State.takeDescriptor
  split
  · exact State.modInput_standing Iff.rfl
  · rw [State.withClassChange_standing, State.modEntry_standing ⟨rfl, rfl, rfl⟩]
    exact State.modInput_standing Iff.rfl

@[simp] theorem State.sentence_standing (u : InUnit) (k : Byte) (n : Nat) (body : List Byte) (c : Byte)
    (now : Stamp) : (s.sentence u k n body c now).standing = s.standing := by
  have hb (v : State) : (v.modInput u InputUnit.badSentence).standing = v.standing :=
    State.modInput_standing Iff.rfl
  unfold State.sentence; dsimp only; split_ifs <;> simp [hb]

@[simp] theorem State.deliver_standing (u : InUnit) (c : Byte) (now : Stamp) :
    (s.deliver u c now).standing = s.standing := by
  unfold State.deliver
  split
  · simp
  · exact State.modInput_standing (by rw [InputUnit.assemble_tracker])

/-! ### Uplink units (chapter 3) -/

@[simp] theorem UplinkUnit.count_running (i : UplinkUnit) (f : UplinkCounters → UplinkCounters) :
    (i.count f).running = i.running := by
  cases i; rfl

@[simp] theorem UplinkUnit.displace_running (i : UplinkUnit) : i.displace.running = i.running := by
  unfold UplinkUnit.displace; split <;> rfl

@[simp] theorem UplinkUnit.abandon_running (i : UplinkUnit) : i.abandon.running = i.running := by
  unfold UplinkUnit.abandon; split <;> rfl

@[simp] theorem UplinkUnit.stepped_running (i : UplinkUnit) : i.stepped.running = i.running :=
  i.abandon_running

@[simp] theorem UplinkUnit.age_running (i : UplinkUnit) : i.age.running = i.running := by
  unfold UplinkUnit.age
  split
  · rfl
  · split <;> rfl

@[simp] theorem UplinkUnit.querySlot_running (i : UplinkUnit) (u : UpUnit) (n : Nat) (cut : Bool) (d : Stamp) :
    (i.querySlot u n cut d).running = i.running := by
  unfold UplinkUnit.querySlot
  split_ifs
  · rfl
  · rfl
  · rfl
  · split <;> rfl

@[simp] theorem UplinkUnit.takeReply_running (i : UplinkUnit) (r : Nat) (q : Seq) (t : Stamp) :
    (i.takeReply r q t).running = i.running := by
  unfold UplinkUnit.takeReply
  split
  · split
    · dsimp only
      split
      · rfl
      · split <;> rfl
    · rfl
  · rfl

@[simp] theorem UplinkUnit.linkDown_running (i : UplinkUnit) : i.linkDown.running = i.running := by
  unfold UplinkUnit.linkDown
  split_ifs
  · rfl
  · exact i.abandon_running
  · rfl

@[simp] theorem State.release_standing (u : UpUnit) (t1 t2 : Stamp) :
    (s.release u t1 t2).standing = s.standing := by
  rw [State.release, State.toSelector_standing]
  exact State.modUplink_standing rfl

@[simp] theorem State.confirm_standing (u : UpUnit) (m : MarkFields) (t1 t2 : Stamp) :
    (s.confirm u m t1 t2).standing = s.standing := by
  unfold State.confirm
  split
  · exact State.modUplink_standing (UplinkUnit.displace_running _)
  · exact (State.release_standing _ u t1 t2).trans (State.modUplink_standing (UplinkUnit.displace_running _))
  · split
    · exact State.modUplink_standing rfl
    · dsimp only
      split
      · simp
      · exact (State.modUplink_standing rfl).trans (State.modUplink_standing rfl)
  · rfl

@[simp] theorem State.takeMark_standing (u : UpUnit) (m : MarkFields) (a : Stamp) :
    (s.takeMark u m a).standing = s.standing :=
  (State.confirm_standing _ u m _ _).trans (State.modUplink_standing rfl)

@[simp] theorem State.takeUpstream_standing (u : UpUnit) (c : Nat) (sc : Int) :
    (s.takeUpstream u c sc).standing = s.standing := by
  unfold State.takeUpstream
  rw [State.followScale_standing, State.withClassChange_standing]
  exact State.modUplink_standing rfl

@[simp] theorem State.uplinkCycle_standing (u : UpUnit) (n : Nat) (d : Stamp) :
    (s.uplinkCycle u n d).standing = s.standing := by
  unfold State.uplinkCycle
  dsimp only
  generalize hk : (if s.uplinks[u].settings.slot = 0 then _ else _ : UplinkUnit) = k
  have hr : k.running = s.uplinks[u].running := by
    rw [← hk]
    split_ifs
    · rw [UplinkUnit.querySlot_running, UplinkUnit.age_running]
    · exact UplinkUnit.age_running _
  have hm : (s.modUplink u fun _ => k).standing = s.standing := State.modUplink_standing hr
  split
  · split
    · exact hm
    · exact hm
  · rfl

@[simp] theorem State.takeUplinkCycle_standing (u : UpUnit) : (s.takeUplinkCycle u).standing = s.standing := by
  unfold State.takeUplinkCycle; split <;> simp

/-! ### Steering unit (chapter 5) -/

@[simp] theorem State.requestStep_standing (e : Ext) (d : Int) : (s.requestStep e d).standing = s.standing := rfl

@[simp] theorem State.lockTest_standing (c : Int) : (s.lockTest c).standing = s.standing := by
  unfold State.lockTest; dsimp only; split_ifs <;> rfl

@[simp] theorem State.reportExcursion_standing (e : Ext) (h : Bool) :
    (s.reportExcursion e h).standing = s.standing := rfl

@[simp] theorem State.excursionTest_standing (e : Ext) (c : Int) :
    (s.excursionTest e c).standing = s.standing := by
  unfold State.excursionTest; dsimp only; split_ifs <;> rfl

@[simp] theorem State.steer_standing (e : Ext) (c : Int) : (s.steer e c).standing = s.standing := by
  unfold State.steer; dsimp only; split <;> simp

@[simp] theorem State.takeGoodEvent_standing (e : Ext) (c x : Int) :
    (s.takeGoodEvent e c x).standing = s.standing := by
  unfold State.takeGoodEvent; dsimp only; split_ifs <;> simp

@[simp] theorem State.takeStepAnnouncement_standing (o : StepOrigin) :
    (s.takeStepAnnouncement o).standing = s.standing := by
  unfold State.takeStepAnnouncement; dsimp only; split <;> rfl

@[simp] theorem State.acquireSource_standing (e : Ext) : (s.acquireSource e).standing = s.standing := by
  unfold State.acquireSource; dsimp only; split <;> rfl

@[simp] theorem State.leaveSource_standing : s.leaveSource.standing = s.standing := by
  unfold State.leaveSource
  split
  · rfl
  · dsimp only; split <;> rfl

@[simp] theorem State.ageHoldover_standing (n : Nat) : (s.ageHoldover n).standing = s.standing := by
  unfold State.ageHoldover; split_ifs <;> rfl

@[simp] theorem State.steeringCycle_standing : s.steeringCycle.standing = s.standing := by
  unfold State.steeringCycle; split <;> simp

/-! ### Cycle timer and plan store (chapter 6) -/

@[simp] theorem State.activatePlan_standing : s.activatePlan.standing = s.standing := by
  unfold State.activatePlan; dsimp only; split <;> rfl

@[simp] theorem State.countRequests_standing (u : InUnit) : (s.countRequests u).standing = s.standing := by
  unfold State.countRequests
  split
  · exact State.modInput_standing Iff.rfl
  · rfl

@[simp] theorem State.handCycle_standing (n : Nat) (b : Bool) (i : Stamp) :
    (s.handCycle n b i).standing = s.standing := rfl

@[simp] theorem State.startCycle_standing (n : Nat) (i : Stamp) : (s.startCycle n i).standing = s.standing := by
  rw [State.startCycle_eq, State.begun_frame]
  simp only [State.handCycle_standing, State.countRequests_standing]
  rfl

@[simp] theorem State.handSlot_standing (k n : Nat) (i : Stamp) : (s.handSlot k n i).standing = s.standing := rfl

@[simp] theorem State.startSlot_standing (k : Nat) (i : Stamp) : (s.startSlot k i).standing = s.standing := by
  unfold State.startSlot
  split
  · rfl
  · exact State.handSlot_standing _ k _ i

@[simp] theorem State.cutCycle_standing : s.cutCycle.standing = s.standing := rfl

@[simp] theorem State.runArmPlan_standing (r : Running) (b n : Nat) :
    (s.runArmPlan r b n).standing = s.standing := by
  unfold State.runArmPlan
  split
  · rfl
  · split
    · rfl
    · split_ifs
      · rfl
      · rfl
      · split <;> rfl

@[simp] theorem State.runDisarmPlan_standing (r : Running) : (s.runDisarmPlan r).standing = s.standing := by
  refine State.checkedWrite_standing ?_
  split <;> rfl

/-! ### Distribution ports (chapter 7) -/

@[simp] theorem State.portCycle_standing (p : Port) (n : Nat) (nm : Option (BankName × Nat)) :
    (s.portCycle p n nm).standing = s.standing := by
  unfold State.portCycle
  split
  · split
    · dsimp only; split <;> simp
    · rfl
  · rfl

@[simp] theorem State.takePortCycle_standing (p : Port) : (s.takePortCycle p).standing = s.standing := by
  unfold State.takePortCycle; split <;> simp

@[simp] theorem State.sendMark_standing (p : Port) (k : Nat) (b : Bool) (x : Elapsed) :
    (s.sendMark p k b x).standing = s.standing := by
  unfold State.sendMark; dsimp only; split <;> rfl

@[simp] theorem State.departMark_standing (p : Port) (k : Nat) (b : Bool) (x : Elapsed) :
    (s.departMark p k b x).standing = s.standing := by
  unfold State.departMark; dsimp only; split <;> simp

@[simp] theorem State.departReply_standing (p : Port) (d : Departure) (l : Option (List Answer)) (n : Nat) :
    (s.departReply p d l n).standing = s.standing := by
  unfold State.departReply; dsimp only; split <;> rfl

@[simp] theorem State.takeQuery_standing (p : Port) (r : Nat) (q : Seq) (a : Stamp) :
    (s.takeQuery p r q a).standing = s.standing := by
  unfold State.takeQuery; dsimp only; split_ifs <;> rfl

@[simp] theorem State.portDown_standing (p : Port) : (s.portDown p).standing = s.standing := by
  unfold State.portDown; dsimp only; split_ifs <;> rfl

/-- A fold of operations that each keep the standing keeps it. -/
theorem foldl_standing {α : Type} {f : State → α → State} (hf : ∀ v a, (f v a).standing = v.standing)
    (l : List α) (s : State) : (l.foldl f s).standing = s.standing := by
  induction l generalizing s with
  | nil => rfl
  | cons a l ih => rw [List.foldl_cons, ih, hf]

@[simp] theorem State.runClearPortFlags_standing (r : Running) (l : List Nat) :
    (s.runClearPortFlags r l).standing = s.standing := by
  unfold State.runClearPortFlags
  dsimp only
  split_ifs
  · rfl
  · rfl
  · rfl
  · rfl
  · rw [State.respond_standing]
    exact foldl_standing (fun v p => v.modPort_standing p _) _ s

/-! ### Management links and the executor's own commands (chapter 10) -/

@[simp] theorem State.badFrame_standing (l : Link) (tag : Byte) (st : Status) :
    (s.badFrame l tag st).standing = s.standing := by
  unfold State.badFrame; dsimp only; split <;> rfl

@[simp] theorem State.takeCommand_standing (l : Link) (f : List Byte) :
    (s.takeCommand l f).standing = s.standing := by
  unfold State.takeCommand
  split
  · exact s.badFrame_standing _ _ _
  · rfl

@[simp] theorem State.grant_standing (l : Link) : (s.grant l).standing = s.standing := by
  unfold State.grant
  split
  · rfl
  · exact State.takeCommand_standing _ l _

@[simp] theorem State.runReadEntry_standing (r : Running) (i j : Nat) (x : Elapsed) :
    (s.runReadEntry r i j x).standing = s.standing := by
  unfold State.runReadEntry
  split_ifs
  · rfl
  · rfl
  · split <;> rfl

@[simp] theorem State.runReadTime_standing (r : Running) (x : Elapsed) :
    (s.runReadTime r x).standing = s.standing := by
  unfold State.runReadTime; split <;> rfl

@[simp] theorem State.runLockAccess_standing (r : Running) : (s.runLockAccess r).standing = s.standing := by
  unfold State.runLockAccess; split_ifs <;> rfl

@[simp] theorem State.runLinkReset_standing (r : Running) : (s.runLinkReset r).standing = s.standing := rfl

/-! ### Notices (chapter 11) -/

@[simp] theorem State.mapNotice_standing (f : NoticeLink → NoticeLink) :
    (s.mapNotice f).standing = s.standing := rfl

@[simp] theorem State.judgeCycle_standing : s.judgeCycle.standing = s.standing := by
  unfold State.judgeCycle; split <;> rfl

@[simp] theorem State.noticeCycle_standing (n : Nat) : (s.noticeCycle n).standing = s.standing := by
  rw [State.noticeCycle, State.judgeCycle_standing]
  rfl

@[simp] theorem State.noticeSlot_standing (k : Nat) (b : Bool) : (s.noticeSlot k b).standing = s.standing := by
  simp [State.noticeSlot]

@[simp] theorem State.runTakeNotice_standing (r : Running) : (s.runTakeNotice r).standing = s.standing := by
  unfold State.runTakeNotice; dsimp only; split <;> rfl

@[simp] theorem State.runEndService_standing (r : Running) : (s.runEndService r).standing = s.standing := by
  unfold State.runEndService; split <;> rfl

@[simp] theorem State.runPeekFault_standing (r : Running) : (s.runPeekFault r).standing = s.standing := rfl

@[simp] theorem State.runPopFault_standing (r : Running) : (s.runPopFault r).standing = s.standing := rfl

@[simp] theorem State.runClearFaultOverflow_standing (r : Running) :
    (s.runClearFaultOverflow r).standing = s.standing := rfl

end StandingFrame

end Sys2Proof.Machine


/-! SUPPORT. Every operation that moves an entry between its states keeps its timers and its unit in line (R39,
R40, R58, R65 to R72, R78, R81, R82, R84). -/

namespace Sys2Proof.Machine

open Sys2Proof.Config Sys2Proof.Safety

/-! ### One entry moved -/

theorem State.state_eq_of_standing {s t : State} (h : t.standing = s.standing) (e : Ext) :
    t.selector.entries[e].state = s.selector.entries[e].state :=
  congrArg Standing.state (congrFun h e)

section Moved

variable {s t : State} {e : Ext}

/-- One entry moved, and left sound, leaves every entry sound. -/
theorem EntriesSound.of_moved (hs : EntriesSound s) (ho : ∀ a, a ≠ e → t.standing a = s.standing a)
    (he : (t.standing e).Sound) : EntriesSound t := by
  intro a
  by_cases ha : a = e
  · rw [ha]; exact he
  · rw [ho a ha]; exact hs a

theorem EntriesSound.modEntry (hs : EntriesSound s) {f : SourceEntry → SourceEntry}
    (he : Standing.Sound ⟨(f s.selector.entries[e]).state, (f s.selector.entries[e]).retry.isSome,
      (f s.selector.entries[e]).restore.isSome, s.unitIdle e⟩) : EntriesSound (s.modEntry e f) :=
  hs.of_moved (e := e) (fun a ha => (s.modEntry_standing_apply e a f).trans (if_neg (Ne.symm ha)))
    (by rw [s.modEntry_standing_apply, if_pos rfl]; exact he)

/-- The unit of an enabled entry is not IDLE. -/
theorem EntriesSound.unitIdle_eq_false (hs : EntriesSound s) (h : s.selector.entries[e].state ≠ .disabled) :
    s.unitIdle e = false := by
  rw [← Bool.not_eq_true]
  exact fun hi => h ((hs e).idle.mp hi)

theorem EntriesSound.retry_eq_none (hs : EntriesSound s) (h : s.selector.entries[e].state ≠ .faulted) :
    s.selector.entries[e].retry = none := by
  rw [← Option.not_isSome_iff_eq_none]
  exact fun hr => h ((hs e).retrying.mp hr)

theorem EntriesSound.restore_isSome (hs : EntriesSound s) (h : s.selector.entries[e].state = .usable) :
    s.selector.entries[e].restore.isSome = true := (hs e).restoring.mpr h

end Moved

/-! ### Faults and the failure switch (R72, R75, R76, R78) -/

/-- The push of a USABLE source restarts a timer that runs. -/
theorem State.push_standing {s : State} (hs : EntriesSound s) (e : Ext) (c : Cause) :
    (s.push e c).standing = s.standing := by
  refine Eq.trans (State.modEntry_standing (s := s.modSelector _) ⟨rfl, rfl, ?_⟩) (State.modSelector_standing rfl)
  show (if s.selector.entries[e].state = .usable then some 0 else s.selector.entries[e].restore).isSome =
    s.selector.entries[e].restore.isSome
  split_ifs with h
  · exact (hs.restore_isSome h).symm
  · rfl

/-- A fault of an enabled entry runs its retry timer and stops its restore timer (R72). -/
theorem EntriesSound.faultEntry {s : State} {e : Ext} (hs : EntriesSound s)
    (h : s.selector.entries[e].state ≠ .disabled) (c : Cause) : EntriesSound (s.faultEntry e c) := by
  have hf : EntriesSound (s.modEntry e fun n =>
      { n with
        state := .faulted, retry := some s.selector.settings.retryTime, goodRun := 0, missRun := 0
        restore := none }) := by
    refine hs.modEntry ?_
    rw [hs.unitIdle_eq_false h]
    exact ⟨by simp, by simp, by simp⟩
  have hl := hf.of_eq (State.leaveTrial_standing _ e)
  unfold State.faultEntry
  dsimp only
  split_ifs
  · refine hl.of_eq ?_
    rw [State.failureSwitch_standing, State.push_standing (hl.of_eq (State.logFault_standing ..)),
      State.logFault_standing]
  · exact hl.of_eq (State.logFault_standing ..)

/-! ### Entry into TRIAL and USABLE (R66, R69, R72) -/

/-- The unit of an entry that enters TRIAL runs, as it ran before. -/
theorem InputUnit.enterTrial_tracker {i : InputUnit} (h : i.tracker ≠ .idle) (fromFaulted : Bool) :
    (i.enterTrial fromFaulted).tracker ≠ .idle := by
  have ht : (i.enterTrial fromFaulted).tracker = (if fromFaulted then i.startSequence else i).tracker :=
    InputUnit.sendRequest_tracker _
  rw [ht]
  cases fromFaulted
  · exact h
  · exact fun h => nomatch h

theorem State.enterTrial_state (s : State) (e : Ext) (fromFaulted : Bool) :
    (s.enterTrial e fromFaulted).selector.entries[e].state = .trial := by
  have hq : (s.enterTrial e fromFaulted).selector = (s.modEntry e fun n =>
      { n with state := .trial, goodRun := 0, missRun := 0, retry := none, restore := none }).selector := by
    unfold State.enterTrial State.modInputOf
    split <;> rfl
  rw [hq]
  simp

theorem EntriesSound.enterTrial {s : State} {e : Ext} (hs : EntriesSound s)
    (h : s.selector.entries[e].state ≠ .disabled) (fromFaulted : Bool) :
    EntriesSound (s.enterTrial e fromFaulted) := by
  have hi := hs.unitIdle_eq_false h
  refine EntriesSound.of_eq (State.modInputOf_standing ?_) (hs.modEntry (e := e) ?_)
  · rintro u rfl
    rw [State.unitIdle_inSource_eq, decide_eq_false_iff_not] at hi
    exact iff_of_false (InputUnit.enterTrial_tracker hi _) hi
  · rw [hi]
    exact ⟨by simp, by simp, by simp⟩

/-- An entry of TRIAL that becomes USABLE has its restore timer run, and no retry timer. -/
theorem EntriesSound.becomeUsable {s : State} {e : Ext} (hs : EntriesSound s)
    (h : s.selector.entries[e].state = .trial) : EntriesSound (s.becomeUsable e) := by
  have hu : EntriesSound (s.modEntry e fun n => { n with state := .usable, restore := some 0 }) := by
    refine hs.modEntry ?_
    rw [hs.unitIdle_eq_false (by rw [h]; decide), hs.retry_eq_none (by rw [h]; decide)]
    exact ⟨by simp, by simp, by simp⟩
  have hl := hu.of_eq (State.leaveTrial_standing _ e)
  refine hl.of_eq ?_
  unfold State.becomeUsable
  dsimp only
  split_ifs <;> simp

/-! ### Reports and phase events (R66 to R70) -/

theorem EntriesSound.heardReport {s : State} {e : Ext} (hs : EntriesSound s)
    (h : s.selector.entries[e].state ≠ .disabled) (k : ReportKind) : EntriesSound (s.heardReport e k) := by
  cases k with
  | accepted => exact hs.of_eq (State.modEntry_standing ⟨rfl, rfl, rfl⟩)
  | stray => exact hs.of_eq (State.modEntry_standing ⟨rfl, rfl, rfl⟩)
  | miss =>
    have hc : (s.modEntry e fun n => { n with misses := n.misses + 1 }).standing = s.standing :=
      State.modEntry_standing ⟨rfl, rfl, rfl⟩
    have hr (k : Nat) : ((s.modEntry e fun n => { n with misses := n.misses + 1 }).modEntry e
        fun n => { n with missRun := k }).standing = s.standing :=
      (State.modEntry_standing ⟨rfl, rfl, rfl⟩).trans hc
    unfold State.heardReport
    dsimp only
    split_ifs
    · exact hs.of_eq hc
    · refine (hs.of_eq (hr _)).faultEntry ?_ _
      rwa [State.state_eq_of_standing (hr _)]
    · exact hs.of_eq (hr _)

theorem EntriesSound.takeReport {s : State} {e : Ext} (hs : EntriesSound s) (k : ReportKind) :
    EntriesSound (s.takeReport e k) := by
  have hm : EntriesSound (s.modEntry e fun n => { n with misses := n.misses + 1 }) :=
    hs.of_eq (State.modEntry_standing ⟨rfl, rfl, rfl⟩)
  have ht (h : s.selector.entries[e].state = .absent) : EntriesSound ((s.enterTrial e false).heardReport e k) :=
    (hs.enterTrial (by rw [h]; decide) false).heardReport
      (by rw [State.enterTrial_state]; decide) k
  unfold State.takeReport
  cases h : s.selector.entries[e].state with
  | disabled => exact hs
  | absent =>
    cases k with
    | miss => exact hm
    | accepted => exact ht h
    | stray => exact ht h
  | trial => exact hs.heardReport (by rw [h]; decide) k
  | usable => exact hs.heardReport (by rw [h]; decide) k
  | faulted => exact hs.heardReport (by rw [h]; decide) k

theorem EntriesSound.takeGood {s : State} (hs : EntriesSound s) (e : Ext) (c : Int) :
    EntriesSound (s.takeGood e c) := by
  have counted (v : State) (f : SourceEntry → SourceEntry) (hf : (f v.selector.entries[e]).state =
      v.selector.entries[e].state ∧ (f v.selector.entries[e]).retry = v.selector.entries[e].retry ∧
      (f v.selector.entries[e]).restore = v.selector.entries[e].restore) :
      (v.modEntry e f).standing = v.standing :=
    State.modEntry_standing ⟨hf.1, by rw [hf.2.1], by rw [hf.2.2]⟩
  have hl : (s.modEntry e fun n => n.learn c).standing = s.standing := counted s _ ⟨rfl, rfl, rfl⟩
  unfold State.takeGood
  dsimp only
  split
  · next h =>
    split_ifs
    · exact hs.of_eq ((counted _ _ ⟨rfl, rfl, rfl⟩).trans hl)
    · refine (hs.of_eq ((counted _ _ ⟨rfl, rfl, rfl⟩).trans hl)).becomeUsable ?_
      rw [State.state_eq_of_standing (counted _ _ ⟨rfl, rfl, rfl⟩)]
      exact h
    · exact hs.of_eq ((counted _ _ ⟨rfl, rfl, rfl⟩).trans hl)
  · exact hs.of_eq ((counted _ _ ⟨rfl, rfl, rfl⟩).trans hl)

theorem EntriesSound.takeBad {s : State} (hs : EntriesSound s) (e : Ext) (cause : BadCause) :
    EntriesSound (s.takeBad e cause) := by
  have hb : (s.modEntry e fun n => { n with bad := n.bad + 1 }).standing = s.standing :=
    State.modEntry_standing ⟨rfl, rfl, rfl⟩
  have hsb := hs.of_eq hb
  unfold State.takeBad
  dsimp only
  split
  · exact hsb.of_eq (State.modEntry_standing ⟨rfl, rfl, rfl⟩)
  · next h => exact hsb.faultEntry (by rw [h]; decide) _
  · next h => exact hsb.faultEntry (by rw [h]; decide) _
  · exact hsb

theorem EntriesSound.takePhase {s : State} (hs : EntriesSound s) (e : Ext) (ev : PhaseEvent) :
    EntriesSound (s.takePhase e ev) := by
  unfold State.takePhase
  split
  · exact hs
  · dsimp only
    generalize hv : (if s.selector.entries[e].state = .absent then s.enterTrial e false else s) = v
    have h : EntriesSound v := by
      rw [← hv]
      split_ifs with ha
      · exact hs.enterTrial (by rw [ha]; decide) false
      · exact hs
    split
    · exact h.takeBad e _
    · split
      · exact (h.takeGood e _).of_eq (State.modFlight_standing _ _)
      · exact h.takeGood e _

/-! ### Enabling and disabling (R39, R40, R58, R65) -/

/-- The unit of an entry started or stopped, and no other. -/
theorem State.modUnit_standing_apply (s : State) (e a : Ext) {f : InputUnit → InputUnit}
    {g : UplinkUnit → UplinkUnit} {b : Bool} (hf : ∀ i, decide ((f i).tracker = .idle) = b)
    (hg : ∀ i, (!(g i).running) = b) :
    ((s.modInputOf e f).modUplinkOf e g).standing a =
      if e = a then { s.standing a with idle := b } else s.standing a := by
  rcases input_or_uplink e with ⟨u, rfl⟩ | ⟨u, rfl⟩
  · rw [State.modInputOf_inSource, State.modUplinkOf_inSource, State.modInput_standing_apply, hf]
  · rw [State.modInputOf_upSource, State.modUplinkOf_upSource, State.modUplink_standing_apply, hg]

/-- An entry enabled is ABSENT, with no timer running and its unit started. -/
theorem EntriesSound.enableSource {s : State} (hs : EntriesSound s) (e : Ext) :
    EntriesSound (s.enableSource e) := by
  unfold State.enableSource
  split_ifs
  · refine hs.of_moved (e := e) (fun a ha => ?_) ?_ <;>
      rw [State.modUnit_standing_apply _ _ _ (b := false) (fun _ => rfl) fun _ => rfl]
    · rw [if_neg (Ne.symm ha), State.modEntry_standing_apply, if_neg (Ne.symm ha)]
    · rw [if_pos rfl, State.modEntry_standing_apply, if_pos rfl]
      exact ⟨by simp, by simp, by simp⟩
  · exact hs

/-- An entry switched off is DISABLED, with no timer running and its unit IDLE, and no other is moved. -/
theorem State.switchOff_standing (s : State) (e a : Ext) :
    (s.switchOff e).standing a = if e = a then ⟨.disabled, false, false, true⟩ else s.standing a := by
  unfold State.switchOff
  dsimp only
  rw [apply_ite State.standing, State.failureSwitch_standing, ite_self,
    State.modUnit_standing_apply _ _ _ (b := true) (fun _ => rfl) fun _ => rfl, State.modSelector_standing rfl,
    State.modEntry_standing_apply]
  split_ifs <;> rfl

theorem EntriesSound.switchOff {s : State} (hs : EntriesSound s) (e : Ext) : EntriesSound (s.switchOff e) := by
  refine hs.of_moved (e := e) (fun a ha => ?_) ?_ <;> rw [State.switchOff_standing]
  · exact if_neg (Ne.symm ha)
  · rw [if_pos rfl]
    exact ⟨by simp, by simp, by simp⟩

/-- A disable leaves every entry where switching the one off leaves it: the tests that follow move none. -/
theorem State.disableSource_standing {s : State} {e : Ext} (h : s.selector.entries[e].state ≠ .disabled) :
    (s.disableSource e).standing = (s.switchOff e).standing := by
  unfold State.disableSource
  rw [if_neg h]
  dsimp only
  split_ifs <;> simp

theorem EntriesSound.disableSource {s : State} (hs : EntriesSound s) (e : Ext) :
    EntriesSound (s.disableSource e) := by
  by_cases h : s.selector.entries[e].state = .disabled
  · rwa [State.disableSource, if_pos h]
  · exact (hs.switchOff e).of_eq (State.disableSource_standing h)

/-! ### Cycle starts and commands (R81, R82, R84) -/

theorem EntriesSound.countTimers {s : State} (hs : EntriesSound s) (e : Ext) : EntriesSound (s.countTimers e) := by
  unfold State.countTimers
  dsimp only
  split
  · next h =>
    split
    · next k hr =>
      split_ifs
      · exact hs.enterTrial (by rw [h]; decide) true
      · exact hs.of_eq (State.modEntry_standing ⟨rfl, by rw [hr]; rfl, rfl⟩)
    · exact hs
  · exact hs.of_eq (State.modEntry_standing ⟨rfl, rfl, Option.isSome_map⟩)
  · exact hs

theorem EntriesSound.foldl {α : Type} {f : State → α → State} (hf : ∀ v a, EntriesSound v → EntriesSound (f v a))
    (l : List α) {s : State} (hs : EntriesSound s) : EntriesSound (l.foldl f s) := by
  induction l generalizing s with
  | nil => exact hs
  | cons a l ih => exact ih (hf s a hs)

theorem EntriesSound.selectorCycle {s : State} (hs : EntriesSound s) : EntriesSound s.selectorCycle := by
  unfold State.selectorCycle
  split
  · exact hs
  · exact (EntriesSound.foldl (fun v e hv => hv.countTimers e) allExt
      (hs.of_eq (State.modFlight_standing _ _))).of_eq (State.revert_standing _)

theorem State.manualSwitch_standing {s : State} (hs : EntriesSound s) (i : Source) :
    (s.manualSwitch i).standing = s.standing := by
  unfold State.manualSwitch
  split
  · rw [State.selectSource_standing, State.maskOptions_standing, State.push_standing hs]
  · exact s.selectSource_standing i

theorem State.runSwitchSource_standing {s : State} (hs : EntriesSound s) (r : Running) (n : Nat) :
    (s.runSwitchSource r n).standing = s.standing := by
  refine State.checkedWrite_standing ?_
  split
  · dsimp only
    split
    · rfl
    · split_ifs
      · rfl
      · rfl
      · exact State.manualSwitch_standing hs _
  · rfl

@[simp] theorem State.runDiscardFallback_standing (s : State) (r : Running) :
    (s.runDiscardFallback r).standing = s.standing := by
  refine State.checkedWrite_standing ?_
  split
  · rfl
  · rw [State.respond_standing, State.revert_standing]
    exact State.modSelector_standing rfl

end Sys2Proof.Machine

/-! SUPPORT. Entry writes, service reset, and every command keep the entries' timers and units in line (R39, R40,
R58, R72, R78, R178, R183). -/

namespace Sys2Proof.Machine

open Sys2Proof.Config Sys2Proof.Safety

/-! ### Entry writes (R178) -/

section EntryWrites

variable (s : State) (value : List Byte)

@[simp] theorem InputUnit.setArm_tracker (i : InputUnit) (b : Bool) : (i.setArm b).tracker = i.tracker := by
  unfold InputUnit.setArm
  dsimp only
  split <;> rfl

theorem State.writeInput_standing (u : InUnit) (off : Nat) :
    (s.writeInput u off value).Forall fun t => t.standing = s.standing := by
  have ha (b : Bool) : (s.modInput u fun i => i.setArm b).standing = s.standing :=
    State.modInput_standing (by rw [InputUnit.setArm_tracker])
  have hm (m : PairingMode) : (s.modInput u fun i => i.setMode m).standing = s.standing :=
    State.modInput_standing Iff.rfl
  unfold State.writeInput; dsimp only; split <;> simp [ha, hm]

theorem State.writeUplink_standing (u : UpUnit) (off : Nat) :
    (s.writeUplink u off value).Forall fun t => t.standing = s.standing := by
  unfold State.writeUplink; dsimp only; split <;> simp

/-- An enabled field moves the entry; every other field of a source keeps where the entries stand. -/
theorem State.writeSource_sound (hs : EntriesSound s) (e : Ext) (off : Nat) :
    (s.writeSource e off value).Forall EntriesSound := by
  have kept {x : Stored} (h : x.Forall fun t => t.standing = s.standing) : x.Forall EntriesSound :=
    h.mono fun _ ht => hs.of_eq ht
  unfold State.writeSource
  split
  · rw [forall_storeEnum]
    intro b _ _
    split
    · exact hs.enableSource e
    · exact hs.disableSource e
  · exact kept (by simp)
  · exact kept (by simp [State.setClass])
  · split
    · trivial
    · exact kept (by simp)
  · exact kept (by simp)
  · unfold State.writeUnit
    split
    · exact kept (s.writeInput_standing value _ off)
    · exact kept (s.writeUplink_standing value _ off)
    · trivial

theorem State.writeSelector_standing (index : Nat) :
    (s.writeSelector index value).Forall fun t => t.standing = s.standing := by
  have ha (on : Bool) : (s.setAutoUpgrade on).standing = s.standing := by
    unfold State.setAutoUpgrade; dsimp only; split <;> simp
  unfold State.writeSelector; dsimp only; split <;> simp [ha]

theorem State.writeSources_sound (hs : EntriesSound s) (index : Nat) :
    (s.writeSources index value).Forall EntriesSound := by
  unfold State.writeSources
  split_ifs
  · exact s.writeSource_sound value hs _ _
  · trivial
  · exact (s.writeSelector_standing value index).mono fun _ ht => hs.of_eq ht

theorem State.writeSteering_standing (index : Nat) :
    (s.writeSteering index value).Forall fun t => t.standing = s.standing := by
  unfold State.writeSteering; dsimp only; split <;> simp

theorem State.writeTimeSection_standing (index : Nat) :
    (s.writeTimeSection index value).Forall fun t => t.standing = s.standing := by
  unfold State.writeTimeSection
  split
  · exact forall_storeNum.mpr fun v _ => rfl
  · exact forall_storeNum.mpr fun v _ => rfl
  · trivial

theorem State.writePlans_standing (index : Nat) :
    (s.writePlans index value).Forall fun t => t.standing = s.standing := by
  unfold State.writePlans
  split
  · unfold State.writeMap
    split
    · trivial
    · split <;> trivial
  · split
    · exact forall_storeNat.mpr fun v _ => rfl
    · trivial

theorem State.writePorts_standing (index : Nat) :
    (s.writePorts index value).Forall fun t => t.standing = s.standing := by
  unfold State.writePorts
  split
  · unfold State.writePort; dsimp only; split <;> simp
  · trivial

theorem State.writeOutputs_standing (index : Nat) :
    (s.writeOutputs index value).Forall fun t => t.standing = s.standing := by
  unfold State.writeOutputs
  split_ifs
  · unfold State.writePulse; split <;> simp
  · unfold State.writeCoded; split <;> simp
  · trivial

theorem State.writeControl_standing (index : Nat) :
    (s.writeControl index value).Forall fun t => t.standing = s.standing := by
  unfold State.writeControl
  split
  · unfold State.writeNotice; split <;> simp
  · trivial

theorem State.writeAccess_standing (index : Nat) :
    (s.writeAccess index value).Forall fun t => t.standing = s.standing := by
  unfold State.writeAccess
  split_ifs
  · split <;> trivial
  · split <;> trivial
  · trivial

/-- Of the nine sections only SOURCES moves an entry, and it keeps the entries in line. -/
theorem State.storeEntry_sound (hs : EntriesSound s) (sect index : Nat) :
    (s.storeEntry sect index value).Forall EntriesSound := by
  have kept {x : Stored} (h : x.Forall fun t => t.standing = s.standing) : x.Forall EntriesSound :=
    h.mono fun _ ht => hs.of_eq ht
  unfold State.storeEntry
  split
  · exact kept (s.writeControl_standing value index)
  · exact s.writeSources_sound value hs index
  · exact kept (s.writeSteering_standing value index)
  · exact kept (s.writeTimeSection_standing value index)
  · exact kept (s.writePlans_standing value index)
  · exact kept (s.writePorts_standing value index)
  · exact kept (s.writeOutputs_standing value index)
  · exact kept (s.writeAccess_standing value index)
  · trivial

end EntryWrites

theorem EntriesSound.writeAs {s : State} (hs : EntriesSound s) (row : WriteRow) : EntriesSound (s.writeAs row) := by
  rcases s.writeAs_cases row with h | ⟨r, sect, index, value, -, -, h⟩ <;> rw [h]
  · exact hs
  · exact State.runWriteEntry_induct hs (s.storeEntry_sound value hs sect index)
      fun _ _ _ ht => ht.of_eq (State.respond_standing ..)

/-! ### Service reset (R183) -/

theorem SourceEntry.serviceReset_state_eq_disabled (n : SourceEntry) :
    n.serviceReset.state = .disabled ↔ n.state = .disabled := by
  unfold SourceEntry.serviceReset
  dsimp only
  split_ifs with h <;> simp [h]

theorem SourceEntry.serviceReset_timers (n : SourceEntry) :
    (n.serviceReset.retry.isSome = true ↔ n.serviceReset.state = .faulted) ∧
      (n.serviceReset.restore.isSome = true ↔ n.serviceReset.state = .usable) := by
  unfold SourceEntry.serviceReset PowerOn.sourceEntry
  dsimp only
  split_ifs <;> simp

/-- What an entry and its unit stand at when a block has taken its reset. -/
theorem BlockReset.entriesSound {s t : State} {b : ResetBlock} (h : BlockReset s b t) (hs : EntriesSound s) :
    EntriesSound t := by
  have hd (e : Ext) : t.selector.entries[e].state = .disabled ↔ s.selector.entries[e].state = .disabled := by
    have he := h.entry e
    split_ifs at he
    · rw [he]; exact SourceEntry.serviceReset_state_eq_disabled _
    · rcases he with he | he <;> rw [he]
  have hi (e : Ext) : t.unitIdle e = true ↔ s.selector.entries[e].state = .disabled := by
    refine Iff.trans ?_ (hs e).idle
    show t.unitIdle e = true ↔ s.unitIdle e = true
    rcases input_or_uplink e with ⟨u, rfl⟩ | ⟨u, rfl⟩
    · have hu := h.input u
      rw [State.unitIdle_inSource]
      split_ifs at hu
      · rw [hu, s.input_serviceReset_eq u]
        refine Iff.trans ?_ (hs (inSource u)).idle.symm
        show (if s.selector.entries[inSource u].state = .disabled then Tracker.idle else .seeking) = .idle ↔
          s.selector.entries[inSource u].state = .disabled
        split_ifs with hd
        · exact iff_of_true rfl hd
        · exact iff_of_false (fun h => nomatch h) hd
      · rw [State.unitIdle_inSource]
        rcases hu with hu | hu <;> rw [hu]
    · rw [State.unitIdle_upSource, State.unitIdle_upSource, h.uplink u]
      split_ifs <;> rfl
  intro e
  have he := h.entry e
  refine ⟨?_, ?_, (hi e).trans (hd e).symm⟩ <;> unfold State.standing <;> dsimp only <;> split_ifs at he
  · rw [he]; exact s.selector.entries[e].serviceReset_timers.1
  · rcases he with he | he <;> rw [he] <;> exact (hs e).retrying
  · rw [he]; exact s.selector.entries[e].serviceReset_timers.2
  · rcases he with he | he <;> rw [he] <;> exact (hs e).restoring

/-- However many blocks take their reset, the entries stay in line after each. -/
theorem EntriesSound.resetBlocks {s : State} (hs : EntriesSound s) (done blocks : List ResetBlock) :
    EntriesSound (s.resetBlocks done blocks).1 :=
  State.resetBlocks_induct (P := fun v _ => EntriesSound v) s done blocks hs
    fun v d b hv _ => (v.resetBlock_reset d b).entriesSound hv

theorem EntriesSound.checkedWrite {s k : State} (hs : EntriesSound s) (hk : EntriesSound k) (r : Running)
    (sect index : Nat) : EntriesSound (s.checkedWrite r sect index k) := by
  rcases s.checkedWrite_cases r sect index k with ⟨-, h⟩ | ⟨-, -, h⟩ | ⟨-, h⟩ <;> rw [h]
  · exact hs.of_eq (State.respond_standing ..)
  · exact hs.of_eq (State.respond_standing ..)
  · exact hk

theorem EntriesSound.runServiceReset {s : State} (hs : EntriesSound s) (r : Running) (blocks : List ResetBlock) :
    EntriesSound (s.runServiceReset r blocks) := by
  have hb := hs.resetBlocks r.resetTaken blocks
  have hgo : EntriesSound (if resetComplete (s.resetBlocks r.resetTaken blocks).2 then
      (s.resetBlocks r.resetTaken blocks).1.finishReset r
      else { (s.resetBlocks r.resetTaken blocks).1 with executor :=
        { (s.resetBlocks r.resetTaken blocks).1.executor with
          running := some { r with resetTaken := (s.resetBlocks r.resetTaken blocks).2 } } }) := by
    split
    · exact hb.of_eq rfl
    · exact hb.of_eq rfl
  unfold State.runServiceReset
  dsimp only
  split
  · exact hs.checkedWrite hgo r 1 0
  · exact hgo

/-! ### Every command -/

/-- A row of the executor keeps the entries in line when every command it accepts does. -/
theorem EntriesSound.onCommand {s : State} (hs : EntriesSound s) {f : Running → Command → Option State}
    (hf : ∀ r c t, f r c = some t → EntriesSound t) : EntriesSound (s.onCommand f) := by
  rcases s.onCommand_cases f with h | ⟨r, t, -, h, h'⟩
  · rw [h]; exact hs
  · rw [h']; exact hf r _ t h

/-- An input unit takes a step only while its entry is enabled, and its tracker runs on (R38). -/
theorem EntriesSound.startSequence {s : State} (hs : EntriesSound s) {u : InUnit} (h : s.inputEnabled u = true) :
    EntriesSound (s.modInput u InputUnit.startSequence) := by
  have hi := hs.unitIdle_eq_false (e := inSource u) (by simpa [State.inputEnabled] using h)
  rw [State.unitIdle_inSource_eq, decide_eq_false_iff_not] at hi
  exact hs.of_eq (State.modInput_standing (iff_of_false (fun h => nomatch h) hi))

/-- A tick leaves every unit's tracker and every entry (R2). -/
@[simp] theorem State.tick_standing (s : State) : s.tick.standing = s.standing := by
  have hi (e : Ext) : s.tick.unitIdle e = s.unitIdle e := by
    rcases input_or_uplink e with ⟨u, rfl⟩ | ⟨u, rfl⟩
    · rw [Bool.eq_iff_iff, State.unitIdle_inSource, State.unitIdle_inSource, State.tick_getElem_inputs,
        InputUnit.tick_tracker]
    · rw [State.unitIdle_upSource_eq, State.unitIdle_upSource_eq, State.tick_uplinks]
  funext e
  unfold State.standing
  rw [hi, State.tick_selector]

@[simp] theorem State.applyStep_standing (s : State) (o : StepOrigin) (d : Int) (x : Elapsed) :
    (s.applyStep o d x).standing = s.standing := rfl

@[simp] theorem State.runStepTime_standing (s : State) (r : Running) (sec ns : Int) (x : Elapsed) :
    (s.runStepTime r sec ns x).standing = s.standing := by
  obtain ⟨v, st, p, h, rfl | rfl⟩ := s.runStepTime_cases r sec ns x <;> rw [h] <;> rfl

theorem EntriesSound.powerOn (strap : Level) (ups : Vector LinkLevel 2) (links : Vector LinkLevel 6)
    (pending : List Instr) : EntriesSound (State.powerOn strap ups links pending) :=
  entriesSound_iff.mpr ⟨powerOn_timersSound _ _ _ _, powerOn_unitsSound _ _ _ _⟩

/-- Every command keeps the entries' timers and units in line. -/
theorem exec_entriesSound {c : Instr} {s t : State} (hs : EntriesSound s) (h : exec c s = .next t) :
    EntriesSound t := by
  cases c
  case powerOnReset strap ups links => cases h; exact .powerOn strap ups links _
  case rateWordTaken | stepRequestApplied =>
    simp only [exec, execRateWordTaken, execStepRequestApplied] at h
    split at h <;> cases h <;> exact hs.of_eq rfl
  case rateLimitWrite | pairingModeWrite | autoRateArmWrite | sourceEnable | sourceDisable |
      autoUpgradeWrite | programmedClassWrite | steeringOptionsWrite | portMapWrite | epochLengthWrite |
      portEnable | portDisable | writeEntry | accessTableWrite | guardEntryWrite | noticeMaskWrite |
      nestModeWrite =>
    cases h; exact hs.writeAs _
  case serviceReset blocks =>
    cases h
    refine hs.onCommand fun r c t hf => ?_
    split at hf <;> cases hf
    exact hs.runServiceReset r blocks
  case switchSource =>
    cases h
    refine hs.onCommand fun r c t hf => ?_
    split at hf <;> cases hf
    exact hs.of_eq (State.runSwitchSource_standing hs r _)
  case readTime | stepTime | discardFallback | armPlan | disarmPlan | clearPortFlags | readEntry |
      lockAccess | linkReset | takeNotice | endService | peekFault | popFault | clearFaultOverflow =>
    cases h
    refine hs.onCommand fun r c t hf => ?_
    split at hf <;> cases hf
    exact hs.of_eq (by simp)
  -- rows without a branch of their own
  case oscillatorTick | pulseEdge | pairingWindowEnd | uplinkCycleStart |
      steeringCycleStart | portCycleStart | portLinkDown | portLinkUp | pulseFall |
      responseDelivered | commandFrameReceived | selectReleased =>
    cases h; exact hs.of_eq (by simp)
  case uplinkLinkDown u => cases h; exact hs.of_eq (State.modUplink_standing (UplinkUnit.linkDown_running _))
  case uplinkLinkUp u => cases h; exact hs.of_eq (State.modUplink_standing rfl)
  -- rows that do nothing unless their event is there
  case answerEntryExpiry | autoRateMeasurement | breakDetected | breakEnd | codedDueTime | codedOutputStep |
      codedTransmissionDone | cycleCut | cycleStart | descriptorRequestDone | falseStart | faultOffered |
      framingError | holdoverExpiry | measuredLeadEnd | noticeCycleStart | noticeLatch | noticeSlotStart |
      portUnexpectedFrame | pulseOutputStep | pulseRiseTime | pulseWindowMiss |
      queryLost | queryReceived | receiveFallingEdge | selectAsserted |
      selectorStep | slotStart | steeringStepAnnouncement |
      uplinkMark | uplinkQuerySlot | uplinkReply | uplinkStateMark | uplinkUnexpectedFrame =>
    cases h; refine hs.of_eq ?_
    split <;> simp
  -- rows whose event, when it is there, is taken in one of two ways
  case portCut | portSlotStart | steeringPhaseEvent | uplinkStep |
      characterReceived | steeringSelectExternal | steeringSelectLocal | commandGrant =>
    cases h; refine hs.of_eq ?_
    split
    any_goals rfl
    split <;> simp
  case portCompletionReport =>
    cases h; refine hs.of_eq ?_
    split
    · rfl
    · exact (State.judgeCycle_standing _).trans rfl
  case requestTimerExpiry =>
    cases h; refine hs.of_eq ?_
    split_ifs <;> simp
  case markDeparture | replyDeparture =>
    cases h; refine hs.of_eq ?_
    split
    · split
      · split <;> simp
      · rfl
    · rfl
  -- rows of the selector that move entries
  case selectorCycleStart => cases h; exact hs.selectorCycle
  case retryTimerExpiry =>
    cases h
    split
    · exact hs.selectorCycle
    · exact hs
  case selectorPulseReport =>
    cases h
    split
    · exact (hs.of_eq (State.modFlight_standing _ _)).takeReport _
    · exact hs
  case selectorPhaseEvent =>
    cases h
    split
    · exact (hs.of_eq (State.modFlight_standing _ _)).takePhase _ _
    · exact hs
  case excursionReport =>
    cases h
    split
    · exact hs
    · dsimp only
      split
      · next hu =>
        refine (hs.of_eq (State.modFlight_standing _ _)).faultEntry ?_ _
        rw [of_decide_eq_true hu]
        decide
      · exact hs.of_eq (State.modFlight_standing _ _)
  case inputUnitStep =>
    cases h
    split
    · exact hs
    · dsimp only
      split_ifs with he
      · exact (hs.of_eq (State.modFlight_standing _ _)).startSequence he
      · exact hs.of_eq (State.modFlight_standing _ _)

/-- Settles O8: the entries are in line when their timers and their units are, and every command keeps both. -/
theorem entriesStaySound : Obligations.EntriesStaySound := by
  intro s t ht hu h
  have hs : EntriesSound s := entriesSound_iff.mpr ⟨ht, hu⟩
  refine entriesSound_iff.mp ?_
  rcases step_cases h with ⟨-, rfl⟩ | ⟨c, rest, -, h'⟩
  · exact hs
  · exact exec_entriesSound (s := { s with pending := rest }) (hs.of_eq rfl) h'

end Sys2Proof.Machine

/-! SUPPORT. An entry enabled and disabled (R65): what its unit takes, the failure switch and the tests that
follow. -/

namespace Sys2Proof.Machine

open Sys2Proof.Config Sys2Proof.Safety

/-! ### The unit of an entry, by the entry's number -/

theorem State.modInputOf_eq_dite (s : State) (e : Ext) (f : InputUnit → InputUnit) :
    s.modInputOf e f = { s with
      inputs := if h : e.val < 2 then s.inputs.set e.val (f s.inputs[e.val]) else s.inputs } := by
  unfold State.modInputOf inputOf
  by_cases h : e.val < 2
  · simp only [dif_pos h]; rfl
  · simp only [dif_neg h]

theorem State.modUplinkOf_eq_dite (s : State) (e : Ext) (f : UplinkUnit → UplinkUnit) :
    s.modUplinkOf e f = { s with
      uplinks := if h : 2 ≤ e.val then s.uplinks.set (e.val - 2) (f s.uplinks[e.val - 2]) else s.uplinks } := by
  unfold State.modUplinkOf uplinkOf
  by_cases h : 2 ≤ e.val
  · simp only [dif_pos h]; rfl
  · simp only [dif_neg h]

/-! ### The entry and its unit switched off -/

/-- The entry DISABLED, its stack entry removed and its unit stopped, nothing yet selected in its place. -/
def stoppedSource (s : State) (e : Ext) : State :=
  { s with
    selector := { s.selector with
      entries := s.selector.entries.set e
        { s.selector.entries[e] with
          state := .disabled, goodRun := 0, missRun := 0, learned := 0, learnedCount := 0
          retry := none, restore := none, descriptor := none }
      stack := s.selector.stack.filter fun t => decide (t.source ≠ e) }
    inputs := if h : e.val < 2 then s.inputs.set e.val s.inputs[e.val].stop else s.inputs
    uplinks := if h : 2 ≤ e.val then s.uplinks.set (e.val - 2) s.uplinks[e.val - 2].stop else s.uplinks }

theorem State.switchOff_eq (s : State) (e : Ext) :
    s.switchOff e = if s.selector.selected = toSource e then (stoppedSource s e).failureSwitch
      else stoppedSource s e := by
  unfold State.switchOff
  dsimp only
  rw [State.modUplinkOf_eq_dite, State.modInputOf_eq_dite]
  rfl

theorem stoppedSource_state (s : State) (e : Ext) : (stoppedSource s e).selector.entries[e].state = .disabled := by
  unfold stoppedSource
  simp

/-- A selected source switched off is left for the best-ranked USABLE source, or for LOCAL, without a push. -/
theorem State.failureSwitch_stoppedSource {s : State} {e : Ext} (h : s.selector.selected = toSource e) :
    let off := stoppedSource s e
    ∃ target : Source,
      ((target = localSource ∧ ∀ a : Ext, off.selector.entries[a].state ≠ .usable) ∨
        ∃ b, target = toSource b ∧ RanksFirst off (fun a => off.selector.entries[a].state = .usable) b) ∧
      off.failureSwitch = selecting off.maskOptions target (optionsFor off.maskOptions target) := by
  intro off
  have other {target : Source} (ht : target ≠ toSource e) : off.maskOptions.selectSource target =
      selecting off.maskOptions target (optionsFor off.maskOptions target) :=
    (off.maskOptions.selectSource_eq target).trans (if_neg (by rw [← h] at ht; exact ht))
  rcases off.failureSwitch_cases with ⟨hf, hn⟩ | ⟨b, hb, hf⟩
  · exact ⟨localSource, .inl ⟨rfl, hn⟩, hf.trans (other (toSource_ne_local e).symm)⟩
  · refine ⟨toSource b, .inr ⟨b, rfl, hb⟩, hf.trans (other fun he => ?_)⟩
    have hbe : b = e := by simpa [toSource, Fin.ext_iff] using he
    have hu := hb.1
    rw [hbe, stoppedSource_state] at hu
    exact nomatch hu

/-! ### The write of the enabled field -/

/-- A permitted write of the enabled field enables, disables, or is refused; its answer reads the state back. -/
theorem exec_enabledWrite {c : Instr} {row : WriteRow} {s : State} {r : Running} {e : Ext} {value : List Byte}
    (hc : exec c s = .next (s.writeAs row)) (hrow : enabledRow .sourceEnable .sourceDisable value = row)
    (hv : Runs s r (.writeEntry 2 (32 * e.val) value)) (hp : Permitted s r 2 (32 * e.val)) :
    exec c s = .next (match storeEnum 2 value fun n => if n = 1 then s.enableSource e else s.disableSource e with
      | .readOnly => s.respond r .refused []
      | .refuse st => s.respond r st []
      | .store t clamped => t.respond r (if clamped then .okClamped else .ok)
          (encBool (decide (t.selector.entries[e].state ≠ .disabled)))) := by
  have hread (t : State) : t.readEntry 2 (32 * e.val) 0 =
      some (encBool (decide (t.selector.entries[e].state ≠ .disabled))) :=
    t.readEntry_source e (off := 0) (by decide) 0
  have hw : writeRow 2 (32 * e.val) value = row := (writeRow_source e (off := 0) (by decide) value).trans hrow
  rw [hc, State.writeAs_of_runs hv hw, State.runWriteEntry_of_mayWrite ⟨.inl hp.1, hp.2⟩ (by decide)
    (by rw [hread]; exact Option.some_ne_none _)]
  have hs : s.storeEntry 2 (32 * e.val) value =
      storeEnum 2 value fun n => if n = 1 then s.enableSource e else s.disableSource e :=
    s.storeEntry_source e (off := 0) (by decide) value
  rw [hs]
  unfold State.valueAt
  simp only [hread, Option.getD_some]
  rfl

theorem exec_sourceEnable {s : State} {r : Running} {e : Ext}
    (hv : Runs s r (.writeEntry 2 (32 * e.val) [1#8])) (hp : Permitted s r 2 (32 * e.val)) :
    exec .sourceEnable s = .next ((s.enableSource e).respond r .ok
      (encBool (decide ((s.enableSource e).selector.entries[e].state ≠ .disabled)))) :=
  exec_enabledWrite (row := .sourceEnable) rfl rfl hv hp

theorem exec_sourceDisable {s : State} {r : Running} {e : Ext}
    (hv : Runs s r (.writeEntry 2 (32 * e.val) [0#8])) (hp : Permitted s r 2 (32 * e.val)) :
    exec .sourceDisable s = .next ((s.disableSource e).respond r .ok
      (encBool (decide ((s.disableSource e).selector.entries[e].state ≠ .disabled)))) :=
  exec_enabledWrite (row := .sourceDisable) rfl rfl hv hp

/-- A value that is neither NO nor YES is refused (R178). -/
theorem exec_enabledWrite_bad {s : State} {r : Running} {e : Ext} {value : List Byte} (h0 : value ≠ [0#8])
    (h1 : value ≠ [1#8]) (hv : Runs s r (.writeEntry 2 (32 * e.val) value)) (hp : Permitted s r 2 (32 * e.val)) :
    exec .writeEntry s = .next (s.respond r .badValue []) := by
  have hrow : enabledRow .sourceEnable .sourceDisable value = .writeEntry :=
    (if_neg h1).trans (if_neg h0)
  have hbad (f : Nat → State) : storeEnum 2 value f = .refuse .badValue := by
    unfold storeEnum
    split
    · next b =>
      refine if_neg fun hb => ?_
      have hb' : b.toNat = 0 ∨ b.toNat = 1 := by omega
      rcases hb' with hb' | hb'
      · exact h0 (congrArg (· :: []) (BitVec.eq_of_toNat_eq hb'))
      · exact h1 (congrArg (· :: []) (BitVec.eq_of_toNat_eq hb'))
    · rfl
  rw [exec_enabledWrite (row := .writeEntry) rfl hrow hv hp, hbad]

/-! ### Enabling (R65) -/

/-- A DISABLED entry enabled is ABSENT, and its unit starts. -/
theorem State.enableSource_of_disabled {s : State} {e : Ext} (h : s.selector.entries[e].state = .disabled) :
    s.enableSource e = { s with
      selector := { s.selector with
        entries := s.selector.entries.set e
          { s.selector.entries[e] with
            state := .absent, goodRun := 0, missRun := 0, learned := 0, learnedCount := 0
            retry := none, restore := none } }
      inputs := if h : e.val < 2 then s.inputs.set e.val s.inputs[e.val].start else s.inputs
      uplinks := if h : 2 ≤ e.val then s.uplinks.set (e.val - 2) s.uplinks[e.val - 2].start else s.uplinks } := by
  unfold State.enableSource
  rw [if_pos h, State.modUplinkOf_eq_dite, State.modInputOf_eq_dite]
  rfl

theorem State.enableSource_state_of_disabled {s : State} {e : Ext}
    (h : s.selector.entries[e].state = .disabled) : (s.enableSource e).selector.entries[e].state = .absent := by
  rw [State.enableSource_of_disabled h]
  simp

/-! ### Disabling (R65) -/

theorem State.disableSource_state {s : State} {e : Ext} (h : s.selector.entries[e].state ≠ .disabled) :
    (s.disableSource e).selector.entries[e].state = .disabled := by
  have hs := congrFun (State.disableSource_standing h) e
  rw [State.switchOff_standing, if_pos rfl] at hs
  exact congrArg Standing.state hs

/-- Settles O30: the failure switch of `State.switchOff`, then the tests of `State.disableSource`. -/
theorem enableAndDisableSource : Obligations.EnableAndDisableSource := by
  refine ⟨fun s r e hv hp => ⟨fun hn => ?_, fun hn => ?_⟩, fun s r e hv hp => ⟨fun hn => ?_, fun hn => ?_⟩,
    fun s r e value h0 h1 hv hp => exec_enabledWrite_bad h0 h1 hv hp⟩
  · have hk : s.enableSource e = s := if_neg hn
    rw [exec_sourceEnable hv hp, hk, decide_eq_true hn]
    rfl
  · rw [exec_sourceEnable hv hp, State.enableSource_state_of_disabled hn, State.enableSource_of_disabled hn]
    rfl
  · have hk : s.disableSource e = s := if_pos hn
    rw [exec_sourceDisable hv hp, hk, hn]
    rfl
  · obtain ⟨judged, hj, hrev, hkeep⟩ := State.disableSource_cases hn
    refine ⟨s.switchOff e, judged, s.disableSource e, ?_, fun h => ?_, fun h => ?_, hj, hrev, hkeep⟩
    · rw [exec_sourceDisable hv hp, State.disableSource_state hn]
      rfl
    · exact (s.switchOff_eq e).trans (if_neg h)
    · obtain ⟨target, ht, hf⟩ := State.failureSwitch_stoppedSource h
      exact ⟨target, ht, (s.switchOff_eq e).trans ((if_pos h).trans hf)⟩

end Sys2Proof.Machine

/-! SUPPORT. Pulse reports and phase events by the state of their entry (R66 to R70): one equation per state,
report and validity. -/

namespace Sys2Proof.Machine

open Sys2Proof.Config Sys2Proof.Safety

/-! ### An entry changed -/

theorem State.modEntry_entries_self (s : State) (e : Ext) (f : SourceEntry → SourceEntry) :
    (s.modEntry e f).selector.entries[e] = f s.selector.entries[e] := by
  simp

theorem State.modEntry_modEntry (s : State) (e : Ext) (f g : SourceEntry → SourceEntry) :
    (s.modEntry e f).modEntry e g = s.modEntry e fun n => g (f n) := by
  have hset (a b : SourceEntry) : (s.selector.entries.set e a).set e b = s.selector.entries.set e b :=
    Vector.set_set ..
  unfold State.modEntry
  simp only [hset]
  simp

/-- A fault clears the miss run, whatever it was. -/
theorem State.faultEntry_setMissRun (s : State) (e : Ext) (cause : Cause) (run : Nat) :
    (s.modEntry e fun n => { n with missRun := run }).faultEntry e cause = s.faultEntry e cause := by
  unfold State.faultEntry
  rw [State.modEntry_modEntry]
  rfl

/-- TRIAL, USABLE and FAULTED: the states in which reports and events are heard as they come (R67). -/
def SourceState.Heard (st : SourceState) : Prop :=
  st ≠ .disabled ∧ st ≠ .absent

theorem SourceState.Heard.of_eq {st st' : SourceState} (h : st = st')
    (hs : st' ≠ .disabled ∧ st' ≠ .absent := by decide) : st.Heard :=
  h ▸ hs

/-! ### Pulse reports (R66, R67) -/

section Reports

variable {s : State} {e : Ext}

theorem exec_selectorPulseReport {k : ReportKind} {rest : List UnitEvent}
    (h : s.flight.toSelector[e] = .report k :: rest) :
    exec (.selectorPulseReport e) s = .next
      ((s.modFlight fun f => { f with toSelector := f.toSelector.set e rest }).takeReport e k) := by
  show execSelectorPulseReport e s = _
  unfold execSelectorPulseReport
  rw [h]

theorem State.takeReport_of_disabled (h : s.selector.entries[e].state = .disabled) (k : ReportKind) :
    s.takeReport e k = s := by
  unfold State.takeReport
  rw [h]

theorem State.takeReport_of_heard (h : s.selector.entries[e].state.Heard) (k : ReportKind) :
    s.takeReport e k = s.heardReport e k := by
  obtain ⟨hd, ha⟩ := h
  unfold State.takeReport
  cases hs : s.selector.entries[e].state with
  | disabled => exact absurd hs hd
  | absent => exact absurd hs ha
  | trial | usable | faulted => rfl

theorem State.intoTrial_state (s : State) (e : Ext) : (intoTrial s e).selector.entries[e].state = .trial := by
  rw [← State.enterTrial_eq, State.enterTrial_state]

/-- An ACCEPTED or STRAY report of an ABSENT entry is one of a TRIAL entry. -/
theorem State.takeReport_of_absent (h : s.selector.entries[e].state = .absent) {k : ReportKind}
    (hk : k ≠ .miss) : s.takeReport e k = (intoTrial s e).takeReport e k := by
  rw [State.takeReport_of_heard (.of_eq (s.intoTrial_state e)), ← State.enterTrial_eq]
  unfold State.takeReport
  rw [h]
  cases k with
  | miss => exact absurd rfl hk
  | accepted | stray => rfl

/-- A MISS of an ABSENT or FAULTED entry is counted, and no run with it. -/
theorem State.takeReport_miss_counted
    (h : s.selector.entries[e].state = .absent ∨ s.selector.entries[e].state = .faulted) :
    s.takeReport e .miss = s.modEntry e fun n => { n with misses := n.misses + 1 } := by
  rcases h with h | h
  · unfold State.takeReport
    rw [h]
  · exact (State.takeReport_of_heard (.of_eq h) .miss).trans (if_pos h)

/-- A MISS of a TRIAL or USABLE entry counts in the run, and the run that reaches the limit faults. -/
theorem State.takeReport_miss_run
    (h : s.selector.entries[e].state = .trial ∨ s.selector.entries[e].state = .usable) :
    let run := min 10 (s.selector.entries[e].missRun + 1)
    s.takeReport e .miss =
      if s.selector.settings.missLimit ≤ run then
        (s.modEntry e fun n => { n with misses := n.misses + 1 }).faultEntry e .loss
      else s.modEntry e fun n => { n with misses := n.misses + 1, missRun := run } := by
  intro run
  have hh : s.selector.entries[e].state.Heard := h.elim .of_eq .of_eq
  have hf : s.selector.entries[e].state ≠ .faulted := by rcases h with h | h <;> rw [h] <;> decide
  rw [State.takeReport_of_heard hh]
  unfold State.heardReport
  dsimp only
  rw [if_neg hf, State.faultEntry_setMissRun, State.modEntry_modEntry]

end Reports

/-! ### BAD events (R68 to R70) -/

section PhaseEvents

variable {s : State} {e : Ext} {ev : PhaseEvent}

theorem exec_selectorPhaseEvent {rest : List UnitEvent} (h : s.flight.toSelector[e] = .phase ev :: rest) :
    exec (.selectorPhaseEvent e) s = .next
      ((s.modFlight fun f => { f with toSelector := f.toSelector.set e rest }).takePhase e ev) := by
  show execSelectorPhaseEvent e s = _
  unfold execSelectorPhaseEvent
  rw [h]

theorem State.takePhase_of_disabled (h : s.selector.entries[e].state = .disabled) (ev : PhaseEvent) :
    s.takePhase e ev = s := by
  unfold State.takePhase
  rw [h]

/-- A phase event of an ABSENT entry is one of a TRIAL entry (R66). -/
theorem State.takePhase_of_absent (h : s.selector.entries[e].state = .absent) (ev : PhaseEvent) :
    s.takePhase e ev = (intoTrial s e).takePhase e ev := by
  have ht := s.intoTrial_state e
  unfold State.takePhase
  simp only [h, ht, State.enterTrial_eq, if_true, reduceCtorEq, if_false]

/-- A BAD event is handled by the entry's state, and nothing is handed on. -/
theorem State.takePhase_bad (h : s.selector.entries[e].state.Heard) {cause : BadCause}
    (hv : ev.validity = .bad cause) : s.takePhase e ev = s.takeBad e cause := by
  unfold State.takePhase
  split
  · next hd => exact absurd hd h.1
  · simp only [if_neg h.2, hv]

/-- A GOOD event is handled by the entry's state, and handed on when its source is then selected and USABLE. -/
theorem State.takePhase_good (h : s.selector.entries[e].state.Heard) {c x : Int}
    (hv : ev.validity = .good c x) :
    s.takePhase e ev =
      if (s.takeGood e c).selector.selected = toSource e ∧ (s.takeGood e c).isUsable e = true then
        (s.takeGood e c).modFlight fun f => { f with goodEvents := f.goodEvents ++ [ev] }
      else s.takeGood e c := by
  unfold State.takePhase
  split
  · next hd => exact absurd hd h.1
  · simp only [if_neg h.2, hv]

theorem State.takeBad_of_trial (h : s.selector.entries[e].state = .trial) (cause : BadCause) :
    s.takeBad e cause = s.modEntry e fun n => { n with bad := n.bad + 1, goodRun := 0 } := by
  unfold State.takeBad
  dsimp only
  rw [State.modEntry_entries_self, h, State.modEntry_modEntry]

theorem State.takeBad_of_faulted (h : s.selector.entries[e].state = .faulted) (cause : BadCause) :
    s.takeBad e cause = s.modEntry e fun n => { n with bad := n.bad + 1 } := by
  unfold State.takeBad
  dsimp only
  rw [State.modEntry_entries_self, h]

theorem State.takeBad_of_usable (h : s.selector.entries[e].state = .usable) (cause : BadCause) :
    s.takeBad e cause =
      let counted := s.modEntry e fun n => { n with bad := n.bad + 1 }
      match cause with
      | .secondsJump => counted.faultEntry e .secondsJump
      | .unlockedReceiver => counted.faultEntry e .unlockedReceiver
      | .unpaired | .badDelayAbsent => counted := by
  unfold State.takeBad
  dsimp only
  rw [State.modEntry_entries_self, h]
  cases cause <;> rfl

/-! ### GOOD events (R68 to R70) -/

theorem State.takeGood_of_not_trial (h : s.selector.entries[e].state ≠ .trial) (c : Int) :
    s.takeGood e c = s.modEntry e fun n => { n.learn c with good := n.good + 1 } := by
  unfold State.takeGood
  dsimp only
  split
  · next ht =>
    rw [State.modEntry_entries_self] at ht
    exact absurd ht h
  · rw [State.modEntry_modEntry]
    rfl

/-- A GOOD event of an entry in TRIAL is held in disagreement, or counts in the run, which then qualifies or
does not. -/
theorem State.takeGood_of_trial (h : s.selector.entries[e].state = .trial) (c : Int) :
    let n := s.selector.entries[e]
    let run := s.modEntry e fun n => { n.learn c with good := n.good + 1, goodRun := n.goodRun + 1 }
    s.takeGood e c =
      if (s.modEntry e fun n => n.learn c).disagrees e = true then
        s.modEntry e fun n => { n.learn c with bad := n.bad + 1, goodRun := 0 }
      else if s.selector.settings.qualify ≤ n.goodRun + 1 then run.becomeUsable e
      else run := by
  intro n run
  have hl : (n.learn c).state = .trial := h
  unfold State.takeGood
  dsimp only
  rw [State.modEntry_entries_self, hl]
  dsimp only
  rw [State.modEntry_modEntry, State.modEntry_modEntry, State.modEntry_entries_self]
  rfl

/-- The disagreement of R69, the learned offset already updated. -/
theorem State.disagrees_iff : s.disagrees e = true ↔
    s.steering.state = .locked ∧ s.selector.selected ≠ toSource e ∧
      8 ≤ s.selector.entries[e].learnedCount ∧
      s.selector.settings.disagreement < (s.selector.entries[e].learned.natAbs : Int) := by
  unfold State.disagrees
  simp only [Bool.and_eq_true, decide_eq_true_eq, and_assoc]

/-- However the tests after it come out, the entry that qualified stays USABLE. -/
theorem State.becomeUsable_isUsable (s : State) (e : Ext) : (s.becomeUsable e).isUsable e = true := by
  have hst : (s.becomeUsable e).standing =
      (s.modEntry e fun n => { n with state := .usable, restore := some 0 }).standing := by
    refine Eq.trans ?_ (State.leaveTrial_standing _ e)
    unfold State.becomeUsable
    dsimp only
    split_ifs <;> simp
  unfold State.isUsable
  rw [decide_eq_true_iff, State.state_eq_of_standing hst, State.modEntry_entries_self]

/-- A GOOD event that leaves its source unselected, or its entry short of USABLE, is not handed on. -/
theorem State.takePhase_good_kept (h : s.selector.entries[e].state.Heard) {c x : Int}
    (hv : ev.validity = .good c x)
    {f : SourceEntry → SourceEntry} (ht : s.takeGood e c = s.modEntry e f)
    (hk : s.selector.selected ≠ toSource e ∨ (f s.selector.entries[e]).state ≠ .usable) :
    s.takePhase e ev = s.modEntry e f := by
  rw [State.takePhase_good h hv, ht, if_neg]
  rintro ⟨hs, hu⟩
  rw [State.isUsable, State.modEntry_entries_self, decide_eq_true_iff] at hu
  exact hk.elim (· hs) (· hu)

/-- A GOOD event that leaves its entry USABLE is handed on while its source is then selected. -/
theorem State.takePhase_good_usable (h : s.selector.entries[e].state.Heard) {c x : Int}
    (hv : ev.validity = .good c x)
    (hu : (s.takeGood e c).isUsable e = true) :
    s.takePhase e ev =
      if (s.takeGood e c).selector.selected = toSource e then
        (s.takeGood e c).modFlight fun f => { f with goodEvents := f.goodEvents ++ [ev] }
      else s.takeGood e c := by
  rw [State.takePhase_good h hv]
  exact if_congr (and_iff_left hu) rfl rfl

end PhaseEvents

/-! ### Faults and qualification as the statements say them (R69, R72) -/

/-- An outcome that faults an entry, as the statements tell a source that is not selected from one that is. -/
theorem faultEntry_outcome {o : Host.Outcome State Fault Refusal} {v : State} {e : Ext} {cause : Cause}
    (h : o = .next (v.faultEntry e cause)) :
    (v.selector.selected ≠ toSource e → o = .next (faulted v e (causeCode cause))) ∧
    (v.selector.selected = toSource e → ∃ t, FaultedAndLeft v e (causeCode cause) cause t ∧ o = .next t) :=
  ⟨fun hs => by rw [h, State.faultEntry_of_not_selected hs],
    fun hs => ⟨_, State.faultEntry_of_selected hs, h⟩⟩

/-- What a qualified entry starts from: USABLE with its restore timer at 0, its request timer stopped (R34). -/
theorem State.leaveTrial_modEntry_modEntry (s : State) (e : Ext) (f g : SourceEntry → SourceEntry) :
    ((s.modEntry e f).modEntry e g).leaveTrial e =
      { s.modEntry e fun n => g (f n) with
        inputs := if h : e.val < 2 then s.inputs.set e.val { s.inputs[e.val] with requestTimer := none }
          else s.inputs } := by
  rw [State.leaveTrial, State.modEntry_modEntry, State.modInputOf_eq_dite]
  rfl

/-- The GOOD event that ends the run leaves its entry USABLE, the tests after it made, and is handed on when
its source is then selected. -/
theorem State.takePhase_qualified {s : State} {e : Ext} {ev : PhaseEvent} {c x : Int}
    (hs : s.selector.entries[e].state = .trial) (hv : ev.validity = .good c x)
    (hd : ¬(s.modEntry e fun n => n.learn c).disagrees e = true)
    (hq : s.selector.settings.qualify ≤ s.selector.entries[e].goodRun + 1) :
    let v : State :=
      { s.modEntry e fun n =>
          { n.learn c with
            good := n.good + 1, goodRun := n.goodRun + 1, state := .usable, restore := some 0 } with
        inputs := if h : e.val < 2 then s.inputs.set e.val { s.inputs[e.val] with requestTimer := none }
          else s.inputs }
    let top (z : State) : Prop := ∃ d rest, z.selector.stack = d :: rest ∧ d.source = e
    let t := s.takeGood e c
    ∃ w,
      (s.selector.selected = localSource →
        ∃ b, RanksFirst v (fun a => v.selector.entries[a].state = .usable) b ∧
          w = selecting v (toSource b) (optionsFor v (toSource b))) ∧
      (s.selector.selected ≠ localSource → UpgradeTested v w) ∧
      (top v ∧ top w → RevertTested w t) ∧
      (¬(top v ∧ top w) → t = w) ∧
      s.takePhase e ev = if t.selector.selected = toSource e then
          t.modFlight fun f => { f with goodEvents := f.goodEvents ++ [ev] }
        else t := by
  intro v top t
  have ht : t = (s.modEntry e fun n =>
      { n.learn c with good := n.good + 1, goodRun := n.goodRun + 1 }).becomeUsable e :=
    (State.takeGood_of_trial hs c).trans ((if_neg hd).trans (if_pos hq))
  have hu : t.isUsable e = true := by
    rw [ht]
    exact State.becomeUsable_isUsable _ e
  obtain ⟨w, hw⟩ := State.becomeUsable_cases
    (s.modEntry e fun n => { n.learn c with good := n.good + 1, goodRun := n.goodRun + 1 }) e
  rw [State.leaveTrial_modEntry_modEntry, ← ht] at hw
  obtain ⟨hlocal, hext, hrev, hkeep⟩ := hw
  exact ⟨w, hlocal, hext, hrev, hkeep, State.takePhase_good_usable (.of_eq hs) hv hu⟩

/-- Settles O31: the equations of `State.takeReport` and `State.takePhase`, one per state of the entry. -/
theorem selectorEventsByState : Obligations.SelectorEventsByState := by
  refine ⟨fun s e k rest h => ?_, fun s e ev rest h => ?_⟩
  · intro taken n becomes run
    have hx : exec (.selectorPulseReport e) s = .next (taken.takeReport e k) := exec_selectorPulseReport h
    have becomes_of {f : SourceEntry → SourceEntry} (hf : taken.takeReport e k = taken.modEntry e f) :
        becomes (f n) := by
      show exec (.selectorPulseReport e) s = _
      rw [hx, hf]
      rfl
    refine ⟨fun hd => ?_, fun hd ha => ⟨fun hk => ?_, fun hk => ?_⟩, fun hk => ⟨fun hs => ?_, fun hs => ?_⟩,
      fun ha hk => ?_⟩
    · refine becomes_of (f := id) (Eq.trans ?_ (State.modEntry_of_fixed (s := taken) rfl).symm)
      exact State.takeReport_of_disabled (s := taken) hd k
    · subst hk
      exact becomes_of (f := fun n => { n with missRun := 0 })
        (State.takeReport_of_heard (s := taken) ⟨hd, ha⟩ _)
    · subst hk
      exact becomes_of (f := fun n => { n with strays := n.strays + 1 })
        (State.takeReport_of_heard (s := taken) ⟨hd, ha⟩ _)
    · subst hk
      exact becomes_of (f := fun n => { n with misses := n.misses + 1 })
        (State.takeReport_miss_counted (s := taken) hs)
    · subst hk
      have counted := State.takeReport_miss_run (s := taken) hs
      refine ⟨fun hlt => ?_, fun hle => ?_⟩
      · exact becomes_of (f := fun n => { n with misses := n.misses + 1, missRun := run })
          (counted.trans (if_neg (Nat.not_le.mpr hlt)))
      · exact faultEntry_outcome (cause := .loss) (hx.trans (congrArg _ (counted.trans (if_pos hle))))
    · rw [hx, exec_selectorPulseReport (s := intoTrial s e) (k := k) (rest := rest) h,
        State.takeReport_of_absent (s := taken) ha hk]
      rfl
  · intro taken n becomes bad
    have hx : exec (.selectorPhaseEvent e) s = .next (taken.takePhase e ev) := exec_selectorPhaseEvent h
    have becomes_of {f : SourceEntry → SourceEntry} (hf : taken.takePhase e ev = taken.modEntry e f) :
        becomes (f n) := by
      show exec (.selectorPhaseEvent e) s = _
      rw [hx, hf]
      rfl
    refine ⟨fun hd => ?_, fun ha => ?_, fun cause hv => ?_, fun c x hv => ?_⟩
    · refine becomes_of (f := id) (Eq.trans ?_ (State.modEntry_of_fixed (s := taken) rfl).symm)
      exact State.takePhase_of_disabled (s := taken) hd ev
    · rw [hx, exec_selectorPhaseEvent (s := intoTrial s e) (ev := ev) (rest := rest) h,
        State.takePhase_of_absent (s := taken) ha]
      rfl
    · have heard (hh : n.state.Heard) : taken.takePhase e ev = taken.takeBad e cause :=
        State.takePhase_bad (s := taken) hh hv
      refine ⟨fun hs => ?_, fun hs => ?_, fun hs hc => ?_, fun code as hc hs => ?_⟩
      · exact becomes_of (f := fun n => { n with bad := n.bad + 1, goodRun := 0 })
          ((heard (.of_eq hs)).trans (State.takeBad_of_trial (s := taken) hs cause))
      · exact becomes_of (f := fun n => { n with bad := n.bad + 1 })
          ((heard (.of_eq hs)).trans (State.takeBad_of_faulted (s := taken) hs cause))
      · refine becomes_of (f := fun n => { n with bad := n.bad + 1 })
          ((heard (.of_eq hs)).trans ((State.takeBad_of_usable (s := taken) hs cause).trans ?_))
        rcases hc with rfl | rfl <;> rfl
      · have hb := hx.trans (congrArg _
          ((heard (.of_eq hs)).trans (State.takeBad_of_usable (s := taken) hs cause)))
        rcases hc with ⟨rfl, rfl, rfl⟩ | ⟨rfl, rfl, rfl⟩
        · exact faultEntry_outcome (cause := .secondsJump) hb
        · exact faultEntry_outcome (cause := .unlockedReceiver) hb
    · intro learned held
      have learnt (hs : n.state ≠ .trial) := State.takeGood_of_not_trial (s := taken) hs c
      have trial (hs : n.state = .trial) := State.takeGood_of_trial (s := taken) hs c
      have hheld : (taken.modEntry e fun n => n.learn c).disagrees e = true ↔ held := by
        rw [State.disagrees_iff, State.modEntry_entries_self]
        rfl
      refine ⟨fun hs => ?_, fun hs hn => ?_, fun hs hsel => ?_, fun hs hh => ?_,
        fun hs hh => ⟨fun hq => ?_, fun hq => ?_⟩⟩
      · exact becomes_of (State.takePhase_good_kept (s := taken) (.of_eq hs) hv
          (learnt (ne_of_eq_of_ne hs (by decide))) (.inr (ne_of_eq_of_ne hs (by decide))))
      · exact becomes_of (State.takePhase_good_kept (s := taken) (.of_eq hs) hv
          (learnt (ne_of_eq_of_ne hs (by decide))) (.inl hn))
      · have hl := learnt (ne_of_eq_of_ne hs (by decide))
        have hu : (taken.takeGood e c).isUsable e = true := by
          rw [hl, State.isUsable, State.modEntry_entries_self]
          exact decide_eq_true hs
        have hp := State.takePhase_good_usable (s := taken) (.of_eq hs) hv hu
        rw [hl] at hp
        exact hx.trans (congrArg _ (hp.trans (if_pos hsel)))
      · exact becomes_of (State.takePhase_good_kept (s := taken) (.of_eq hs) hv
          ((trial hs).trans (if_pos (hheld.mpr hh))) (.inr (ne_of_eq_of_ne hs (by decide))))
      · exact becomes_of (State.takePhase_good_kept (s := taken) (.of_eq hs) hv
          ((trial hs).trans ((if_neg (mt hheld.mp hh)).trans (if_neg (Nat.not_le.mpr hq))))
          (.inr (ne_of_eq_of_ne hs (by decide))))
      · obtain ⟨w, hlocal, hext, hrev, hkeep, hp⟩ :=
          State.takePhase_qualified (s := taken) hs hv (mt hheld.mp hh) hq
        exact ⟨w, _, hlocal, hext, hrev, hkeep, hx.trans (congrArg _ hp)⟩

end Sys2Proof.Machine

/-! SUPPORT. What bounds the integral and the histories reads of the part (R53, R93, R96), and the operations
that leave all of it alone, chapter by chapter. -/

namespace Sys2Proof.Machine

open Sys2Proof.Config Sys2Proof.Safety

/-! ### What the bounds read -/

/-- What the bounds of R53, R93 and R96 read of the part: the rate limit, the steering settings, the integral,
the ring, and each uplink unit's delays. -/
structure History where
  rateLimit : Int
  settings : SteeringSettings
  integral : Int
  ring : List Int
  delays : UpUnit → List Int × Nat

/-- An uplink unit's delay window and the limit of the delays it accepts (R53). -/
def UplinkUnit.delays (i : UplinkUnit) : List Int × Nat :=
  (i.window, i.settings.maxDelay)

def State.history (s : State) : History where
  rateLimit := s.timebase.rateLimit
  settings := s.steering.settings
  integral := s.steering.integral
  ring := s.steering.ring
  delays u := s.uplinks[u].delays

/-- From `s` to `t` the two bounds are kept, each by itself. -/
structure KeepsBounds (s t : State) : Prop where
  integral : IntegralBounded s → IntegralBounded t
  depths : HistoriesBounded s → HistoriesBounded t

/-- The bounds read no more than the history. -/
theorem KeepsBounds.of_eq {s t : State} (h : t.history = s.history) : KeepsBounds s t := by
  have hl : t.timebase.rateLimit = s.timebase.rateLimit := congrArg History.rateLimit h
  have hc : t.steering.settings = s.steering.settings := congrArg History.settings h
  have hi : t.steering.integral = s.steering.integral := congrArg History.integral h
  have hr : t.steering.ring = s.steering.ring := congrArg History.ring h
  have hd (u : UpUnit) : t.uplinks[u].delays = s.uplinks[u].delays := congrFun (congrArg History.delays h) u
  have hw (u : UpUnit) : t.uplinks[u].window = s.uplinks[u].window := congrArg Prod.fst (hd u)
  have hm (u : UpUnit) : t.uplinks[u].settings.maxDelay = s.uplinks[u].settings.maxDelay :=
    congrArg Prod.snd (hd u)
  constructor
  · unfold IntegralBounded LoopSettingsSound
    rw [hl, hc, hi]
    exact id
  · unfold HistoriesBounded
    simp only [hr, hw, hm]
    exact id

theorem KeepsBounds.refl (s : State) : KeepsBounds s s := .of_eq rfl

theorem KeepsBounds.trans {s t v : State} (h : KeepsBounds s t) (h' : KeepsBounds t v) : KeepsBounds s v :=
  ⟨h'.integral ∘ h.integral, h'.depths ∘ h.depths⟩

/-! ### The updates of one block -/

section Updates

variable {s : State}

/-- A change of an uplink unit that keeps its delays. -/
theorem State.modUplink_history {u : UpUnit} {f : UplinkUnit → UplinkUnit}
    (h : (f s.uplinks[u]).delays = s.uplinks[u].delays) : (s.modUplink u f).history = s.history := by
  have hd (w : UpUnit) : (s.modUplink u f).uplinks[w].delays = s.uplinks[w].delays := by
    rw [State.modUplink_uplinks, getElem_set_apply]
    split_ifs with hw
    · rw [← hw, h]
    · rfl
  unfold State.history
  simp only [hd]
  rfl

@[simp] theorem State.modUplink_history_of_delays {u : UpUnit} {f : UplinkUnit → UplinkUnit}
    (h : ∀ i, (f i).delays = i.delays) : (s.modUplink u f).history = s.history :=
  State.modUplink_history (h _)

/-- A change of the steering unit that keeps its settings, the integral and the ring. -/
@[simp] theorem State.modSteering_history {f : Steering → Steering}
    (h : (f s.steering).settings = s.steering.settings ∧ (f s.steering).integral = s.steering.integral ∧
      (f s.steering).ring = s.steering.ring) : (s.modSteering f).history = s.history := by
  obtain ⟨hc, hi, hr⟩ := h
  unfold State.history
  simp only [State.modSteering_steering, hc, hi, hr]
  rfl

variable (s)

@[simp] theorem State.modInput_history (u : InUnit) (f : InputUnit → InputUnit) :
    (s.modInput u f).history = s.history := rfl

@[simp] theorem State.modEntry_history (e : Ext) (f : SourceEntry → SourceEntry) :
    (s.modEntry e f).history = s.history := rfl

@[simp] theorem State.modSelector_history (f : Selector → Selector) :
    (s.modSelector f).history = s.history := rfl

@[simp] theorem State.modPort_history (p : Port) (f : PortUnit → PortUnit) :
    (s.modPort p f).history = s.history := rfl

@[simp] theorem State.modPulse_history (k : PulseOut) (f : PulseUnit → PulseUnit) :
    (s.modPulse k f).history = s.history := rfl

@[simp] theorem State.modCoded_history (m : CodedOut) (f : CodedUnit → CodedUnit) :
    (s.modCoded m f).history = s.history := rfl

@[simp] theorem State.modLink_history (l : Link) (f : LinkUnit → LinkUnit) :
    (s.modLink l f).history = s.history := rfl

@[simp] theorem State.modNotice_history (l : Link) (f : NoticeLink → NoticeLink) :
    (s.modNotice l f).history = s.history := rfl

@[simp] theorem State.modFlight_history (f : Flight → Flight) : (s.modFlight f).history = s.history := rfl

@[simp] theorem State.logFault_history (b : FaultOrigin) (c e d : Nat) :
    (s.logFault b c e d).history = s.history := rfl

@[simp] theorem State.latch_history (c : NoticeClass) : (s.latch c).history = s.history := rfl

@[simp] theorem State.toSelector_history (e : Ext) (v : UnitEvent) :
    (s.toSelector e v).history = s.history := rfl

@[simp] theorem State.handRate_history (w : Int) : (s.handRate w).history = s.history := rfl

@[simp] theorem State.portReport_history (p : Port) (r : PortReport) :
    (s.portReport p r).history = s.history := rfl

@[simp] theorem State.respond_history (r : Running) (st : Status) (b : List Byte) :
    (s.respond r st b).history = s.history := rfl

end Updates

end Sys2Proof.Machine

/-! SUPPORT. What leaves the histories alone (R53, R93, R96): every operation of the blocks that keep none, chapter
by chapter. -/

namespace Sys2Proof.Machine

open Sys2Proof.Config Sys2Proof.Safety

section HistoryFrame

variable (s : State)

/-! ### Answers of the executor -/

@[simp] theorem State.answer_history (r : Running) (st : Status) : (s.answer r st).history = s.history := rfl

/-- A checked write keeps the history when its continuation does. -/
theorem State.checkedWrite_history {s : State} {r : Running} {sect index : Nat} {k : State}
    (hk : k.history = s.history) : (s.checkedWrite r sect index k).history = s.history := by
  rcases s.checkedWrite_cases r sect index k with ⟨-, h⟩ | ⟨-, -, h⟩ | ⟨-, h⟩ <;> simp [h, hk]

/-- A row of the executor keeps the history when every command it accepts does. -/
theorem State.onCommand_history {s : State} {f : Running → Command → Option State}
    (hf : ∀ r c t, f r c = some t → t.history = s.history) : (s.onCommand f).history = s.history := by
  rcases s.onCommand_cases f with h | ⟨r, t, -, h, h'⟩
  · rw [h]
  · rw [h', hf r _ t h]

/-! ### Input units (chapter 2) -/

@[simp] theorem State.followScale_history (e : Ext) : (s.followScale e).history = s.history := by
  unfold State.followScale; split <;> rfl

@[simp] theorem State.formPair_history (u : InUnit) (tod : TimeOfDay) (c : Stamp) :
    (s.formPair u tod c).history = s.history := by
  unfold State.formPair; dsimp only; split <;> simp

@[simp] theorem unpaired_history (u : InUnit) : (unpaired s u).history = s.history := by
  unfold unpaired; dsimp only; split <;> rfl

@[simp] theorem State.emitUnpaired_history (u : InUnit) : (s.emitUnpaired u).history = s.history := by
  simp [State.emitUnpaired_eq]

@[simp] theorem State.settleHeld_history (u : InUnit) (now : Stamp) :
    (s.settleHeld u now).history = s.history := by
  unfold State.settleHeld; split <;> simp

@[simp] theorem State.orphan_history (u : InUnit) : (s.orphan u).history = s.history := rfl

@[simp] theorem State.pairPulse_history (u : InUnit) (c : Stamp) : (s.pairPulse u c).history = s.history := by
  unfold State.pairPulse
  split
  · simp
  · split <;> simp

@[simp] theorem State.pairSentence_history (u : InUnit) (tod : TimeOfDay) (now : Stamp) :
    (s.pairSentence u tod now).history = s.history := by
  unfold State.pairSentence
  dsimp only
  split
  · split <;> simp
  · simp

@[simp] theorem State.acceptPulse_history (u : InUnit) (c : Stamp) (n : Count) :
    (s.acceptPulse u c n).history = s.history := by
  simp [State.acceptPulse]

@[simp] theorem State.pulse_history (u : InUnit) (c : Stamp) : (s.pulse u c).history = s.history := by
  unfold State.pulse
  dsimp only
  split
  · simp
  · simp
  · split <;> simp

@[simp] theorem State.miss_history (u : InUnit) : (s.miss u).history = s.history := rfl

/-! ### Source selector (chapter 4) -/

@[simp] theorem State.modInputOf_history (e : Ext) (f : InputUnit → InputUnit) :
    (s.modInputOf e f).history = s.history := by
  unfold State.modInputOf; split <;> rfl

@[simp] theorem State.selectSource_history (i : Source) : (s.selectSource i).history = s.history := by
  rw [State.selectSource_eq]; split <;> rfl

@[simp] theorem State.push_history (e : Ext) (c : Cause) : (s.push e c).history = s.history := rfl

@[simp] theorem State.maskOptions_history : s.maskOptions.history = s.history := rfl

@[simp] theorem State.failureSwitch_history : s.failureSwitch.history = s.history := by
  simp [State.failureSwitch]

@[simp] theorem State.leaveTrial_history (e : Ext) : (s.leaveTrial e).history = s.history := by
  simp [State.leaveTrial]

@[simp] theorem State.faultEntry_history (e : Ext) (c : Cause) : (s.faultEntry e c).history = s.history := by
  unfold State.faultEntry; dsimp only; split <;> simp

@[simp] theorem State.revertTest_history (n : Nat) : (s.revertTest n).history = s.history :=
  State.revertTest_induct (P := fun v => v.history = s.history) s n rfl
    (fun _ _ _ h _ _ => h) (fun v t _ h _ _ _ => (v.selectSource_history (toSource t.source)).trans h)

@[simp] theorem State.revert_history : s.revert.history = s.history :=
  s.revertTest_history _

@[simp] theorem State.upgradeTest_history : s.upgradeTest.history = s.history := by
  rcases s.upgradeTest_cases with h | ⟨b, -, -, h⟩ <;> simp [h]

/-- The upgrade test that may follow a change of class leaves the history as the change does. -/
theorem State.withClassChange_history {s : State} {e : Ext} {f : State → State}
    (hf : (f s).history = s.history) : (s.withClassChange e f).history = s.history := by
  rcases s.withClassChange_cases e f with h | h <;> simp [h, hf]

@[simp] theorem State.enterTrial_history (e : Ext) (b : Bool) : (s.enterTrial e b).history = s.history := by
  simp [State.enterTrial]

@[simp] theorem State.becomeUsable_history (e : Ext) : (s.becomeUsable e).history = s.history := by
  unfold State.becomeUsable
  dsimp only
  split_ifs <;> simp

@[simp] theorem State.heardReport_history (e : Ext) (k : ReportKind) :
    (s.heardReport e k).history = s.history := by
  unfold State.heardReport
  cases k with
  | accepted => rfl
  | stray => rfl
  | miss => dsimp only; split_ifs <;> simp

@[simp] theorem State.takeReport_history (e : Ext) (k : ReportKind) :
    (s.takeReport e k).history = s.history := by
  unfold State.takeReport; split <;> simp

@[simp] theorem State.takeGood_history (e : Ext) (c : Int) : (s.takeGood e c).history = s.history := by
  unfold State.takeGood
  dsimp only
  split
  · split_ifs <;> simp
  · simp

@[simp] theorem State.takeBad_history (e : Ext) (c : BadCause) : (s.takeBad e c).history = s.history := by
  unfold State.takeBad; dsimp only; split <;> simp

@[simp] theorem State.takePhase_history (e : Ext) (ev : PhaseEvent) :
    (s.takePhase e ev).history = s.history := by
  unfold State.takePhase
  split
  · rfl
  · dsimp only
    generalize hv : (if s.selector.entries[e].state = .absent then s.enterTrial e false else s) = v
    have h : v.history = s.history := by
      rw [← hv]; split <;> simp
    split
    · simp [h]
    · split <;> simp [h]

@[simp] theorem State.countTimers_history (e : Ext) : (s.countTimers e).history = s.history := by
  unfold State.countTimers
  dsimp only
  split
  · split
    · split <;> simp
    · rfl
  · simp
  · rfl

/-- A fold of operations that each keep the history keeps it. -/
theorem foldl_history {α : Type} {f : State → α → State} (hf : ∀ v a, (f v a).history = v.history)
    (l : List α) (s : State) : (l.foldl f s).history = s.history := by
  induction l generalizing s with
  | nil => rfl
  | cons a l ih => rw [List.foldl_cons, ih, hf]

@[simp] theorem State.selectorCycle_history : s.selectorCycle.history = s.history := by
  unfold State.selectorCycle
  split
  · rfl
  · simp [foldl_history State.countTimers_history]

@[simp] theorem State.manualSwitch_history (i : Source) : (s.manualSwitch i).history = s.history := by
  unfold State.manualSwitch; split <;> simp

@[simp] theorem State.runSwitchSource_history (r : Running) (n : Nat) :
    (s.runSwitchSource r n).history = s.history := by
  refine State.checkedWrite_history ?_
  split
  · dsimp only
    split
    · rfl
    · split_ifs <;> simp
  · rfl

@[simp] theorem State.runDiscardFallback_history (r : Running) :
    (s.runDiscardFallback r).history = s.history := by
  refine State.checkedWrite_history ?_
  split <;> simp

/-! ### Serial lines (chapter 2) and uplink units (chapter 3) -/

@[simp] theorem State.takeDescriptor_history (u : InUnit) (body : List Byte) :
    (s.takeDescriptor u body).history = s.history := by
  unfold State.takeDescriptor
  split
  · rfl
  · exact State.withClassChange_history rfl

@[simp] theorem State.sentence_history (u : InUnit) (k : Byte) (n : Nat) (body : List Byte) (c : Byte)
    (now : Stamp) : (s.sentence u k n body c now).history = s.history := by
  unfold State.sentence; dsimp only; split_ifs <;> simp

@[simp] theorem State.deliver_history (u : InUnit) (c : Byte) (now : Stamp) :
    (s.deliver u c now).history = s.history := by
  unfold State.deliver; split <;> simp

@[simp] theorem UplinkUnit.count_delays (i : UplinkUnit) (f : UplinkCounters → UplinkCounters) :
    (i.count f).delays = i.delays := by
  cases i; rfl

@[simp] theorem UplinkUnit.displace_delays (i : UplinkUnit) : i.displace.delays = i.delays := by
  unfold UplinkUnit.displace; split <;> rfl

@[simp] theorem UplinkUnit.abandon_delays (i : UplinkUnit) : i.abandon.delays = i.delays := by
  unfold UplinkUnit.abandon; split <;> rfl

@[simp] theorem UplinkUnit.stepped_delays (i : UplinkUnit) : i.stepped.delays = i.delays :=
  i.abandon_delays

@[simp] theorem UplinkUnit.age_delays (i : UplinkUnit) : i.age.delays = i.delays := by
  unfold UplinkUnit.age
  split
  · rfl
  · split <;> rfl

@[simp] theorem UplinkUnit.querySlot_delays (i : UplinkUnit) (u : UpUnit) (n : Nat) (cut : Bool) (d : Stamp) :
    (i.querySlot u n cut d).delays = i.delays := by
  unfold UplinkUnit.querySlot
  split_ifs
  · rfl
  · rfl
  · rfl
  · split <;> rfl

@[simp] theorem State.release_history (u : UpUnit) (t1 t2 : Stamp) :
    (s.release u t1 t2).history = s.history := by
  rw [State.release, State.toSelector_history]
  exact State.modUplink_history rfl

@[simp] theorem State.confirm_history (u : UpUnit) (m : MarkFields) (t1 t2 : Stamp) :
    (s.confirm u m t1 t2).history = s.history := by
  unfold State.confirm
  split
  · exact State.modUplink_history (UplinkUnit.displace_delays _)
  · exact (State.release_history _ u t1 t2).trans (State.modUplink_history (UplinkUnit.displace_delays _))
  · split
    · exact State.modUplink_history rfl
    · dsimp only
      split
      · exact (State.release_history _ u _ _).trans (State.modUplink_history rfl)
      · exact (State.modUplink_history rfl).trans (State.modUplink_history rfl)
  · rfl

@[simp] theorem State.takeMark_history (u : UpUnit) (m : MarkFields) (a : Stamp) :
    (s.takeMark u m a).history = s.history :=
  (State.confirm_history _ u m _ _).trans (State.modUplink_history rfl)

@[simp] theorem State.takeUpstream_history (u : UpUnit) (c : Nat) (sc : Int) :
    (s.takeUpstream u c sc).history = s.history := by
  unfold State.takeUpstream
  rw [State.followScale_history]
  exact State.withClassChange_history (State.modUplink_history rfl)

@[simp] theorem State.uplinkCycle_history (u : UpUnit) (n : Nat) (d : Stamp) :
    (s.uplinkCycle u n d).history = s.history := by
  unfold State.uplinkCycle
  dsimp only
  generalize hk : (if s.uplinks[u].settings.slot = 0 then _ else _ : UplinkUnit) = k
  have hd : k.delays = s.uplinks[u].delays := by
    rw [← hk]
    split_ifs
    · exact (UplinkUnit.querySlot_delays ..).trans (UplinkUnit.age_delays _)
    · exact UplinkUnit.age_delays _
  have hm : (s.modUplink u fun _ => k).history = s.history := State.modUplink_history hd
  split
  · split
    · exact hm
    · exact hm
  · rfl

@[simp] theorem State.takeUplinkCycle_history (u : UpUnit) : (s.takeUplinkCycle u).history = s.history := by
  unfold State.takeUplinkCycle; split <;> simp

/-! ### Steering unit (chapter 5) -/

@[simp] theorem State.lockTest_history (c : Int) : (s.lockTest c).history = s.history := by
  unfold State.lockTest; dsimp only; split_ifs <;> rfl

@[simp] theorem State.excursionTest_history (e : Ext) (c : Int) :
    (s.excursionTest e c).history = s.history := by
  unfold State.excursionTest; dsimp only; split_ifs <;> rfl

@[simp] theorem State.acquireSource_history (e : Ext) : (s.acquireSource e).history = s.history := by
  unfold State.acquireSource; dsimp only; split <;> rfl

@[simp] theorem State.leaveSource_history : s.leaveSource.history = s.history := by
  unfold State.leaveSource
  split
  · rfl
  · dsimp only; split <;> rfl

@[simp] theorem State.ageHoldover_history (n : Nat) : (s.ageHoldover n).history = s.history := by
  unfold State.ageHoldover; split_ifs <;> rfl

@[simp] theorem State.steeringCycle_history : s.steeringCycle.history = s.history := by
  unfold State.steeringCycle; split <;> simp

/-! ### Cycle timer and plan store (chapter 6) -/

@[simp] theorem State.countRequests_history (u : InUnit) : (s.countRequests u).history = s.history := by
  unfold State.countRequests; split <;> rfl

@[simp] theorem State.handCycle_history (n : Nat) (b : Bool) (i : Stamp) :
    (s.handCycle n b i).history = s.history := rfl

@[simp] theorem State.startCycle_history (n : Nat) (i : Stamp) : (s.startCycle n i).history = s.history := by
  rw [State.startCycle_eq, State.begun_frame]
  simp only [State.handCycle_history, State.countRequests_history]
  rfl

@[simp] theorem State.startSlot_history (k : Nat) (i : Stamp) : (s.startSlot k i).history = s.history := by
  unfold State.startSlot; split <;> rfl

@[simp] theorem State.cutCycle_history : s.cutCycle.history = s.history := rfl

@[simp] theorem State.runArmPlan_history (r : Running) (b n : Nat) :
    (s.runArmPlan r b n).history = s.history := by
  unfold State.runArmPlan
  split
  · rfl
  · split
    · rfl
    · split_ifs
      · rfl
      · rfl
      · split <;> rfl

@[simp] theorem State.runDisarmPlan_history (r : Running) : (s.runDisarmPlan r).history = s.history := by
  refine State.checkedWrite_history ?_
  split <;> rfl

/-! ### Distribution ports (chapter 7) -/

@[simp] theorem State.portCycle_history (p : Port) (n : Nat) (nm : Option (BankName × Nat)) :
    (s.portCycle p n nm).history = s.history := by
  unfold State.portCycle
  split
  · split
    · dsimp only; split <;> simp
    · rfl
  · rfl

@[simp] theorem State.takePortCycle_history (p : Port) : (s.takePortCycle p).history = s.history := by
  unfold State.takePortCycle; split <;> simp

@[simp] theorem State.sendMark_history (p : Port) (k : Nat) (b : Bool) (x : Elapsed) :
    (s.sendMark p k b x).history = s.history := by
  unfold State.sendMark; dsimp only; split <;> rfl

@[simp] theorem State.departMark_history (p : Port) (k : Nat) (b : Bool) (x : Elapsed) :
    (s.departMark p k b x).history = s.history := by
  unfold State.departMark; dsimp only; split <;> simp

@[simp] theorem State.departReply_history (p : Port) (d : Departure) (l : Option (List Answer)) (n : Nat) :
    (s.departReply p d l n).history = s.history := by
  unfold State.departReply; dsimp only; split <;> rfl

@[simp] theorem State.takeQuery_history (p : Port) (r : Nat) (q : Seq) (a : Stamp) :
    (s.takeQuery p r q a).history = s.history := by
  unfold State.takeQuery; dsimp only; split_ifs <;> rfl

@[simp] theorem State.portDown_history (p : Port) : (s.portDown p).history = s.history := by
  unfold State.portDown; dsimp only; split_ifs <;> rfl

@[simp] theorem State.runClearPortFlags_history (r : Running) (l : List Nat) :
    (s.runClearPortFlags r l).history = s.history := by
  unfold State.runClearPortFlags
  dsimp only
  split_ifs
  · rfl
  · rfl
  · rfl
  · rfl
  · rw [State.respond_history]
    exact foldl_history (fun v p => v.modPort_history p _) _ s

/-! ### Management links and the executor's own commands (chapter 10) -/

@[simp] theorem State.badFrame_history (l : Link) (tag : Byte) (st : Status) :
    (s.badFrame l tag st).history = s.history := by
  unfold State.badFrame; dsimp only; split <;> rfl

@[simp] theorem State.takeCommand_history (l : Link) (f : List Byte) :
    (s.takeCommand l f).history = s.history := by
  unfold State.takeCommand
  split
  · exact s.badFrame_history _ _ _
  · rfl

@[simp] theorem State.grant_history (l : Link) : (s.grant l).history = s.history := by
  unfold State.grant
  split
  · rfl
  · exact (State.takeCommand_history _ l _).trans rfl

@[simp] theorem State.runReadEntry_history (r : Running) (i j : Nat) (x : Elapsed) :
    (s.runReadEntry r i j x).history = s.history := by
  unfold State.runReadEntry
  split_ifs
  · rfl
  · rfl
  · split <;> rfl

@[simp] theorem State.runReadTime_history (r : Running) (x : Elapsed) :
    (s.runReadTime r x).history = s.history := by
  unfold State.runReadTime; split <;> rfl

@[simp] theorem State.runLockAccess_history (r : Running) : (s.runLockAccess r).history = s.history := by
  unfold State.runLockAccess; split_ifs <;> rfl

@[simp] theorem State.runLinkReset_history (r : Running) : (s.runLinkReset r).history = s.history := rfl

/-! ### Notices (chapter 11) -/

@[simp] theorem State.mapNotice_history (f : NoticeLink → NoticeLink) :
    (s.mapNotice f).history = s.history := rfl

@[simp] theorem State.judgeCycle_history : s.judgeCycle.history = s.history := by
  unfold State.judgeCycle; split <;> rfl

@[simp] theorem State.noticeCycle_history (n : Nat) : (s.noticeCycle n).history = s.history :=
  (State.judgeCycle_history _).trans rfl

@[simp] theorem State.noticeSlot_history (k : Nat) (b : Bool) : (s.noticeSlot k b).history = s.history := by
  simp [State.noticeSlot]

@[simp] theorem State.runTakeNotice_history (r : Running) : (s.runTakeNotice r).history = s.history := by
  unfold State.runTakeNotice; dsimp only; split <;> rfl

@[simp] theorem State.runEndService_history (r : Running) : (s.runEndService r).history = s.history := by
  unfold State.runEndService; split <;> rfl

@[simp] theorem State.runPeekFault_history (r : Running) : (s.runPeekFault r).history = s.history := rfl

@[simp] theorem State.runPopFault_history (r : Running) : (s.runPopFault r).history = s.history := rfl

@[simp] theorem State.runClearFaultOverflow_history (r : Running) :
    (s.runClearFaultOverflow r).history = s.history := rfl

end HistoryFrame

end Sys2Proof.Machine

/-! SUPPORT. What keeps the integral and the histories within their bounds (R53, R93, R96): the loop filter, the
accepted delays, and then every command. -/

namespace Sys2Proof.Machine

open Sys2Proof.Config Sys2Proof.Safety

/-! ### The loop filter (R92, R93) -/

/-- A dividend lies within its quotient's next multiple of the divisor, whatever the quotient's sign. -/
theorem natAbs_lt_of_towardZero (v : Int) {d : Nat} (hd : 0 < d) :
    v.natAbs < ((towardZero v d).natAbs + 1) * d := by
  rw [towardZero, Int.natAbs_tdiv, Int.natAbs_natCast]
  exact Nat.lt_mul_of_div_lt (Nat.lt_succ_self _) hd

/-- An error within Ts makes at most 2^35 rate units (R92). -/
theorem natAbs_rateUnits_le {e : Int} (h : (e.natAbs : Int) ≤ 16000000000) : (rateUnits e).natAbs ≤ 2 ^ 35 := by
  unfold rateUnits halfAway
  dsimp only
  split_ifs <;> omega

/-- The shifts in force lie within the range of their settings. -/
theorem shift_le_of_loopSettingsSound {s : State} (h : LoopSettingsSound s) : s.steering.shifts.2 ≤ 24 := by
  obtain ⟨-, -, -, hia, -, hit⟩ := h
  unfold Steering.shifts
  split_ifs
  · exact hia
  · exact hit

/-- The sum behind a candidate within the rate limit stays below 2^60: the candidate bounds the integral part of
the word, and that part, shifted back, bounds the sum (R93). -/
theorem Steering.filter_sum_lt {s : State} (hs : LoopSettingsSound s) (carried : Int)
    (hc : ((s.steering.filter carried).1.natAbs : Int) ≤ rateMax) :
    (s.steering.filter carried).2.natAbs < 2 ^ 60 := by
  have hk := shift_le_of_loopSettingsSound hs
  obtain ⟨h0, h1, -⟩ := hs
  unfold Steering.filter at hc ⊢
  dsimp only at hc ⊢
  have her := natAbs_rateUnits_le ((natAbs_saturate_le h0 carried).trans h1)
  generalize rateUnits (saturate s.steering.settings.ts carried) = er at hc her ⊢
  have hp := natAbs_towardZero_le er ((2 ^ s.steering.shifts.1 : Nat) : Int)
  have hsum := natAbs_lt_of_towardZero (s.steering.integral + er) (d := 2 ^ s.steering.shifts.2) (by positivity)
  generalize towardZero er ((2 ^ s.steering.shifts.1 : Nat) : Int) = p at hc hp
  generalize towardZero (s.steering.integral + er) ((2 ^ s.steering.shifts.2 : Nat) : Int) = i at hc hsum
  have hi : i.natAbs + 1 < 2 ^ 36 := by
    unfold rateMax at hc
    omega
  calc (s.steering.integral + er).natAbs < (i.natAbs + 1) * 2 ^ s.steering.shifts.2 := hsum
    _ ≤ 2 ^ 36 * 2 ^ 24 := Nat.mul_le_mul hi.le (Nat.pow_le_pow_right (by omega) hk)
    _ = 2 ^ 60 := by norm_num

/-! ### The steering unit (R91, R93, R96 to R98, R109) -/

section Steering

variable {s : State} {f : Steering → Steering}

/-- A change of the steering unit keeps the bounds when it keeps its settings, a bounded integral and a bounded
ring. -/
theorem KeepsBounds.modSteering (hc : (f s.steering).settings = s.steering.settings)
    (hi : IntegralBounded s → (f s.steering).integral.natAbs < 2 ^ 60)
    (hr : s.steering.ring.length ≤ 16 → (f s.steering).ring.length ≤ 16) : KeepsBounds s (s.modSteering f) := by
  constructor
  · intro h
    have hi := hi h
    obtain ⟨hl, hm, -⟩ := h
    refine ⟨?_, hm, hi⟩
    unfold LoopSettingsSound
    rw [State.modSteering_steering, hc]
    exact hl
  · rintro ⟨h, hu⟩
    exact ⟨hr h, hu⟩

/-- A step taken or requested clears the integral and keeps the ring (R91, R98). -/
theorem KeepsBounds.clearIntegral (hc : (f s.steering).settings = s.steering.settings)
    (hi : (f s.steering).integral = 0) (hr : (f s.steering).ring = s.steering.ring) :
    KeepsBounds s (s.modSteering f) :=
  .modSteering hc (fun _ => by rw [hi]; decide) (by rw [hr]; exact id)

end Steering

theorem State.requestStep_keepsBounds (s : State) (e : Ext) (d : Int) : KeepsBounds s (s.requestStep e d) :=
  (KeepsBounds.clearIntegral rfl rfl rfl).trans (.of_eq (State.modFlight_history _ _))

theorem State.takeStepAnnouncement_keepsBounds (s : State) (o : StepOrigin) :
    KeepsBounds s (s.takeStepAnnouncement o) := by
  unfold State.takeStepAnnouncement
  dsimp only
  refine KeepsBounds.trans (.of_eq ?_) (KeepsBounds.clearIntegral rfl rfl rfl)
  split
  · exact (State.logFault_history ..).trans (State.modSteering_history ⟨rfl, rfl, rfl⟩)
  · rfl

/-- A candidate within the rate limit brings a bounded sum; one beyond it leaves the integral (R93). -/
theorem KeepsBounds.accept (s : State) (carried : Int) :
    KeepsBounds s (s.modSteering fun v =>
      v.accept s.timebase.rateLimit (s.steering.filter carried).1 (s.steering.filter carried).2) := by
  unfold Steering.accept
  by_cases hc : ((s.steering.filter carried).1.natAbs : Int) ≤ s.timebase.rateLimit
  · simp only [if_pos hc]
    exact .modSteering rfl (fun ⟨hs, hm, _⟩ => Steering.filter_sum_lt hs carried (hc.trans hm)) id
  · simp only [if_neg hc]
    exact .of_eq (State.modSteering_history ⟨rfl, rfl, rfl⟩)

/-- The ring takes a word and gives up its oldest (R96). -/
theorem KeepsBounds.pushRing (s : State) (word : Int) :
    KeepsBounds s (s.modSteering fun v => { v with ring := pushBounded ringDepth v.ring word }) :=
  .modSteering rfl (fun ⟨_, _, h⟩ => h) fun h => length_pushBounded_le (by decide) h word

theorem State.steer_keepsBounds (s : State) (e : Ext) (carried : Int) : KeepsBounds s (s.steer e carried) := by
  unfold State.steer
  dsimp only
  refine (KeepsBounds.accept s carried).trans ?_
  split
  · exact .of_eq ((State.lockTest_history _ _).trans (State.handRate_history _ _))
  · exact (KeepsBounds.of_eq ((State.excursionTest_history ..).trans (State.handRate_history _ _))).trans
      (.pushRing _ _)

theorem State.takeGoodEvent_keepsBounds (s : State) (e : Ext) (c x : Int) :
    KeepsBounds s (s.takeGoodEvent e c x) := by
  unfold State.takeGoodEvent
  dsimp only
  split_ifs
  · refine KeepsBounds.trans (.of_eq ?_) (State.requestStep_keepsBounds _ e x)
    exact State.modSteering_history ⟨rfl, rfl, rfl⟩
  · refine KeepsBounds.trans (.of_eq ?_) (State.steer_keepsBounds _ e c)
    exact State.modSteering_history ⟨rfl, rfl, rfl⟩
  · exact .of_eq (State.modSteering_history ⟨rfl, rfl, rfl⟩)

/-! ### The uplink units (R53, R57, R58) -/

/-- A delay window with its limit is bounded as R53 bounds it. -/
def DelaysBounded (x : List Int × Nat) : Prop :=
  x.1.length ≤ 8 ∧ x.2 ≤ 16000000 ∧ ∀ d ∈ x.1, 0 ≤ d ∧ d ≤ 16000000

/-- A change of an uplink unit keeps the bounds when it keeps its own. -/
theorem KeepsBounds.modUplink {s : State} {u : UpUnit} {f : UplinkUnit → UplinkUnit}
    (h : DelaysBounded s.uplinks[u].delays → DelaysBounded (f s.uplinks[u]).delays) :
    KeepsBounds s (s.modUplink u f) := by
  refine ⟨id, fun ⟨hr, hu⟩ => ⟨hr, fun w => ?_⟩⟩
  rw [State.modUplink_uplinks, getElem_set_apply]
  split_ifs with hw
  · subst hw
    exact h (hu u)
  · exact hu w

theorem DelaysBounded.empty {x : List Int × Nat} (h : DelaysBounded x) : DelaysBounded ([], x.2) :=
  ⟨Nat.zero_le _, h.2.1, fun _ hd => nomatch hd⟩

/-- A delay accepted within the limit gives up the oldest of eight (R53). -/
theorem DelaysBounded.push {w : List Int} {m : Nat} {d : Int} (h : DelaysBounded (w, m)) (h0 : 0 ≤ d)
    (hm : d ≤ m) : DelaysBounded (pushBounded delayDepth w d, m) := by
  obtain ⟨hl, hb, hd⟩ := h
  refine ⟨length_pushBounded_le (by decide) hl d, hb, fun a ha => ?_⟩
  rcases mem_of_mem_pushBounded ha with ha | rfl
  · exact hd a ha
  · exact ⟨h0, hm.trans (by exact_mod_cast hb)⟩

theorem DelaysBounded.takeReply {i : UplinkUnit} (h : DelaysBounded i.delays) (r : Nat) (q : Seq) (t4 : Stamp) :
    DelaysBounded (i.takeReply r q t4).delays := by
  unfold UplinkUnit.takeReply
  split
  · split
    · dsimp only
      split
      · exact h
      · split
        · next hd => exact DelaysBounded.push h hd.1 hd.2
        · exact h
    · exact h
  · exact h

theorem DelaysBounded.linkDown {i : UplinkUnit} (h : DelaysBounded i.delays) : DelaysBounded i.linkDown.delays := by
  unfold UplinkUnit.linkDown
  split_ifs
  · exact h
  · have hs : i.abandon.settings.maxDelay = i.settings.maxDelay := congrArg Prod.snd i.abandon_delays
    show DelaysBounded ([], i.abandon.settings.maxDelay)
    rw [hs]
    exact h.empty
  · exact h

/-! ### Enabling and disabling (R58, R65) -/

theorem State.modUplinkOf_keepsBounds (s : State) (e : Ext) {f : UplinkUnit → UplinkUnit}
    (h : ∀ i, DelaysBounded i.delays → DelaysBounded (f i).delays) : KeepsBounds s (s.modUplinkOf e f) := by
  unfold State.modUplinkOf
  split
  · exact .modUplink (h _)
  · exact .refl s

theorem State.enableSource_keepsBounds (s : State) (e : Ext) : KeepsBounds s (s.enableSource e) := by
  unfold State.enableSource
  split
  · exact (KeepsBounds.of_eq (by simp)).trans (State.modUplinkOf_keepsBounds _ e fun _ => id)
  · exact .refl s

/-- A source switched off has its delay window emptied (R58). -/
theorem State.switchOff_keepsBounds (s : State) (e : Ext) : KeepsBounds s (s.switchOff e) := by
  unfold State.switchOff
  dsimp only
  have off {v : State} (h : v.history = s.history) : KeepsBounds s (v.modUplinkOf e UplinkUnit.stop) :=
    (KeepsBounds.of_eq h).trans (v.modUplinkOf_keepsBounds e fun _ => DelaysBounded.empty)
  split
  · exact (off (by simp)).trans (.of_eq (State.failureSwitch_history _))
  · exact off (by simp)

theorem State.disableSource_keepsBounds (s : State) (e : Ext) : KeepsBounds s (s.disableSource e) := by
  have hj : (s.withClassChange e fun t => t.switchOff e).history = (s.switchOff e).history := by
    rcases s.withClassChange_cases e fun t => t.switchOff e with h | h <;> simp [h]
  unfold State.disableSource
  dsimp only
  split
  · exact .refl s
  · refine (s.switchOff_keepsBounds e).trans (.of_eq ?_)
    split <;> simp [hj]

end Sys2Proof.Machine

/-! SUPPORT. Entry writes, service reset, and every command keep the integral and the histories within their bounds
(R53, R93, R96, R178, R183). -/

namespace Sys2Proof.Machine

open Sys2Proof.Config Sys2Proof.Safety

/-! ### Settings stored clamped (5.2, R8, R59, R178) -/

/-- The settings that bound the integral lie in their ranges, said of the settings alone (5.2). -/
def SettingsBounded (c : SteeringSettings) : Prop :=
  0 ≤ c.ts ∧ c.ts ≤ 16000000000 ∧ c.pa ≤ 24 ∧ c.ia ≤ 24 ∧ c.pt ≤ 24 ∧ c.it ≤ 24

/-- A change of the steering unit's settings keeps the bounds when they stay in their ranges. -/
theorem KeepsBounds.setSettings {s : State} {f : Steering → Steering}
    (hk : ∀ t, (f t).integral = t.integral ∧ (f t).ring = t.ring)
    (hc : SettingsBounded s.steering.settings → SettingsBounded (f s.steering).settings) :
    KeepsBounds s (s.modSteering f) := by
  obtain ⟨hi, hr⟩ := hk s.steering
  refine ⟨fun ⟨h, hl, h60⟩ => ⟨hc h, hl, ?_⟩, fun ⟨h16, hu⟩ => ⟨?_, hu⟩⟩
  · rwa [State.modSteering_steering, hi]
  · rwa [State.modSteering_steering, hr]

theorem KeepsBounds.setMaxDelay {s : State} {u : UpUnit} {n : Nat} (h : n ≤ 16000000) :
    KeepsBounds s (s.modUplink u fun i => { i with settings := { i.settings with maxDelay := n } }) :=
  .modUplink fun ⟨hl, _, hd⟩ => ⟨hl, h, hd⟩

/-- The timebase changed, its rate limit kept or stored in its range. -/
theorem KeepsBounds.of_timebase {s : State} {b : Timebase}
    (h : s.timebase.rateLimit ≤ rateMax → b.rateLimit ≤ rateMax) : KeepsBounds s { s with timebase := b } :=
  ⟨fun ⟨hc, hl, hi⟩ => ⟨hc, h hl, hi⟩, id⟩

section EntryWrites

variable (s : State) (value : List Byte)

/-- A numeric field that is not negative reaches its store within its range. -/
theorem forall_storeNat_of_range {P : State → Prop} {lo hi : Nat} (hlh : lo ≤ hi) {f : Nat → State}
    (h : ∀ n ≤ hi, P (f n)) : (storeNat lo hi value f).Forall P :=
  forall_storeNat.mpr fun v _ => h _ (by
    have := clamp_le (lo := lo) (hi := hi) (by exact_mod_cast hlh) v
    omega)

theorem State.writeInput_history (u : InUnit) (off : Nat) :
    (s.writeInput u off value).Forall fun t => t.history = s.history := by
  unfold State.writeInput; dsimp only; split <;> simp

theorem State.writeUplink_keepsBounds (u : UpUnit) (off : Nat) :
    (s.writeUplink u off value).Forall (KeepsBounds s) := by
  have kept {lo hi : Nat} {f : Nat → UplinkUnit → UplinkUnit} (h : ∀ n i, (f n i).delays = i.delays) :
      (storeNat lo hi value fun n => s.modUplink u (f n)).Forall (KeepsBounds s) :=
    forall_storeNat.mpr fun _ _ => .of_eq (State.modUplink_history (h _ _))
  unfold State.writeUplink
  dsimp only
  split
  · exact kept fun _ _ => rfl
  · exact kept fun _ _ => rfl
  · exact kept fun _ _ => rfl
  · exact kept fun _ _ => rfl
  · exact kept fun _ _ => rfl
  · exact forall_storeNat_of_range value (by omega) fun n hn => .setMaxDelay hn
  · trivial

/-- An enabled field may empty a delay window and max delay is stored in its range; the other fields of a source
bound nothing. -/
theorem State.writeSource_keepsBounds (e : Ext) (off : Nat) :
    (s.writeSource e off value).Forall (KeepsBounds s) := by
  have kept {x : Stored} (h : x.Forall fun t => t.history = s.history) : x.Forall (KeepsBounds s) :=
    h.mono fun _ => .of_eq
  have hc (n : Nat) : (s.setClass e n).history = s.history := State.withClassChange_history rfl
  unfold State.writeSource
  split
  · rw [forall_storeEnum]
    intro b _ _
    split
    · exact s.enableSource_keepsBounds e
    · exact s.disableSource_keepsBounds e
  · exact kept (by simp)
  · exact kept (by simp [hc])
  · split
    · trivial
    · exact kept (by simp)
  · exact kept (by simp)
  · unfold State.writeUnit
    split
    · exact kept (s.writeInput_history value _ off)
    · exact s.writeUplink_keepsBounds value _ off
    · trivial

theorem State.writeSelector_history (index : Nat) :
    (s.writeSelector index value).Forall fun t => t.history = s.history := by
  have ha (on : Bool) : (s.setAutoUpgrade on).history = s.history := by
    unfold State.setAutoUpgrade; dsimp only; split <;> simp
  unfold State.writeSelector; dsimp only; split <;> simp [ha]

theorem State.writeSources_keepsBounds (index : Nat) :
    (s.writeSources index value).Forall (KeepsBounds s) := by
  unfold State.writeSources
  split_ifs
  · exact s.writeSource_keepsBounds value _ _
  · trivial
  · exact (s.writeSelector_history value index).mono fun _ => .of_eq

/-- Ts and the four shifts are stored in their ranges; the other settings bound nothing (5.2). -/
theorem State.writeSteering_keepsBounds (index : Nat) :
    (s.writeSteering index value).Forall (KeepsBounds s) := by
  have options (f : Byte → Steering → Steering) (h : ∀ b t, (f b t).settings = t.settings ∧
      (f b t).integral = t.integral ∧ (f b t).ring = t.ring) :
      (storeSet 3 value fun b => s.modSteering (f b)).Forall (KeepsBounds s) := by
    rw [storeSet_eq_storeEnum, forall_storeEnum]
    exact fun _ _ _ => .of_eq (State.modSteering_history (h _ _))
  have free {lo hi : Int} {f : Int → Steering → Steering}
      (hk : ∀ n t, (f n t).integral = t.integral ∧ (f n t).ring = t.ring)
      (hc : ∀ n t, SettingsBounded t.settings → SettingsBounded (f n t).settings) :
      (storeNum lo hi value fun n => s.modSteering (f n)).Forall (KeepsBounds s) :=
    forall_storeNum.mpr fun _ _ => .setSettings (hk _) (hc _ _)
  have shift {f : Nat → Steering → Steering} (hk : ∀ n t, (f n t).integral = t.integral ∧ (f n t).ring = t.ring)
      (hc : ∀ n ≤ 24, ∀ t, SettingsBounded t.settings → SettingsBounded (f n t).settings) :
      (storeNat 0 24 value fun n => s.modSteering (f n)).Forall (KeepsBounds s) :=
    forall_storeNat_of_range value (by omega) fun n hn => .setSettings (hk n) (hc n hn _)
  have same (t : Steering) : t.integral = t.integral ∧ t.ring = t.ring := ⟨rfl, rfl⟩
  unfold State.writeSteering
  dsimp only
  split
  · exact options _ fun _ _ => ⟨rfl, rfl, rfl⟩
  · exact options _ fun _ _ => ⟨rfl, rfl, rfl⟩
  · refine forall_storeNum.mpr fun v _ => .setSettings same fun ⟨_, _, hp⟩ => ⟨?_, ?_, hp⟩
    · exact le_trans (by decide) (le_clamp (by decide) v)
    · exact clamp_le (by decide) v
  · exact free (fun _ => same) fun _ _ => id
  · exact free (fun _ => same) fun _ _ => id
  · exact free (fun _ => same) fun _ _ => id
  · exact free (fun _ => same) fun _ _ => id
  · exact shift (fun _ => same) fun n hn t ⟨h0, h1, _, hia, hpt, hit⟩ => ⟨h0, h1, hn, hia, hpt, hit⟩
  · exact shift (fun _ => same) fun n hn t ⟨h0, h1, hpa, _, hpt, hit⟩ => ⟨h0, h1, hpa, hn, hpt, hit⟩
  · exact shift (fun _ => same) fun n hn t ⟨h0, h1, hpa, hia, _, hit⟩ => ⟨h0, h1, hpa, hia, hn, hit⟩
  · exact shift (fun _ => same) fun n hn t ⟨h0, h1, hpa, hia, hpt, _⟩ => ⟨h0, h1, hpa, hia, hpt, hn⟩
  · exact free (fun _ => same) fun _ _ => id
  · exact free (fun _ => same) fun _ _ => id
  · trivial

theorem State.writeTimeSection_keepsBounds (index : Nat) :
    (s.writeTimeSection index value).Forall (KeepsBounds s) := by
  unfold State.writeTimeSection
  split
  · exact forall_storeNum.mpr fun v _ => .of_timebase id
  · exact forall_storeNum.mpr fun v _ => .of_timebase fun _ => clamp_le (by decide) _
  · trivial

theorem State.writePlans_history (index : Nat) :
    (s.writePlans index value).Forall fun t => t.history = s.history := by
  unfold State.writePlans
  split
  · unfold State.writeMap
    split
    · trivial
    · split <;> trivial
  · split
    · exact forall_storeNat.mpr fun v _ => rfl
    · trivial

theorem State.writePorts_history (index : Nat) :
    (s.writePorts index value).Forall fun t => t.history = s.history := by
  unfold State.writePorts
  split
  · unfold State.writePort; dsimp only; split <;> simp
  · trivial

theorem State.writeOutputs_history (index : Nat) :
    (s.writeOutputs index value).Forall fun t => t.history = s.history := by
  unfold State.writeOutputs
  split_ifs
  · unfold State.writePulse; split <;> simp
  · unfold State.writeCoded; split <;> simp
  · trivial

theorem State.writeControl_history (index : Nat) :
    (s.writeControl index value).Forall fun t => t.history = s.history := by
  unfold State.writeControl
  split
  · unfold State.writeNotice; split <;> simp
  · trivial

theorem State.writeAccess_history (index : Nat) :
    (s.writeAccess index value).Forall fun t => t.history = s.history := by
  unfold State.writeAccess
  split_ifs
  · split <;> trivial
  · split <;> trivial
  · trivial

/-- Of the nine sections SOURCES, STEERING and TIME move what the bounds read, and they keep the bounds. -/
theorem State.storeEntry_keepsBounds (sect index : Nat) :
    (s.storeEntry sect index value).Forall (KeepsBounds s) := by
  have kept {x : Stored} (h : x.Forall fun t => t.history = s.history) : x.Forall (KeepsBounds s) :=
    h.mono fun _ => .of_eq
  unfold State.storeEntry
  split
  · exact kept (s.writeControl_history value index)
  · exact s.writeSources_keepsBounds value index
  · exact s.writeSteering_keepsBounds value index
  · exact s.writeTimeSection_keepsBounds value index
  · exact kept (s.writePlans_history value index)
  · exact kept (s.writePorts_history value index)
  · exact kept (s.writeOutputs_history value index)
  · exact kept (s.writeAccess_history value index)
  · trivial

theorem State.writeAs_keepsBounds (row : WriteRow) : KeepsBounds s (s.writeAs row) := by
  rcases s.writeAs_cases row with h | ⟨r, sect, index, value, -, -, h⟩ <;> rw [h]
  · exact .refl s
  · exact State.runWriteEntry_induct (.refl s) (s.storeEntry_keepsBounds value sect index)
      fun _ _ _ ht => ht.trans (.of_eq (State.respond_history ..))

end EntryWrites

/-! ### Service reset (R61, R109, R183) -/

/-- A block's reset empties the histories or leaves them. -/
theorem BlockReset.keepsBounds {s t : State} {b : ResetBlock} (h : BlockReset s b t) : KeepsBounds s t := by
  have hl : t.timebase.rateLimit = s.timebase.rateLimit := by
    rw [h.timebase]
    split_ifs <;> rfl
  have hs : t.steering.settings = s.steering.settings ∧
      (t.steering.integral = s.steering.integral ∧ t.steering.ring = s.steering.ring ∨
        t.steering.integral = 0 ∧ t.steering.ring = []) := by
    have ht := h.steering
    split_ifs at ht
    · rw [ht]; exact ⟨rfl, .inr ⟨rfl, rfl⟩⟩
    · rcases ht with ht | ⟨-, c, ht⟩ <;> rw [ht] <;> exact ⟨rfl, .inl ⟨rfl, rfl⟩⟩
  obtain ⟨hc, hr⟩ := hs
  constructor
  · unfold IntegralBounded LoopSettingsSound
    rw [hl, hc]
    rintro ⟨hb, hm, hi⟩
    refine ⟨hb, hm, ?_⟩
    rcases hr with ⟨hr, -⟩ | ⟨hr, -⟩ <;> rw [hr]
    · exact hi
    · decide
  · rintro ⟨hb, hu⟩
    refine ⟨?_, fun u => ?_⟩
    · rcases hr with ⟨-, hr⟩ | ⟨-, hr⟩ <;> rw [hr]
      · exact hb
      · decide
    · rw [h.uplink u]
      split_ifs
      · exact DelaysBounded.empty (x := s.uplinks[u].delays) (hu u)
      · exact hu u

theorem State.resetBlocks_keepsBounds (s : State) (done blocks : List ResetBlock) :
    KeepsBounds s (s.resetBlocks done blocks).1 :=
  State.resetBlocks_induct (P := fun v _ => KeepsBounds s v) s done blocks (.refl s)
    fun v d b hv _ => hv.trans (v.resetBlock_reset d b).keepsBounds

theorem State.runServiceReset_keepsBounds (s : State) (r : Running) (blocks : List ResetBlock) :
    KeepsBounds s (s.runServiceReset r blocks) := by
  have hb := s.resetBlocks_keepsBounds r.resetTaken blocks
  have go : KeepsBounds s (if resetComplete (s.resetBlocks r.resetTaken blocks).2 then
      (s.resetBlocks r.resetTaken blocks).1.finishReset r
      else { (s.resetBlocks r.resetTaken blocks).1 with executor :=
        { (s.resetBlocks r.resetTaken blocks).1.executor with
          running := some { r with resetTaken := (s.resetBlocks r.resetTaken blocks).2 } } }) := by
    split <;> exact hb.trans (.of_eq rfl)
  unfold State.runServiceReset
  dsimp only
  split
  · rcases s.checkedWrite_cases r 1 0 _ with ⟨-, h⟩ | ⟨-, -, h⟩ | ⟨-, h⟩ <;> rw [h]
    · exact .of_eq (State.respond_history ..)
    · exact .of_eq (State.respond_history ..)
    · exact go
  · exact go

/-! ### Every command -/

/-- A tick leaves the histories (R2). -/
@[simp] theorem State.tick_history (s : State) : s.tick.history = s.history := by
  unfold State.history
  rw [State.tick_timebase, State.tick_steering, State.tick_uplinks]

@[simp] theorem State.applyStep_history (s : State) (o : StepOrigin) (d : Int) (x : Elapsed) :
    (s.applyStep o d x).history = s.history := rfl

@[simp] theorem State.runStepTime_history (s : State) (r : Running) (sec ns : Int) (x : Elapsed) :
    (s.runStepTime r sec ns x).history = s.history := by
  obtain ⟨v, st, p, h, rfl | rfl⟩ := s.runStepTime_cases r sec ns x <;> rw [h] <;> rfl

/-- Every command keeps the two bounds, each by itself. -/
theorem exec_keepsBounds {c : Instr} {s t : State} (h : exec c s = .next t) : KeepsBounds s t := by
  cases c
  case powerOnReset strap ups links =>
    cases h
    exact ⟨fun _ => powerOn_integralBounded _ _ _ _, fun _ => powerOn_historiesBounded _ _ _ _⟩
  case rateWordTaken | stepRequestApplied =>
    simp only [exec, execRateWordTaken, execStepRequestApplied] at h
    split at h <;> cases h <;> exact .of_eq rfl
  case rateLimitWrite | pairingModeWrite | autoRateArmWrite | sourceEnable | sourceDisable |
      autoUpgradeWrite | programmedClassWrite | steeringOptionsWrite | portMapWrite | epochLengthWrite |
      portEnable | portDisable | writeEntry | accessTableWrite | guardEntryWrite | noticeMaskWrite |
      nestModeWrite =>
    cases h; exact s.writeAs_keepsBounds _
  case serviceReset blocks =>
    cases h
    rcases s.onCommand_cases _ with h | ⟨r, t, -, hf, h⟩ <;> rw [h]
    · exact .refl s
    · split at hf <;> cases hf
      exact s.runServiceReset_keepsBounds r blocks
  case readTime | stepTime | switchSource | discardFallback | armPlan | disarmPlan | clearPortFlags |
      readEntry | lockAccess | linkReset | takeNotice | endService | peekFault | popFault |
      clearFaultOverflow =>
    cases h
    refine .of_eq (State.onCommand_history fun r c t hf => ?_)
    split at hf <;> cases hf
    simp
  -- rows that move what the bounds read
  case uplinkReply =>
    cases h
    split
    · exact .modUplink fun h => h.takeReply _ _ _
    · exact .refl s
  case uplinkLinkDown => cases h; exact .modUplink DelaysBounded.linkDown
  case steeringPhaseEvent =>
    cases h
    split
    · split
      · exact (KeepsBounds.of_eq (State.modFlight_history _ _)).trans (State.takeGoodEvent_keepsBounds ..)
      · exact .of_eq (State.modFlight_history _ _)
    · exact .refl s
  case steeringStepAnnouncement =>
    cases h
    split
    · exact .refl s
    · exact (KeepsBounds.of_eq (State.modFlight_history _ _)).trans (State.takeStepAnnouncement_keepsBounds _ _)
  -- rows without a branch of their own
  case oscillatorTick | pulseEdge | pairingWindowEnd | uplinkCycleStart | selectorCycleStart |
      steeringCycleStart | portCycleStart | portLinkDown | portLinkUp | pulseFall |
      responseDelivered | commandFrameReceived | selectReleased =>
    cases h; exact .of_eq (by simp)
  case uplinkLinkUp => cases h; exact .of_eq (State.modUplink_history rfl)
  -- rows that do nothing unless their event is there
  case answerEntryExpiry | autoRateMeasurement | breakDetected | breakEnd | codedDueTime | codedOutputStep |
      codedTransmissionDone | cycleCut | cycleStart | descriptorRequestDone | falseStart | faultOffered |
      framingError | holdoverExpiry | measuredLeadEnd | noticeCycleStart | noticeLatch | noticeSlotStart |
      portUnexpectedFrame | pulseOutputStep | pulseRiseTime | pulseWindowMiss |
      queryLost | queryReceived | receiveFallingEdge | retryTimerExpiry | selectAsserted |
      selectorPhaseEvent | selectorPulseReport | selectorStep | slotStart |
      uplinkMark | uplinkQuerySlot | uplinkStateMark | uplinkUnexpectedFrame =>
    cases h; refine .of_eq ?_
    split <;> simp
  -- rows whose event, when it is there, is taken in one of two ways
  case inputUnitStep | portCut | portSlotStart | uplinkStep |
      characterReceived | steeringSelectExternal | steeringSelectLocal | commandGrant =>
    cases h; refine .of_eq ?_
    split
    any_goals rfl
    split <;> simp
  case portCompletionReport =>
    cases h; refine .of_eq ?_
    split
    · rfl
    · exact (State.judgeCycle_history _).trans rfl
  case requestTimerExpiry =>
    cases h; refine .of_eq ?_
    split_ifs <;> simp
  case excursionReport =>
    cases h; refine .of_eq ?_
    split
    · rfl
    · dsimp only
      split_ifs <;> simp
  case markDeparture | replyDeparture =>
    cases h; refine .of_eq ?_
    split
    · split
      · split <;> simp
      · rfl
    · rfl

/-- Settles O10: every command keeps the two bounds, each by itself. -/
theorem loopHistoryStaysBounded : Obligations.LoopHistoryStaysBounded := by
  have kept {s t : State} (h : step s = .next t) : KeepsBounds s t := by
    rcases step_cases h with ⟨-, rfl⟩ | ⟨c, rest, -, h'⟩
    · exact .refl _
    · exact KeepsBounds.trans (t := { s with pending := rest }) (.of_eq rfl) (exec_keepsBounds h')
  exact ⟨fun s t hs h => (kept h).integral hs, fun s t hs h => (kept h).depths hs⟩

end Sys2Proof.Machine

/-! SUPPORT. Effective class and compensation of each source, and the numeric fields of a source entry (R53, R62 to
R64, R86, R178). -/

namespace Sys2Proof.Machine

open Sys2Proof.Config Sys2Proof.Safety

/-! ### Effective class and compensation (R53, R63) -/

section Effective

variable (s : State)

theorem State.effectiveClass_inSource (u : InUnit) : s.effectiveClass (inSource u) =
    (s.selector.entries[inSource u].descriptor.bind (·.cls)).getD s.selector.entries[inSource u].cls := by
  simp [State.effectiveClass, State.advertisedClass]

theorem State.effectiveClass_upSource (u : UpUnit) : s.effectiveClass (upSource u) =
    s.uplinks[u].lastClass.getD s.selector.entries[upSource u].cls := by
  simp [State.effectiveClass, State.advertisedClass]

theorem State.compensation_inSource (u : InUnit) : s.compensation (inSource u) =
    some (s.selector.entries[inSource u].cableDelay +
      (s.selector.entries[inSource u].descriptor.bind (·.deviceDelay)).getD
        s.selector.entries[inSource u].deviceDelay) := by
  simp [State.compensation]

theorem State.compensation_upSource (u : UpUnit) : s.compensation (upSource u) =
    s.uplinks[u].mean.map (· + s.selector.entries[upSource u].deviceDelay) := by
  simp [State.compensation]

theorem UplinkUnit.mean_eq (i : UplinkUnit) :
    i.mean = if i.window = [] then none else some (i.window.sum.tdiv i.window.length) := by
  simp only [UplinkUnit.mean, List.isEmpty_iff, towardZero]

end Effective

/-! ### Numeric fields of a source entry (R64, R86, R178) -/

/-- A numeric field of a source entry, from how it is stored and read. -/
theorem entryField_numericWrite {s : State} {r : Running} {e : Ext} {off bytes : Nat} {lo hi : Int}
    {f : Int → SourceEntry → SourceEntry} (h : off < 32)
    (hrow : ∀ value, sourceRow e.val off value = .writeEntry) (hb : fieldWidth lo hi = bytes) (hlh : lo ≤ hi)
    (hs : ∀ value, s.writeSource e off value = storeNum lo hi value fun m => s.modEntry e (f m))
    (hr : ∀ m, lo ≤ m → (s.modEntry e (f m)).readSource e off =
      some (if lo < 0 then beInt bytes m else beBytes bytes m.toNat))
    (hl : s.readSource e off ≠ none) :
    NumericWrite .writeEntry s r 2 (32 * e.val + off) bytes lo hi fun m => s.modEntry e (f m) := by
  refine numericWrite_of_storeNum (row := .writeEntry) rfl
    (fun value => (writeRow_source e h value).trans (hrow value)) (by omega)
    (by rwa [State.readEntry_source _ _ h]) hb hlh
    (fun value => (s.storeEntry_source e h value).trans (hs value)) fun m h0 _ => ?_
  rw [State.readEntry_source _ _ h, hr m h0]

theorem priority_numericWrite (s : State) (r : Running) (e : Ext) :
    NumericWrite .writeEntry s r 2 (32 * e.val + 1) 1 0 7
      (fun m => s.modEntry e fun n => { n with priority := m.toNat }) := by
  refine entryField_numericWrite (by omega) (fun _ => rfl) (by decide) (by omega) (fun _ => rfl) (fun m _ => ?_)
    (Option.some_ne_none _)
  rw [State.readSource, State.modEntry_entries_self, one_eq_beBytes]
  rfl

theorem deviceDelay_numericWrite (s : State) (r : Running) (e : Ext) :
    NumericWrite .writeEntry s r 2 (32 * e.val + 4) 4 (-16000000) 16000000
      (fun m => s.modEntry e fun n => { n with deviceDelay := m }) := by
  refine entryField_numericWrite (by omega) (fun _ => rfl) (by decide) (by omega) (fun _ => rfl) (fun m _ => ?_)
    (Option.some_ne_none _)
  rw [State.readSource, State.modEntry_entries_self]
  rfl

theorem cableDelay_numericWrite (s : State) (r : Running) (u : InUnit) :
    NumericWrite .writeEntry s r 2 (32 * u.val + 3) 4 0 1600000000
      (fun m => s.modEntry (inSource u) fun n => { n with cableDelay := m.toNat }) := by
  have hu : (uplinkOf (inSource u)).isSome = false := by rw [uplinkOf_inSource]; rfl
  refine entryField_numericWrite (e := inSource u) (by omega) (fun _ => rfl) (by decide) (by omega)
    (fun value => ?_) (fun m h0 => ?_) (Option.some_ne_none _)
  · rw [State.writeSource, hu]
    rfl
  · lift m to Nat using h0
    rw [State.readSource, State.cableDelayRead, State.modEntry_entries_self, hu]
    simp only [Int.toNat_natCast, Bool.false_eq_true, if_false, encField_natCast]
    rfl

/-- Settles O29: the two values source by source, then the writes. -/
theorem effectiveClassAndCompensation : Obligations.EffectiveClassAndCompensation := by
  unfold Obligations.EffectiveClassAndCompensation
  refine ⟨fun s => ⟨rfl, fun u => ?_, fun u => ?_⟩, fun s r =>
    ⟨fun e => ⟨priority_numericWrite s r e, deviceDelay_numericWrite s r e⟩, cableDelay_numericWrite s r⟩⟩
  · intro n
    rw [State.effectiveClass_inSource, State.compensation_inSource]
    change (n.descriptor.bind (·.cls)).getD n.cls = _ ∧
      some ((n.cableDelay : Int) + (n.descriptor.bind (·.deviceDelay)).getD n.deviceDelay) = _
    rcases n.descriptor with _ | ⟨_ | d, _ | c, _⟩ <;> exact ⟨rfl, rfl⟩
  · intro n w
    refine ⟨s.effectiveClass_upSource u, ?_⟩
    rw [State.compensation_upSource, UplinkUnit.mean_eq]
    change Option.map (· + n.deviceDelay) (if w = [] then none else some (w.sum.tdiv w.length)) = _
    split_ifs <;> rfl

end Sys2Proof.Machine

/-! SUPPORT. A step announcement and a link change at an uplink unit, and the writes of its settings (R56, R57, R59,
R64, R178). -/

namespace Sys2Proof.Machine

open Sys2Proof.Config Sys2Proof.Safety

/-! ### Steps and links (R56, R57) -/

/-- An outstanding query is cleared, and counted as abandoned when there was one. -/
theorem UplinkUnit.abandon_eq (i : UplinkUnit) : i.abandon = { i with
    outstanding := none
    counters := { i.counters with
      queriesAbandoned := i.counters.queriesAbandoned + (if i.outstanding.isSome = true then 1 else 0) } } := by
  unfold UplinkUnit.abandon
  rcases i with ⟨_, _, _, _, o, _, _, _, _, _, _, _, _, _, _⟩
  cases o <;> simp [UplinkUnit.count]

theorem UplinkUnit.linkDown_of_running {i : UplinkUnit} (hl : i.link = .up) (hr : i.running = true) :
    i.linkDown = { i.abandon with link := .down, sample := none, forward := none, window := [] } := by
  rw [UplinkUnit.linkDown, if_neg (by simp [hl]), if_pos hr]

theorem UplinkUnit.linkDown_of_idle {i : UplinkUnit} (hl : i.link = .up) (hr : i.running = false) :
    i.linkDown = { i with link := .down } := by
  rw [UplinkUnit.linkDown, if_neg (by simp [hl]), if_neg (by simp [hr])]

/-- Two changes of one uplink unit agree when they agree on the unit as it stands. -/
theorem State.modUplink_congr {s : State} {u : UpUnit} {f g : UplinkUnit → UplinkUnit}
    (h : f s.uplinks[u] = g s.uplinks[u]) : s.modUplink u f = s.modUplink u g := by
  unfold State.modUplink
  rw [h]

theorem State.modUplink_getElem (s : State) (u : UpUnit) (f : UplinkUnit → UplinkUnit) :
    (s.modUplink u f).uplinks[u] = f s.uplinks[u] := by
  simp

theorem exec_uplinkStep {s : State} {u : UpUnit} {a : StepAnnouncement} {rest : List StepAnnouncement}
    (h : s.flight.stepsToUplink[u] = a :: rest) :
    exec (.uplinkStep u) s = .next
      (if s.uplinks[u].running = true then
        (s.modFlight fun f => { f with stepsToUplink := f.stepsToUplink.set u rest }).modUplink u
          UplinkUnit.stepped
      else s.modFlight fun f => { f with stepsToUplink := f.stepsToUplink.set u rest }) := by
  simp only [exec, execUplinkStep, h]

/-! ### Where an uplink unit's settings stand, and their writes (R59, R64, R178) -/

theorem State.readEntry_uplink (s : State) (u : UpUnit) {off : Nat} (h : 16 ≤ off) (h' : off < 32)
    (x : Elapsed) : s.readEntry 2 (32 * (upSource u).val + off) x = s.uplinks[u].read off :=
  (s.readEntry_source (upSource u) h' x).trans (s.readSource_upSource u h)

theorem State.storeEntry_uplink (s : State) (u : UpUnit) {off : Nat} (h : 16 ≤ off) (h' : off < 32)
    (value : List Byte) :
    s.storeEntry 2 (32 * (upSource u).val + off) value = s.writeUplink u off value :=
  (s.storeEntry_source (upSource u) h' value).trans (s.writeSource_upSource u h value)

/-- A write of an uplink unit's setting has no row of its own. -/
theorem sourceRow_upSource (u : UpUnit) {off : Nat} (h : 16 ≤ off) (value : List Byte) :
    sourceRow (upSource u).val off value = .writeEntry := by
  have hu : ¬(upSource u).val < 2 := by simp [upSource]
  unfold sourceRow
  split
  · omega
  · omega
  · exact if_neg hu
  · exact if_neg hu
  · rfl

/-- A numeric setting of an uplink unit, from how it is stored and read. -/
theorem uplinkSetting_numericWrite {s : State} {r : Running} {u : UpUnit} {off bytes lo hi : Nat}
    {f : Nat → UplinkSettings → UplinkSettings} (h : 16 ≤ off) (h' : off < 32)
    (hb : fieldWidth lo hi = bytes) (hlh : lo ≤ hi)
    (hs : ∀ value, s.writeUplink u off value =
      storeNat lo hi value fun n => s.modUplink u fun i => { i with settings := f n i.settings })
    (hr : ∀ (i : UplinkUnit) (n : Nat), { i with settings := f n i.settings }.read off = some (beBytes bytes n))
    (hl : s.uplinks[u].read off ≠ none) :
    NumericWrite .writeEntry s r 2 (32 * (upSource u).val + off) bytes lo hi fun m =>
      s.modUplink u fun _ => { s.uplinks[u] with settings := f m.toNat s.uplinks[u].settings } := by
  refine numericWrite_of_storeNum (row := .writeEntry) rfl
    (fun value => (writeRow_source (upSource u) h' value).trans (sourceRow_upSource u h value)) (by omega)
    (by rwa [State.readEntry_uplink _ _ h h']) hb (by exact_mod_cast hlh)
    (fun value => (s.storeEntry_uplink u h h' value).trans (hs value)) fun m h0 _ => ?_
  lift m to Nat using by omega
  rw [State.readEntry_uplink _ _ h h', State.modUplink_getElem, hr, if_neg (by omega)]

/-- Settles O28: the step, the two link changes, then the settings one by one. -/
theorem uplinkStepAndLink : Obligations.UplinkStepAndLink := by
  unfold Obligations.UplinkStepAndLink
  intro s u i c
  refine ⟨fun a rest h => ?_, fun hl => ?_, rfl, fun r => ⟨?_, ?_, ?_, ?_, ?_, ?_⟩⟩
  · rw [exec_uplinkStep h]
    split_ifs
    · refine congrArg Host.Outcome.next (State.modUplink_congr ?_)
      change i.stepped = _
      rw [UplinkUnit.stepped, UplinkUnit.abandon_eq]
    · rfl
  · refine congrArg Host.Outcome.next (State.modUplink_congr ?_)
    change i.linkDown = _
    split_ifs with hr
    · rw [UplinkUnit.linkDown_of_running hl hr, UplinkUnit.abandon_eq]
    · rw [UplinkUnit.linkDown_of_idle hl (by simpa using hr)]
  · exact uplinkSetting_numericWrite (lo := 0) (hi := 1600000) (f := fun n c => { c with ingress := n })
      (by omega) (by omega) (by decide) (by omega) (fun _ => rfl) (fun _ _ => congrArg some (encField_natCast ..))
      (Option.some_ne_none _)
  · exact uplinkSetting_numericWrite (lo := 0) (hi := 1600000) (f := fun n c => { c with egress := n })
      (by omega) (by omega) (by decide) (by omega) (fun _ => rfl) (fun _ _ => congrArg some (encField_natCast ..))
      (Option.some_ne_none _)
  · exact uplinkSetting_numericWrite (lo := 0) (hi := 281474976710655) (f := fun n c => { c with requester := n })
      (by omega) (by omega) (by decide) (by omega) (fun _ => rfl) (fun _ _ => rfl) (Option.some_ne_none _)
  · exact uplinkSetting_numericWrite (lo := 0) (hi := 39) (f := fun n c => { c with slot := n })
      (by omega) (by omega) (by decide) (by omega) (fun _ => rfl) (fun _ _ => congrArg some (one_eq_beBytes _))
      (Option.some_ne_none _)
  · exact uplinkSetting_numericWrite (lo := 1) (hi := 16) (f := fun n c => { c with interval := n })
      (by omega) (by omega) (by decide) (by omega) (fun _ => rfl) (fun _ _ => congrArg some (one_eq_beBytes _))
      (Option.some_ne_none _)
  · exact uplinkSetting_numericWrite (lo := 0) (hi := 16000000) (f := fun n c => { c with maxDelay := n })
      (by omega) (by omega) (by decide) (by omega) (fun _ => rfl) (fun _ _ => congrArg some (encField_natCast ..))
      (Option.some_ne_none _)

end Sys2Proof.Machine

/-! SUPPORT. Frames at an uplink unit: marks confirmed by their flags and words, the released event, and the frames
turned away (R44 to R50, R80). -/

namespace Sys2Proof.Machine

open Sys2Proof.Config Sys2Proof.Safety

/-! ### One uplink unit changed, and what its compensation reads -/

theorem State.modUplink_modUplink (s : State) (u : UpUnit) (f g : UplinkUnit → UplinkUnit) :
    (s.modUplink u f).modUplink u g = s.modUplink u fun i => g (f i) := by
  simp [State.modUplink]

/-- A unit's compensation changes only with its delay window (R63). -/
theorem State.compensation_modUplink (s : State) (u : UpUnit) {f : UplinkUnit → UplinkUnit}
    (h : ∀ i, (f i).window = i.window) :
    (s.modUplink u f).compensation (upSource u) = s.compensation (upSource u) := by
  rw [State.compensation_upSource, State.compensation_upSource, State.modUplink_getElem, UplinkUnit.mean_eq,
    UplinkUnit.mean_eq, h]
  rfl

/-! ### A released sample (R50) -/

/-- The validity of a released sample, from its unit's compensation (R16, R50). -/
def releaseValidity (t1 t2 : Stamp) : Option Int → Validity
  | none => .bad .badDelayAbsent
  | some d => goodValidity t2 t1 d

/-- The phase event of a sample released by unit `u` (R50). -/
def State.releaseEvent (s : State) (u : UpUnit) (t1 t2 : Stamp) : PhaseEvent :=
  ⟨upSource u, releaseValidity t1 t2 (s.compensation (upSource u)), some t1, some t2,
    s.compensation (upSource u)⟩

/-- A unit with a sample of the stamps `t1` and `t2` released (R50). -/
def UplinkUnit.releasing (i : UplinkUnit) (t1 t2 : Stamp) : UplinkUnit :=
  { i with
    forward := some (t2.diff t1), released := true
    counters := { i.counters with released := i.counters.released + 1 } }

theorem State.release_eq (s : State) (u : UpUnit) (t1 t2 : Stamp) :
    s.release u t1 t2 = (s.modUplink u fun i => i.releasing t1 t2).toSelector (upSource u)
      (.phase (s.releaseEvent u t1 t2)) := by
  unfold State.release State.releaseEvent
  cases s.compensation (upSource u) <;> rfl

/-- A release after a change of its unit that keeps the delay window. -/
theorem State.release_modUplink (s : State) (u : UpUnit) {f : UplinkUnit → UplinkUnit}
    (h : ∀ i, (f i).window = i.window) (t1 t2 : Stamp) :
    (s.modUplink u f).release u t1 t2 = (s.modUplink u fun i => (f i).releasing t1 t2).toSelector (upSource u)
      (.phase (s.releaseEvent u t1 t2)) := by
  rw [State.release_eq, State.modUplink_modUplink, State.releaseEvent, s.compensation_modUplink u h]
  rfl

/-! ### Confirmation (R46 to R48) -/

theorem UplinkUnit.displace_eq (i : UplinkUnit) : i.displace = { i with
    sample := none
    counters := { i.counters with
      incomplete := i.counters.incomplete + (if i.sample.isSome = true then 1 else 0) } } := by
  unfold UplinkUnit.displace
  rcases i with ⟨_, _, o, _, _, _, _, _, _, _, _, _, _, _, _⟩
  cases o <;> simp [UplinkUnit.count]

section Confirm

variable {s : State} {u : UpUnit} {m : MarkFields} {t1 t2 : Stamp}

theorem State.confirm_neither (ho : m.opening = false) (hc : m.closing = false) : s.confirm u m t1 t2 = s := by
  rw [State.confirm, ho, hc]

theorem State.confirm_opening (ho : m.opening = true) (hc : m.closing = false) : s.confirm u m t1 t2 =
    s.modUplink u fun i => { i.displace with sample := some ⟨t1, t2, m.word⟩ } := by
  rw [State.confirm, ho, hc]

theorem State.confirm_both (ho : m.opening = true) (hc : m.closing = true) : s.confirm u m t1 t2 =
    (s.modUplink u UplinkUnit.displace).release u t1 t2 := by
  rw [State.confirm, ho, hc]

theorem State.confirm_unopened (ho : m.opening = false) (hc : m.closing = true)
    (hs : s.uplinks[u].sample = none) : s.confirm u m t1 t2 =
      s.modUplink u fun i => i.count fun c => { c with unopened := c.unopened + 1 } := by
  rw [State.confirm, ho, hc]
  simp only [hs]

theorem State.confirm_closing {h : Sample} (ho : m.opening = false) (hc : m.closing = true)
    (hs : s.uplinks[u].sample = some h) : s.confirm u m t1 t2 =
      if h.word = m.word then (s.modUplink u fun i => { i with sample := none }).release u h.t1 h.t2
      else s.modUplink u fun i => { i with
        sample := none, counters := { i.counters with mismatch := i.counters.mismatch + 1 } } := by
  rw [State.confirm, ho, hc]
  simp only [hs, State.modUplink_modUplink]
  rfl

end Confirm

/-! ### Frames taken and turned away (R44) -/

theorem UplinkUnit.listening_iff {i : UplinkUnit} : i.listening = true ↔ i.running = true ∧ i.link = .up := by
  simp [UplinkUnit.listening]

section Frames

variable {s : State} {u : UpUnit} {bytes : List Byte}

/-- A MARK is counted, and then confirmed (R45 to R48). -/
theorem exec_uplinkMark {m : MarkFields} (hl : s.uplinks[u].listening = true)
    (hf : uplinkFrame bytes = some (.mark m)) (x : Elapsed) :
    exec (.uplinkMark u bytes x) s = .next
      ((s.modUplink u fun i => i.count fun c => { c with marks := c.marks + 1 }).confirm u m (markT1 m)
        (s.uplinks[u].t2 (s.reading x))) := by
  simp only [exec, execUplinkMark, hl, hf, State.takeMark]

theorem exec_uplinkUnexpectedFrame_bad (hl : s.uplinks[u].listening = true) (hf : uplinkFrame bytes = none) :
    exec (.uplinkUnexpectedFrame u bytes) s = .next
      (s.modUplink u fun i => i.count fun c => { c with badFrames := c.badFrames + 1 }) := by
  simp only [exec, execUplinkUnexpectedFrame, hl, hf]

theorem exec_uplinkUnexpectedFrame_query {r : Nat} {q : Seq} (hl : s.uplinks[u].listening = true)
    (hf : uplinkFrame bytes = some (.query r q)) :
    exec (.uplinkUnexpectedFrame u bytes) s = .next
      (s.modUplink u fun i => i.count fun c => { c with unexpected := c.unexpected + 1 }) := by
  simp only [exec, execUplinkUnexpectedFrame, hl, hf]

/-- An IDLE unit, or one whose link is down, takes no frame. -/
theorem exec_frame_of_not_listening (hl : s.uplinks[u].listening = false) (x : Elapsed) :
    exec (.uplinkMark u bytes x) s = .next s ∧ exec (.uplinkStateMark u bytes x) s = .next s ∧
      exec (.uplinkReply u bytes) s = .next s ∧ exec (.uplinkUnexpectedFrame u bytes) s = .next s := by
  simp only [exec, execUplinkMark, execUplinkStateMark, execUplinkReply, execUplinkUnexpectedFrame, hl,
    and_self]

end Frames

/-- Settles O25: the four flag cases of a MARK, then the frames turned away. -/
theorem uplinkFramesConfirmed : Obligations.UplinkFramesConfirmed := by
  unfold Obligations.UplinkFramesConfirmed
  refine ⟨fun s u bytes m x hr hl hf => ?_, fun s u bytes x => ⟨fun hr hl => ⟨fun hf => ?_, fun r q hf => ?_⟩,
    fun h => ?_⟩⟩
  · intro i t1 t2 c lost becomes releases
    have hx := exec_uplinkMark (UplinkUnit.listening_iff.mpr ⟨hr, hl⟩) hf x
    have hi : (s.modUplink u fun i => i.count fun c => { c with marks := c.marks + 1 }).uplinks[u] =
        { i with counters := c } := State.modUplink_getElem ..
    have next {f : UplinkUnit → UplinkUnit} {j : UplinkUnit} (hj : f i = j) :
        s.modUplink u f = s.modUplink u fun _ => j := State.modUplink_congr hj
    have released {f : UplinkUnit → UplinkUnit} {k : UplinkCounters} {a b : Stamp}
        (hw : ∀ j, (f j).window = j.window) (hk : f i = { i with sample := none, counters := k })
        (h : exec (.uplinkMark u bytes x) s = .next ((s.modUplink u f).release u a b)) : releases k a b := by
      rw [State.release_modUplink s u hw] at h
      refine h.trans (congrArg _ (congrArg₂ _ (next ?_) ?_))
      · rw [hk]
        rfl
      · unfold State.releaseEvent
        cases s.compensation (upSource u) <;> rfl
    refine ⟨fun ho hc => ?_, fun ho hc => ?_, fun ho hc => ?_, fun ho hc => ⟨fun hs => ?_, fun h hs =>
      ⟨fun hw => ?_, fun hw => ?_⟩⟩⟩
    · exact hx.trans (congrArg _ ((State.confirm_neither ho hc).trans (next rfl)))
    · rw [State.confirm_opening ho hc, State.modUplink_modUplink] at hx
      refine hx.trans (congrArg _ (next ?_))
      rw [UplinkUnit.displace_eq]
      rfl
    · rw [State.confirm_both ho hc, State.modUplink_modUplink] at hx
      refine released (fun j => ?_) ?_ hx
      · rw [UplinkUnit.displace_eq]
        rfl
      · rw [UplinkUnit.displace_eq]
        rfl
    · rw [State.confirm_unopened ho hc (by rw [hi]; exact hs), State.modUplink_modUplink] at hx
      exact hx.trans (congrArg _ (next rfl))
    · rw [State.confirm_closing ho hc (by rw [hi]; exact hs), if_pos hw, State.modUplink_modUplink] at hx
      refine released ?_ ?_ hx
      · exact fun _ => rfl
      · rfl
    · rw [State.confirm_closing ho hc (by rw [hi]; exact hs), if_neg hw, State.modUplink_modUplink] at hx
      exact hx.trans (congrArg _ (next rfl))
  · exact exec_uplinkUnexpectedFrame_bad (UplinkUnit.listening_iff.mpr ⟨hr, hl⟩) hf
  · exact exec_uplinkUnexpectedFrame_query (UplinkUnit.listening_iff.mpr ⟨hr, hl⟩) hf
  · refine exec_frame_of_not_listening ?_ x
    rw [Bool.eq_false_iff, Ne, UplinkUnit.listening_iff]
    rintro ⟨hr, hl⟩
    rcases h with h | h <;> simp_all

end Sys2Proof.Machine

/-! SUPPORT. A STATE at an uplink unit: the upstream class and scale offset, and then a mark for confirmation (R49,
R80, R105). -/

namespace Sys2Proof.Machine

open Sys2Proof.Config Sys2Proof.Safety

/-- A selection changes no uplink unit (R74). -/
@[simp] theorem State.selectSource_uplinks (s : State) (i : Source) : (s.selectSource i).uplinks = s.uplinks := by
  rw [State.selectSource_eq]; split <;> rfl

@[simp] theorem State.upgradeTest_uplinks (s : State) : s.upgradeTest.uplinks = s.uplinks := by
  rcases s.upgradeTest_cases with h | ⟨b, -, -, h⟩ <;> simp [h]

/-- The upgrade test that may follow a change of class changes no uplink unit. -/
theorem State.withClassChange_uplinks (s : State) (e : Ext) (f : State → State) :
    (s.withClassChange e f).uplinks = (f s).uplinks := by
  rcases s.withClassChange_cases e f with h | h <;> simp [h]

@[simp] theorem State.followScale_uplinks (s : State) (e : Ext) : (s.followScale e).uplinks = s.uplinks := by
  unfold State.followScale; split <;> rfl

/-- The scale offset is presented anew while the unit's source is steered by, and else stays (R105). -/
theorem State.followScale_upSource (s : State) (u : UpUnit) : s.followScale (upSource u) = s.modSteering fun v =>
    { v with scale := if v.steered = some (upSource u) then s.uplinks[u].lastScale else v.scale } := by
  have hu : s.unitScale (upSource u) = s.uplinks[u].lastScale := by
    rw [State.unitScale, inputOf_upSource, uplinkOf_upSource]
  unfold State.followScale State.modSteering
  by_cases h : s.steering.steered = some (upSource u)
  · simp only [h, hu, if_true]
  · simp only [h, if_false]

/-- A STATE is a MARK of the same fields once its class and scale offset are taken (R49). -/
theorem exec_uplinkStateMark {s : State} {u : UpUnit} {bytes other : List Byte} {m : MarkFields} {t : Trailer}
    (hl : s.uplinks[u].listening = true) (hf : uplinkFrame bytes = some (.state m t))
    (ho : uplinkFrame other = some (.mark m)) (x : Elapsed) :
    exec (.uplinkStateMark u bytes x) s = exec (.uplinkMark u other x) (s.takeUpstream u m.cls t.scale) := by
  have ht : (s.takeUpstream u m.cls t.scale).uplinks[u].listening = true := by
    rw [State.takeUpstream, State.followScale_uplinks, State.withClassChange_uplinks, State.modUplink_getElem]
    exact hl
  have hr : (s.takeUpstream u m.cls t.scale).reading x = s.reading x := by
    rw [State.reading, State.takeUpstream_timebase]
    rfl
  simp only [exec, execUplinkStateMark, execUplinkMark, hl, hf, ht, ho, hr]

/-- Settles O26: the class and the scale offset, then the mark. -/
theorem stateMarkSetsUpstreamClass : Obligations.StateMarkSetsUpstreamClass := by
  unfold Obligations.StateMarkSetsUpstreamClass
  intro s u bytes other m t x hr hl hf ho taken
  refine ⟨exec_next _ _, _, s.withClassChange_classJudged (upSource u) fun v =>
    v.modUplink u fun i => { i with lastClass := some m.cls, lastScale := t.scale }, ?_⟩
  have hs : (s.withClassChange (upSource u) fun v =>
      v.modUplink u fun i => { i with lastClass := some m.cls, lastScale := t.scale }).uplinks[u].lastScale =
        t.scale := by
    rw [State.withClassChange_uplinks, State.modUplink_getElem]
  rw [exec_uplinkStateMark (UplinkUnit.listening_iff.mpr ⟨hr, hl⟩) hf ho, State.takeUpstream,
    State.followScale_upSource, hs]

end Sys2Proof.Machine

/-! SUPPORT. Ranging at an uplink unit: replies, query slots, and the cycle starts that age queries and judge cycles
(R51 to R54). -/

namespace Sys2Proof.Machine

open Sys2Proof.Config Sys2Proof.Safety

/-! ### Replies (R53) -/

theorem exec_uplinkReply {s : State} {u : UpUnit} {bytes : List Byte} {r : Nat} {q : Seq} {sec ns c cls : Nat}
    (hl : s.uplinks[u].listening = true) (hf : uplinkFrame bytes = some (.reply r q sec ns c cls)) :
    exec (.uplinkReply u bytes) s = .next
      (s.modUplink u fun i => i.takeReply r q ((Stamp.mk sec ns 0).plus c)) := by
  simp only [exec, execUplinkReply, hl, hf]

section Replies

variable {i : UplinkUnit} {r : Nat} {q : Seq} {t4 : Stamp}

/-- A reply that matches no outstanding query is dropped. -/
theorem UplinkUnit.takeReply_of_unmatched
    (h : i.outstanding = none ∨ ∃ o, i.outstanding = some o ∧ (o.requester ≠ r ∨ o.seq ≠ q)) :
    i.takeReply r q t4 = i.count fun c => { c with repliesDropped := c.repliesDropped + 1 } := by
  unfold UplinkUnit.takeReply
  rcases h with h | ⟨o, h, hne⟩
  · simp only [h]
  · simp only [h]
    rw [if_neg (by tauto)]

/-- A unit whose outstanding query a reply matches, and what it counts further (R53). -/
def UplinkUnit.matched (i : UplinkUnit) (f : UplinkCounters → UplinkCounters) : UplinkUnit :=
  { i with
    outstanding := none
    counters := f { i.counters with repliesMatched := i.counters.repliesMatched + 1 } }

variable {o : Outstanding} (ho : i.outstanding = some o) (hr : o.requester = r) (hq : o.seq = q)

include ho hr hq

/-- Without a forward difference a matching reply forms no delay. -/
theorem UplinkUnit.takeReply_of_no_forward (hf : i.forward = none) : i.takeReply r q t4 =
    i.matched fun c => { c with repliesNoForward := c.repliesNoForward + 1 } := by
  unfold UplinkUnit.takeReply
  simp only [ho, hf]
  rw [if_pos ⟨hr, hq⟩]
  simp only [UplinkUnit.count, UplinkUnit.matched]

section Forward

variable {f : Int} (hf : i.forward = some f)

include hf

/-- A delay within its limits is accepted into the delay window. -/
theorem UplinkUnit.takeReply_accepts
    (hd : 0 ≤ formDelay f t4 o.t3 ∧ formDelay f t4 o.t3 ≤ i.settings.maxDelay) : i.takeReply r q t4 =
      { i.matched (fun c => { c with delaysAccepted := c.delaysAccepted + 1 }) with
        window := pushBounded delayDepth i.window (formDelay f t4 o.t3) } := by
  unfold UplinkUnit.takeReply
  simp only [ho, hf]
  rw [if_pos ⟨hr, hq⟩, if_pos hd]
  simp only [UplinkUnit.count, UplinkUnit.matched]

theorem UplinkUnit.takeReply_refuses
    (hd : ¬(0 ≤ formDelay f t4 o.t3 ∧ formDelay f t4 o.t3 ≤ i.settings.maxDelay)) : i.takeReply r q t4 =
      i.matched fun c => { c with badDelays := c.badDelays + 1 } := by
  unfold UplinkUnit.takeReply
  simp only [ho, hf]
  rw [if_pos ⟨hr, hq⟩, if_neg hd]
  simp only [UplinkUnit.count, UplinkUnit.matched]

end Forward

end Replies

/-! ### Query slots (R51, R52) -/

theorem UplinkUnit.scheduled_iff {i : UplinkUnit} {n : Nat} :
    i.scheduled n = true ↔ n % i.settings.interval = 0 ∨ i.window = [] := by
  simp [UplinkUnit.scheduled]

/-- At the query slot of cycle `n` the unit sends a query, or counts one as skipped (R51). -/
def UplinkUnit.Asks (i : UplinkUnit) (n : Nat) (cut : Bool) : Prop :=
  i.running = true ∧ i.link = .up ∧ cut = false ∧ i.cut = false ∧
    (n % i.settings.interval = 0 ∨ i.window = [])

section QuerySlot

variable {i : UplinkUnit} {n : Nat} {cut : Bool} (u : UpUnit) (d : Stamp)

theorem UplinkUnit.querySlot_of_not_asks (h : ¬i.Asks n cut) : i.querySlot u n cut d = i := by
  unfold UplinkUnit.querySlot
  split_ifs with h1 h2 h3
  · rfl
  · rfl
  · rfl
  · refine absurd ?_ h
    have hl : i.link = .up := by
      cases hi : i.link
      · rfl
      · exact absurd hi h2
    simp only [Bool.or_eq_true, Bool.not_eq_true', not_or, Bool.not_eq_false, Bool.not_eq_true] at h1 h3
    exact ⟨h1.1, hl, h3.1, h3.2, UplinkUnit.scheduled_iff.mp h1.2⟩

section Asks

variable (h : i.Asks n cut)

include h

theorem UplinkUnit.querySlot_sends (ho : i.outstanding = none) : i.querySlot u n cut d = i.sendQuery u d := by
  obtain ⟨hr, hl, hc, hi, hs⟩ := h
  simp [UplinkUnit.querySlot, hr, UplinkUnit.scheduled_iff.mpr hs, hc, hi, hl, ho]

theorem UplinkUnit.querySlot_skips {o : Outstanding} (ho : i.outstanding = some o) : i.querySlot u n cut d =
    i.count fun c => { c with queriesSkipped := c.queriesSkipped + 1 } := by
  obtain ⟨hr, hl, hc, hi, hs⟩ := h
  simp [UplinkUnit.querySlot, hr, UplinkUnit.scheduled_iff.mpr hs, hc, hi, hl, ho]

end Asks

end QuerySlot

theorem exec_uplinkQuerySlot {s : State} {u : UpUnit} {k n : Nat} {cut : Bool} {instant : Stamp}
    {rest : List CycleEvent} (h : s.flight.cyclesToUplink[u] = .slot k n cut instant :: rest) (x : Elapsed) :
    exec (.uplinkQuerySlot u x) s = .next
      ((s.modFlight fun f => { f with cyclesToUplink := f.cyclesToUplink.set u rest }).modUplink u
        fun i => i.querySlot u n cut instant) := by
  simp only [exec, execUplinkQuerySlot, h]

/-! ### Cycle starts (R54) -/

section CycleStart

variable {s : State} {u : UpUnit} {n : Nat} {resume : Bool} {instant : Stamp} {rest : List CycleEvent}
  (h : s.flight.cyclesToUplink[u] = .start n resume instant :: rest)

include h

theorem exec_uplinkCycleStart (x : Elapsed) : exec (.uplinkCycleStart u x) s = .next
    ((s.modFlight fun f => { f with cyclesToUplink := f.cyclesToUplink.set u rest }).uplinkCycle u n instant) := by
  simp only [exec, execUplinkCycleStart, State.takeUplinkCycle, h]

/-- QUERY_LOST is the cycle start at which a query is given up. -/
theorem exec_queryLost {o : Outstanding} (hr : s.uplinks[u].running = true) (ho : s.uplinks[u].outstanding = some o)
    (hs : o.seen ≠ 0) (x : Elapsed) : exec (.queryLost u x) s = exec (.uplinkCycleStart u x) s := by
  have hd : s.queryLossDue u = true := by
    unfold State.queryLossDue
    rw [h, ho, hr]
    exact decide_eq_true hs
  simp only [exec, execQueryLost, execUplinkCycleStart, hd, if_true]

end CycleStart

theorem UplinkUnit.age_of_none {i : UplinkUnit} (h : i.outstanding = none) : i.age = i := by
  simp only [UplinkUnit.age, h]

theorem UplinkUnit.age_of_unseen {i : UplinkUnit} {o : Outstanding} (h : i.outstanding = some o)
    (hs : o.seen = 0) : i.age = { i with outstanding := some { o with seen := 1 } } := by
  simp only [UplinkUnit.age, h, hs, if_true]

theorem UplinkUnit.age_of_seen {i : UplinkUnit} {o : Outstanding} (h : i.outstanding = some o)
    (hs : o.seen ≠ 0) :
    i.age = { i.count (fun c => { c with queriesLost := c.queriesLost + 1 }) with outstanding := none } := by
  simp only [UplinkUnit.age, h, hs, if_false]

/-- A cycle start taken by a RUNNING unit: the query aged, the flags, the query of a query slot of 0, and the
report of a judged cycle. -/
theorem State.uplinkCycle_of_running {s : State} {u : UpUnit} (hr : s.uplinks[u].running = true) (n : Nat)
    (d : Stamp) : s.uplinkCycle u n d =
      let j := { s.uplinks[u].age with released := false, judging := true, cut := false }
      let t := s.modUplink u fun _ => if s.uplinks[u].settings.slot = 0 then j.querySlot u n false d else j
      if s.uplinks[u].judging = true then
        t.toSelector (upSource u) (.report (if s.uplinks[u].released = true then .accepted else .miss))
      else t := by
  unfold State.uplinkCycle UplinkUnit.judgement
  rw [if_pos hr]
  cases s.uplinks[u].judging <;> rfl

/-- Settles O27: replies, query slots, cycle starts. -/
theorem uplinkRangesAndJudges : Obligations.UplinkRangesAndJudges := by
  unfold Obligations.UplinkRangesAndJudges
  refine ⟨fun s u bytes r q sec ns c cls hr hl hf => ?_, fun s u k n cut instant rest x h => ?_,
    fun s u n resume instant rest x h hr => ?_⟩
  · intro i t4 k becomes
    have becomes_of {j : UplinkUnit} (hj : i.takeReply r q t4 = j) : becomes j :=
      (exec_uplinkReply (UplinkUnit.listening_iff.mpr ⟨hr, hl⟩) hf).trans
        (congrArg _ (State.modUplink_congr hj))
    refine ⟨fun ho => becomes_of (UplinkUnit.takeReply_of_unmatched ho), fun o ho hor hoq => ⟨fun hf => ?_,
      fun f hf => ?_⟩⟩
    · exact becomes_of (UplinkUnit.takeReply_of_no_forward ho hor hoq hf)
    · intro delay
      split
      · next hd => exact becomes_of (UplinkUnit.takeReply_accepts ho hor hoq hf hd)
      · next hd => exact becomes_of (UplinkUnit.takeReply_refuses ho hor hoq hf hd)
  · intro i taken becomes scheduled
    have becomes_of {j : UplinkUnit} (hj : i.querySlot u n cut instant = j) : becomes j :=
      (exec_uplinkQuerySlot h x).trans (congrArg _ (State.modUplink_congr hj))
    exact ⟨fun hs => becomes_of (UplinkUnit.querySlot_of_not_asks u instant hs), fun hs =>
      ⟨fun ho => becomes_of (UplinkUnit.querySlot_sends u instant hs ho), fun o ho =>
        becomes_of (UplinkUnit.querySlot_skips u instant hs ho)⟩⟩
  · intro i taken result
    have starts {o : Option Outstanding} {c : UplinkCounters}
        (ha : i.age = { i with outstanding := o, counters := c }) :
        exec (.uplinkCycleStart u x) s = .next (result o c) := by
      refine (exec_uplinkCycleStart h x).trans (congrArg _ ?_)
      refine (State.uplinkCycle_of_running (s := taken) hr n instant).trans ?_
      have hi : taken.uplinks[u].age = { i with outstanding := o, counters := c } := ha
      rw [hi]
    refine ⟨fun ho => starts ((UplinkUnit.age_of_none ho).trans ?_), fun o ho =>
      ⟨fun hs => starts (UplinkUnit.age_of_unseen ho hs), fun hs => ?_⟩⟩
    · rw [← ho]
    · intro lost
      have hlost := starts (UplinkUnit.age_of_seen ho hs)
      exact ⟨hlost, (exec_queryLost h hr ho hs x).trans hlost⟩

end Sys2Proof.Machine

/-! SUPPORT. What leaves the selector alone (R62 to R89): every operation of the other blocks, chapter by
chapter, and the commands made of them. -/

namespace Sys2Proof.Machine

open Sys2Proof.Config Sys2Proof.Safety

section SelectorFrame

variable (s : State)

/-! ### Answers of the executor -/

@[simp] theorem State.answer_selector (r : Running) (st : Status) : (s.answer r st).selector = s.selector := rfl

/-- A checked write moves the selector only as its continuation does. -/
theorem State.checkedWrite_selector {s : State} {r : Running} {sect index : Nat} {k : State}
    (hk : k.selector = s.selector) : (s.checkedWrite r sect index k).selector = s.selector := by
  rcases s.checkedWrite_cases r sect index k with ⟨-, h⟩ | ⟨-, -, h⟩ | ⟨-, h⟩ <;> simp [h, hk]

/-- A row of the executor keeps the selector when every command it accepts does. -/
theorem State.onCommand_selector {s : State} {f : Running → Command → Option State}
    (hf : ∀ r c t, f r c = some t → t.selector = s.selector) : (s.onCommand f).selector = s.selector := by
  rcases s.onCommand_cases f with h | ⟨r, t, -, h, h'⟩
  · rw [h]
  · rw [h', hf r _ t h]

/-! ### Input units (chapter 2) -/

@[simp] theorem State.followScale_selector (e : Ext) : (s.followScale e).selector = s.selector := by
  unfold State.followScale; split <;> rfl

@[simp] theorem State.formPair_selector (u : InUnit) (tod : TimeOfDay) (c : Stamp) :
    (s.formPair u tod c).selector = s.selector := by
  unfold State.formPair; dsimp only; split <;> simp

@[simp] theorem unpaired_selector (u : InUnit) : (unpaired s u).selector = s.selector := by
  unfold unpaired; dsimp only; split <;> rfl

@[simp] theorem State.emitUnpaired_selector (u : InUnit) : (s.emitUnpaired u).selector = s.selector := by
  simp [State.emitUnpaired_eq]

@[simp] theorem State.settleHeld_selector (u : InUnit) (now : Stamp) :
    (s.settleHeld u now).selector = s.selector := by
  unfold State.settleHeld; split <;> simp

@[simp] theorem State.orphan_selector (u : InUnit) : (s.orphan u).selector = s.selector := rfl

@[simp] theorem State.pairPulse_selector (u : InUnit) (c : Stamp) : (s.pairPulse u c).selector = s.selector := by
  unfold State.pairPulse
  split
  · simp
  · split <;> simp

@[simp] theorem State.pairSentence_selector (u : InUnit) (tod : TimeOfDay) (now : Stamp) :
    (s.pairSentence u tod now).selector = s.selector := by
  unfold State.pairSentence
  dsimp only
  split
  · split <;> simp
  · simp

@[simp] theorem State.acceptPulse_selector (u : InUnit) (c : Stamp) (n : Count) :
    (s.acceptPulse u c n).selector = s.selector := by
  simp [State.acceptPulse]

@[simp] theorem State.pulse_selector (u : InUnit) (c : Stamp) : (s.pulse u c).selector = s.selector := by
  unfold State.pulse
  dsimp only
  split
  · simp
  · simp
  · split <;> simp

@[simp] theorem State.miss_selector (u : InUnit) : (s.miss u).selector = s.selector := rfl

/-- A fold of operations that each keep the selector keeps it. -/
theorem foldl_selector {α : Type} {f : State → α → State} (hf : ∀ v a, (f v a).selector = v.selector)
    (l : List α) (s : State) : (l.foldl f s).selector = s.selector := by
  induction l generalizing s with
  | nil => rfl
  | cons a l ih => rw [List.foldl_cons, ih, hf]

@[simp] theorem State.modInputOf_selector (e : Ext) (f : InputUnit → InputUnit) :
    (s.modInputOf e f).selector = s.selector := by
  unfold State.modInputOf; split <;> rfl

@[simp] theorem State.modUplinkOf_selector (e : Ext) (f : UplinkUnit → UplinkUnit) :
    (s.modUplinkOf e f).selector = s.selector := by
  unfold State.modUplinkOf; split <;> rfl

@[simp] theorem State.leaveTrial_selector (e : Ext) : (s.leaveTrial e).selector = s.selector :=
  s.modInputOf_selector e _

@[simp] theorem State.maskOptions_selector : s.maskOptions.selector = s.selector := rfl

/-! ### Uplink units (chapter 3) -/

@[simp] theorem State.release_selector (u : UpUnit) (t1 t2 : Stamp) :
    (s.release u t1 t2).selector = s.selector := rfl

@[simp] theorem State.confirm_selector (u : UpUnit) (m : MarkFields) (t1 t2 : Stamp) :
    (s.confirm u m t1 t2).selector = s.selector := by
  unfold State.confirm
  split
  · simp
  · simp
  · split
    · rfl
    · dsimp only; split <;> simp
  · rfl

@[simp] theorem State.takeMark_selector (u : UpUnit) (m : MarkFields) (a : Stamp) :
    (s.takeMark u m a).selector = s.selector := by
  simp [State.takeMark]

@[simp] theorem State.uplinkCycle_selector (u : UpUnit) (n : Nat) (d : Stamp) :
    (s.uplinkCycle u n d).selector = s.selector := by
  unfold State.uplinkCycle
  dsimp only
  split
  · split <;> rfl
  · rfl

@[simp] theorem State.takeUplinkCycle_selector (u : UpUnit) : (s.takeUplinkCycle u).selector = s.selector := by
  unfold State.takeUplinkCycle; split <;> simp

/-! ### Steering unit (chapter 5) -/

@[simp] theorem State.requestStep_selector (e : Ext) (d : Int) : (s.requestStep e d).selector = s.selector := rfl

@[simp] theorem State.lockTest_selector (c : Int) : (s.lockTest c).selector = s.selector := by
  unfold State.lockTest; dsimp only; split_ifs <;> rfl

@[simp] theorem State.reportExcursion_selector (e : Ext) (h : Bool) :
    (s.reportExcursion e h).selector = s.selector := rfl

@[simp] theorem State.excursionTest_selector (e : Ext) (c : Int) :
    (s.excursionTest e c).selector = s.selector := by
  unfold State.excursionTest; dsimp only; split_ifs <;> rfl

@[simp] theorem State.steer_selector (e : Ext) (c : Int) : (s.steer e c).selector = s.selector := by
  unfold State.steer; dsimp only; split <;> simp

@[simp] theorem State.takeGoodEvent_selector (e : Ext) (c x : Int) :
    (s.takeGoodEvent e c x).selector = s.selector := by
  unfold State.takeGoodEvent; dsimp only; split_ifs <;> simp

@[simp] theorem State.takeStepAnnouncement_selector (o : StepOrigin) :
    (s.takeStepAnnouncement o).selector = s.selector := by
  unfold State.takeStepAnnouncement; dsimp only; split <;> rfl

@[simp] theorem State.acquireSource_selector (e : Ext) : (s.acquireSource e).selector = s.selector := by
  unfold State.acquireSource; dsimp only; split <;> rfl

@[simp] theorem State.leaveSource_selector : s.leaveSource.selector = s.selector := by
  unfold State.leaveSource
  split
  · rfl
  · dsimp only; split <;> rfl

@[simp] theorem State.ageHoldover_selector (n : Nat) : (s.ageHoldover n).selector = s.selector := by
  unfold State.ageHoldover; split_ifs <;> rfl

@[simp] theorem State.steeringCycle_selector : s.steeringCycle.selector = s.selector := by
  unfold State.steeringCycle; split <;> simp

/-! ### Cycle timer and plan store (chapter 6) -/

@[simp] theorem State.activatePlan_selector : s.activatePlan.selector = s.selector := by
  unfold State.activatePlan; dsimp only; split <;> rfl

@[simp] theorem State.countRequests_selector (u : InUnit) : (s.countRequests u).selector = s.selector := by
  unfold State.countRequests; split <;> rfl

@[simp] theorem State.handCycle_selector (n : Nat) (b : Bool) (i : Stamp) :
    (s.handCycle n b i).selector = s.selector := rfl

@[simp] theorem State.startCycle_selector (n : Nat) (i : Stamp) : (s.startCycle n i).selector = s.selector := by
  unfold State.startCycle; dsimp only; split <;> simp

@[simp] theorem State.handSlot_selector (k n : Nat) (i : Stamp) : (s.handSlot k n i).selector = s.selector := rfl

@[simp] theorem State.startSlot_selector (k : Nat) (i : Stamp) : (s.startSlot k i).selector = s.selector := by
  unfold State.startSlot; split <;> simp

@[simp] theorem State.cutCycle_selector : s.cutCycle.selector = s.selector := rfl

@[simp] theorem State.runArmPlan_selector (r : Running) (b n : Nat) :
    (s.runArmPlan r b n).selector = s.selector := by
  unfold State.runArmPlan
  split
  · rfl
  · split
    · rfl
    · split_ifs
      · rfl
      · rfl
      · split <;> rfl

@[simp] theorem State.runDisarmPlan_selector (r : Running) : (s.runDisarmPlan r).selector = s.selector := by
  refine State.checkedWrite_selector ?_
  split <;> rfl

/-! ### Distribution ports (chapter 7) -/

@[simp] theorem State.portCycle_selector (p : Port) (n : Nat) (nm : Option (BankName × Nat)) :
    (s.portCycle p n nm).selector = s.selector := by
  unfold State.portCycle
  split
  · split
    · dsimp only; split <;> simp
    · rfl
  · rfl

@[simp] theorem State.takePortCycle_selector (p : Port) : (s.takePortCycle p).selector = s.selector := by
  unfold State.takePortCycle; split <;> simp

@[simp] theorem State.sendMark_selector (p : Port) (k : Nat) (b : Bool) (x : Elapsed) :
    (s.sendMark p k b x).selector = s.selector := by
  unfold State.sendMark; dsimp only; split <;> rfl

@[simp] theorem State.departMark_selector (p : Port) (k : Nat) (b : Bool) (x : Elapsed) :
    (s.departMark p k b x).selector = s.selector := by
  unfold State.departMark; dsimp only; split <;> simp

@[simp] theorem State.departReply_selector (p : Port) (d : Departure) (l : Option (List Answer)) (n : Nat) :
    (s.departReply p d l n).selector = s.selector := by
  unfold State.departReply; dsimp only; split <;> rfl

@[simp] theorem State.takeQuery_selector (p : Port) (r : Nat) (q : Seq) (a : Stamp) :
    (s.takeQuery p r q a).selector = s.selector := by
  unfold State.takeQuery; dsimp only; split_ifs <;> rfl

@[simp] theorem State.portDown_selector (p : Port) : (s.portDown p).selector = s.selector := by
  unfold State.portDown; dsimp only; split_ifs <;> rfl

@[simp] theorem State.runClearPortFlags_selector (r : Running) (l : List Nat) :
    (s.runClearPortFlags r l).selector = s.selector := by
  unfold State.runClearPortFlags
  dsimp only
  split_ifs
  · rfl
  · rfl
  · rfl
  · rfl
  · rw [State.respond_selector]
    exact foldl_selector (fun v p => v.modPort_selector p _) _ s

/-! ### Management links and the executor's own commands (chapter 10) -/

@[simp] theorem State.badFrame_selector (l : Link) (tag : Byte) (st : Status) :
    (s.badFrame l tag st).selector = s.selector := by
  unfold State.badFrame; dsimp only; split <;> rfl

@[simp] theorem State.takeCommand_selector (l : Link) (f : List Byte) :
    (s.takeCommand l f).selector = s.selector := by
  unfold State.takeCommand; split <;> simp

@[simp] theorem State.grant_selector (l : Link) : (s.grant l).selector = s.selector := by
  unfold State.grant; split <;> simp

@[simp] theorem State.runReadEntry_selector (r : Running) (i j : Nat) (x : Elapsed) :
    (s.runReadEntry r i j x).selector = s.selector := by
  unfold State.runReadEntry
  split_ifs
  · rfl
  · rfl
  · split <;> rfl

@[simp] theorem State.runReadTime_selector (r : Running) (x : Elapsed) :
    (s.runReadTime r x).selector = s.selector := by
  unfold State.runReadTime; split <;> rfl

@[simp] theorem State.runLockAccess_selector (r : Running) : (s.runLockAccess r).selector = s.selector := by
  unfold State.runLockAccess; split_ifs <;> rfl

@[simp] theorem State.runLinkReset_selector (r : Running) : (s.runLinkReset r).selector = s.selector := rfl

/-! ### Notices (chapter 11) -/

@[simp] theorem State.mapNotice_selector (f : NoticeLink → NoticeLink) :
    (s.mapNotice f).selector = s.selector := rfl

@[simp] theorem State.judgeCycle_selector : s.judgeCycle.selector = s.selector := by
  unfold State.judgeCycle; split <;> rfl

@[simp] theorem State.noticeCycle_selector (n : Nat) : (s.noticeCycle n).selector = s.selector := by
  simp [State.noticeCycle]

@[simp] theorem State.noticeSlot_selector (k : Nat) (b : Bool) : (s.noticeSlot k b).selector = s.selector := by
  simp [State.noticeSlot]

@[simp] theorem State.runTakeNotice_selector (r : Running) : (s.runTakeNotice r).selector = s.selector := by
  unfold State.runTakeNotice; dsimp only; split <;> rfl

@[simp] theorem State.runEndService_selector (r : Running) : (s.runEndService r).selector = s.selector := by
  unfold State.runEndService; split <;> rfl

@[simp] theorem State.runPeekFault_selector (r : Running) : (s.runPeekFault r).selector = s.selector := rfl

@[simp] theorem State.runPopFault_selector (r : Running) : (s.runPopFault r).selector = s.selector := rfl

@[simp] theorem State.runClearFaultOverflow_selector (r : Running) :
    (s.runClearFaultOverflow r).selector = s.selector := rfl

/-! ### Entry writes (R178) -/

section EntryWrites

variable (value : List Byte)

theorem State.writeInput_selector (u : InUnit) (off : Nat) :
    (s.writeInput u off value).Forall fun t => t.selector = s.selector := by
  unfold State.writeInput; dsimp only; split <;> simp

theorem State.writeUplink_selector (u : UpUnit) (off : Nat) :
    (s.writeUplink u off value).Forall fun t => t.selector = s.selector := by
  unfold State.writeUplink; dsimp only; split <;> simp

theorem State.writeSteering_selector (index : Nat) :
    (s.writeSteering index value).Forall fun t => t.selector = s.selector := by
  unfold State.writeSteering; dsimp only; split <;> simp

theorem State.writeTimeSection_selector (index : Nat) :
    (s.writeTimeSection index value).Forall fun t => t.selector = s.selector := by
  unfold State.writeTimeSection; split <;> simp

theorem State.writePlans_selector (index : Nat) :
    (s.writePlans index value).Forall fun t => t.selector = s.selector := by
  unfold State.writePlans State.writeMap
  split
  · split
    · trivial
    · split <;> simp
  · split <;> simp

theorem State.writePorts_selector (index : Nat) :
    (s.writePorts index value).Forall fun t => t.selector = s.selector := by
  unfold State.writePorts State.writePort; dsimp only; split
  · split <;> simp
  · trivial

theorem State.writeOutputs_selector (index : Nat) :
    (s.writeOutputs index value).Forall fun t => t.selector = s.selector := by
  unfold State.writeOutputs State.writePulse State.writeCoded
  split_ifs
  · split <;> simp
  · split <;> simp
  · trivial

theorem State.writeControl_selector (index : Nat) :
    (s.writeControl index value).Forall fun t => t.selector = s.selector := by
  unfold State.writeControl State.writeNotice
  split
  · split <;> simp
  · trivial

theorem State.writeAccess_selector (index : Nat) :
    (s.writeAccess index value).Forall fun t => t.selector = s.selector := by
  unfold State.writeAccess
  split_ifs
  · split <;> simp
  · split <;> simp
  · trivial

/-- Of the nine sections only SOURCES moves the selector. -/
theorem State.storeEntry_selector {sect : Nat} (h : sect ≠ 2) (index : Nat) :
    (s.storeEntry sect index value).Forall fun t => t.selector = s.selector := by
  unfold State.storeEntry
  split
  · exact s.writeControl_selector value index
  · exact absurd rfl h
  · exact s.writeSteering_selector value index
  · exact s.writeTimeSection_selector value index
  · exact s.writePlans_selector value index
  · exact s.writePorts_selector value index
  · exact s.writeOutputs_selector value index
  · exact s.writeAccess_selector value index
  · trivial

end EntryWrites

end SelectorFrame

/-! ### The commands (R66 to R87) -/

/-- A command that may change the selector: its own rows, those that bring an advertised class, an entry write,
and the resets. -/
def movesSelector : Instr → Bool
  | .selectorPulseReport _ | .selectorPhaseEvent _ | .excursionReport | .selectorCycleStart
  | .retryTimerExpiry _ | .selectorStep | .switchSource | .discardFallback => true
  | .characterReceived _ _ _ _ | .uplinkStateMark _ _ _ => true
  | .rateLimitWrite | .pairingModeWrite | .autoRateArmWrite | .sourceEnable | .sourceDisable
  | .autoUpgradeWrite | .programmedClassWrite | .steeringOptionsWrite | .portMapWrite | .epochLengthWrite
  | .portEnable | .portDisable | .writeEntry | .accessTableWrite | .guardEntryWrite | .noticeMaskWrite
  | .nestModeWrite => true
  | .serviceReset _ | .powerOnReset _ _ _ => true
  | _ => false

/-- No other command changes the selector. -/
theorem exec_selector {c : Instr} {s t : State} (hc : movesSelector c = false) (h : exec c s = .next t) :
    t.selector = s.selector := by
  cases c
  case selectorPulseReport | selectorPhaseEvent | excursionReport | selectorCycleStart | retryTimerExpiry |
      selectorStep | switchSource | discardFallback | characterReceived | uplinkStateMark | rateLimitWrite |
      pairingModeWrite | autoRateArmWrite | sourceEnable | sourceDisable | autoUpgradeWrite |
      programmedClassWrite | steeringOptionsWrite | portMapWrite | epochLengthWrite | portEnable |
      portDisable | writeEntry | accessTableWrite | guardEntryWrite | noticeMaskWrite | nestModeWrite |
      serviceReset | powerOnReset => cases hc
  case rateWordTaken | stepRequestApplied =>
    simp only [exec, execRateWordTaken, execStepRequestApplied] at h
    split at h <;> cases h <;> rfl
  case stepTime x =>
    cases h
    refine State.onCommand_selector fun r c t hf => ?_
    split at hf <;> cases hf
    next sec ns => obtain ⟨v, st, p, h, rfl | rfl⟩ := s.runStepTime_cases r sec ns x <;> rw [h] <;> rfl
  case readTime | armPlan | disarmPlan | clearPortFlags | readEntry | lockAccess | linkReset | takeNotice |
      endService | peekFault | popFault | clearFaultOverflow =>
    cases h
    refine State.onCommand_selector fun r c t hf => ?_
    split at hf <;> cases hf
    simp
  -- rows without a branch of their own
  case oscillatorTick | pulseEdge | pairingWindowEnd | uplinkCycleStart | uplinkLinkDown | uplinkLinkUp |
      steeringCycleStart | portCycleStart | portLinkDown | portLinkUp | pulseFall | responseDelivered |
      commandFrameReceived | selectReleased =>
    cases h; simp
  -- rows that do nothing unless their event is there
  case answerEntryExpiry | autoRateMeasurement | breakDetected | breakEnd | codedDueTime | codedOutputStep |
      codedTransmissionDone | cycleCut | cycleStart | descriptorRequestDone | falseStart | faultOffered |
      framingError | holdoverExpiry | measuredLeadEnd | noticeCycleStart | noticeLatch | noticeSlotStart |
      portCompletionReport | portUnexpectedFrame | pulseOutputStep | pulseRiseTime | pulseWindowMiss |
      queryLost | queryReceived | receiveFallingEdge | selectAsserted | slotStart | steeringStepAnnouncement |
      uplinkMark | uplinkQuerySlot | uplinkReply | uplinkUnexpectedFrame =>
    cases h; split <;> simp
  -- rows whose event, when it is there, is taken in one of two ways
  case inputUnitStep | portCut | portSlotStart | steeringPhaseEvent | uplinkStep | steeringSelectExternal |
      steeringSelectLocal | commandGrant =>
    cases h; split
    any_goals rfl
    split <;> simp
  case requestTimerExpiry =>
    cases h; split_ifs <;> simp
  case markDeparture | replyDeparture =>
    cases h; split
    · split
      · split <;> simp
      · rfl
    · rfl

end Sys2Proof.Machine

/-! SUPPORT. What keeps the fallback stack sound (R75, R88): one entry changed, a selection, a push, the failure
switch, and every operation of the selector made of them. -/

namespace Sys2Proof.Machine

open Sys2Proof.Config Sys2Proof.Safety

/-! ### What is sound of a stack whose selected source is being left -/

/-- The part of the promise that speaks of the stack alone: its sources differ and none is DISABLED. It is kept
while a selected source that is not USABLE any more has not been left yet. -/
structure StackListed (s : State) : Prop where
  nodup : (s.selector.stack.map fun t => t.source).Nodup
  enabled : ∀ t ∈ s.selector.stack, s.selector.entries[t.source].state ≠ .disabled

/-- The promise, part by part. -/
structure StackSound (s : State) : Prop extends StackListed s where
  unselected : ∀ t ∈ s.selector.stack, toSource t.source ≠ s.selector.selected
  usable : ∀ e : Ext, s.selector.selected = toSource e → s.selector.entries[e].state = .usable

theorem stackSound_iff {s : State} : StackSound s ↔ FallbackSound s := by
  refine ⟨fun h => ⟨h.nodup, fun t ht => ⟨h.unselected t ht, h.enabled t ht⟩, h.usable⟩, ?_⟩
  rintro ⟨hn, ht, hu⟩
  exact ⟨⟨hn, fun t h => (ht t h).2⟩, fun t h => (ht t h).1, hu⟩

theorem StackSound.not_selected {s : State} {e : Ext} (hs : StackSound s)
    (h : s.selector.entries[e].state ≠ .usable) : s.selector.selected ≠ toSource e :=
  fun he => h (hs.usable e he)

/-- The promise reads nothing but the selector. -/
theorem StackListed.of_selector {s t : State} (hs : StackListed s) (h : t.selector = s.selector) :
    StackListed t := by
  obtain ⟨hn, he⟩ := hs
  constructor <;> rwa [h]

theorem StackSound.of_selector {s t : State} (hs : StackSound s) (h : t.selector = s.selector) :
    StackSound t := by
  obtain ⟨hl, hn, hu⟩ := hs
  refine ⟨hl.of_selector h, ?_, ?_⟩ <;> rwa [h]

theorem StackSound.modFlight {s : State} (hs : StackSound s) (f : Flight → Flight) :
    StackSound (s.modFlight f) := hs.of_selector rfl

theorem StackSound.modInput {s : State} (hs : StackSound s) (u : InUnit) (f : InputUnit → InputUnit) :
    StackSound (s.modInput u f) := hs.of_selector rfl

/-- A selector that selects the same source, with the same sources on its stack and every entry in its state. -/
theorem StackSound.of_kept {s t : State} (hs : StackSound s)
    (hsel : t.selector.selected = s.selector.selected)
    (hstack : (t.selector.stack.map fun v => v.source) = s.selector.stack.map fun v => v.source)
    (hstate : ∀ e : Ext, t.selector.entries[e].state = s.selector.entries[e].state) : StackSound t := by
  have hmem (v) (hv : v ∈ t.selector.stack) : ∃ w ∈ s.selector.stack, w.source = v.source :=
    List.mem_map.mp (hstack ▸ List.mem_map_of_mem hv)
  refine ⟨⟨by rw [hstack]; exact hs.nodup, fun v hv => ?_⟩, fun v hv => ?_, fun e he => ?_⟩
  · obtain ⟨w, hw, hwv⟩ := hmem v hv
    rw [hstate, ← hwv]
    exact hs.enabled w hw
  · obtain ⟨w, hw, hwv⟩ := hmem v hv
    rw [hsel, ← hwv]
    exact hs.unselected w hw
  · rw [hstate]
    exact hs.usable e (hsel ▸ he)

/-! ### One entry changed -/

theorem State.modEntry_state (s : State) (e a : Ext) (f : SourceEntry → SourceEntry) :
    (s.modEntry e f).selector.entries[a].state =
      if e = a then (f s.selector.entries[a]).state else s.selector.entries[a].state := by
  have hw := getElem_set_apply s.selector.entries e a f
  rw [State.modEntry_selector]
  dsimp only
  rw [hw]
  split_ifs <;> rfl

/-- An entry changed keeps the stack listed when it is not disabled by the change. -/
theorem StackListed.modEntry {s : State} {e : Ext} {f : SourceEntry → SourceEntry} (hs : StackListed s)
    (hd : (f s.selector.entries[e]).state = .disabled → s.selector.entries[e].state = .disabled) :
    StackListed (s.modEntry e f) := by
  refine ⟨hs.nodup, fun t ht => ?_⟩
  have h := hs.enabled t ht
  rw [State.modEntry_state]
  split_ifs with he
  · subst he; exact fun hf => h (hd hf)
  · exact h

/-- An entry changed keeps the promise when it is not disabled by the change, and USABLE after it if selected. -/
theorem StackSound.modEntry {s : State} {e : Ext} {f : SourceEntry → SourceEntry} (hs : StackSound s)
    (hd : (f s.selector.entries[e]).state = .disabled → s.selector.entries[e].state = .disabled)
    (hu : s.selector.selected = toSource e → (f s.selector.entries[e]).state = .usable) :
    StackSound (s.modEntry e f) := by
  refine ⟨hs.toStackListed.modEntry hd, hs.unselected, fun a ha => ?_⟩
  rw [State.modEntry_state]
  split_ifs with he
  · subst he; exact hu ha
  · exact hs.usable a ha

/-- An entry changed in its state's place: its runs, timers, counters or settings. -/
theorem StackSound.modEntry_kept {s : State} {e : Ext} {f : SourceEntry → SourceEntry} (hs : StackSound s)
    (h : ∀ n, (f n).state = n.state) : StackSound (s.modEntry e f) :=
  hs.modEntry (by rw [h]; exact id) fun he => by rw [h]; exact hs.usable e he

/-- A source that is not USABLE is not selected, and stays so in any state but DISABLED. -/
theorem StackSound.modEntry_of_not_usable {s : State} {e : Ext} {f : SourceEntry → SourceEntry}
    (hs : StackSound s) (h : s.selector.entries[e].state ≠ .usable)
    (hf : (f s.selector.entries[e]).state ≠ .disabled) : StackSound (s.modEntry e f) :=
  hs.modEntry (fun hd => absurd hd hf) fun he => absurd he (hs.not_selected h)

/-! ### Selections, pushes and the failure switch (R74 to R76) -/

/-- A selection takes its source off the stack, so only that source has to be USABLE, or LOCAL. -/
theorem StackListed.selecting {s : State} (hs : StackListed s) {target : Source} (o : StepOptions)
    (hu : ∀ e : Ext, target = toSource e → s.selector.entries[e].state = .usable) :
    StackSound (selecting s target o) := by
  refine ⟨⟨(List.filter_sublist.map _).nodup hs.nodup, fun t ht => ?_⟩, fun t ht => ?_, hu⟩
  · exact hs.enabled t (List.mem_filter.mp ht).1
  · exact of_decide_eq_true (List.mem_filter.mp ht).2

theorem StackSound.selectSource {s : State} (hs : StackSound s) {target : Source}
    (hu : ∀ e : Ext, target = toSource e → s.selector.entries[e].state = .usable) :
    StackSound (s.selectSource target) := by
  rw [State.selectSource_eq]
  split_ifs
  · exact hs
  · exact hs.toStackListed.selecting _ hu

theorem StackSound.selectExt {s : State} (hs : StackSound s) {e : Ext}
    (hu : s.selector.entries[e].state = .usable) : StackSound (s.selectSource (toSource e)) :=
  hs.selectSource fun _ ha => toSource_injective ha ▸ hu

/-- A source pushed comes off the stack first, so it stands on it once. -/
theorem StackListed.push {s : State} {e : Ext} (hs : StackListed s)
    (he : s.selector.entries[e].state ≠ .disabled) (c : Cause) : StackListed (s.push e c) := by
  unfold State.push
  refine StackListed.modEntry ⟨?_, fun t ht => ?_⟩ fun hd => hd
  · show (e :: (s.selector.stack.filter fun t => decide (t.source ≠ e)).map fun t => t.source).Nodup
    refine List.nodup_cons.mpr ⟨fun hm => ?_, (List.filter_sublist.map _).nodup hs.nodup⟩
    obtain ⟨t, ht, rfl⟩ := List.mem_map.mp hm
    exact of_decide_eq_true (List.mem_filter.mp ht).2 rfl
  · rcases List.mem_cons.mp ht with rfl | ht
    · exact he
    · exact hs.enabled t (List.mem_filter.mp ht).1

theorem State.push_selected (s : State) (e : Ext) (c : Cause) :
    (s.push e c).selector.selected = s.selector.selected := rfl

theorem State.push_state (s : State) (e a : Ext) (c : Cause) :
    (s.push e c).selector.entries[a].state = s.selector.entries[a].state := by
  unfold State.push
  dsimp only
  rw [State.modEntry_state]
  split_ifs <;> rfl

/-- The failure switch leaves a source that is not USABLE for one that is, or for LOCAL. -/
theorem StackListed.failureSwitch {s : State} {e : Ext} (hs : StackListed s)
    (hsel : s.selector.selected = toSource e) (he : s.selector.entries[e].state ≠ .usable) :
    StackSound s.failureSwitch := by
  have hm : StackListed s.maskOptions := hs.of_selector s.maskOptions_selector
  rcases s.failureSwitch_cases with ⟨h, -⟩ | ⟨b, hb, h⟩ <;> rw [h, State.selectSource_eq, if_neg]
  · exact hm.selecting _ fun a ha => absurd ha.symm (toSource_ne_local a)
  · exact fun ha => toSource_ne_local e (hsel.symm.trans ha.symm)
  · exact hm.selecting _ fun a ha => toSource_injective ha ▸ hb.1
  · intro ha
    have hbe : b = e := toSource_injective (ha.trans hsel)
    exact he (hbe ▸ hb.1)

/-! ### Faults, revert and upgrade (R72, R78, R80) -/

theorem faulted_selector (s : State) (e : Ext) (code : Nat) :
    (faulted s e code).selector = (s.modEntry e fun n =>
      { n with
        state := .faulted, retry := some s.selector.settings.retryTime, restore := none, goodRun := 0
        missRun := 0 }).selector := rfl

/-- A fault: a selected source is pushed and left. -/
theorem StackSound.faultEntry {s : State} (hs : StackSound s) (e : Ext) (c : Cause) :
    StackSound (s.faultEntry e c) := by
  have hq := faulted_selector s e (causeCode c)
  rw [State.faultEntry_eq]
  split_ifs with hsel
  · have hst : (faulted s e (causeCode c)).selector.entries[e].state = .faulted := by
      rw [hq, State.modEntry_state, if_pos rfl]
    have hl : StackListed (faulted s e (causeCode c)) :=
      (hs.toStackListed.modEntry fun hf => SourceState.noConfusion hf).of_selector hq
    refine (hl.push (by rw [hst]; decide) c).failureSwitch (e := e) hsel ?_
    rw [State.push_state, hst]
    decide
  · exact (hs.modEntry (fun hf => SourceState.noConfusion hf) fun he => absurd he hsel).of_selector hq

/-- The top of the stack removed. -/
theorem StackSound.dropTop {s : State} {t : StackEntry} {rest : List StackEntry} (hs : StackSound s)
    (h : s.selector.stack = t :: rest) : StackSound (s.modSelector fun q => { q with stack := rest }) := by
  obtain ⟨⟨hn, he⟩, ht, hu⟩ := hs
  rw [h] at hn he ht
  exact ⟨⟨(List.nodup_cons.mp hn).2, fun w hw => he w (List.mem_cons_of_mem t hw)⟩,
    fun w hw => ht w (List.mem_cons_of_mem t hw), hu⟩

/-- The revert test only removes stack entries and selects USABLE sources. -/
theorem StackSound.revert {s : State} (hs : StackSound s) : StackSound s.revert := by
  refine State.revertTest_induct s _ hs (fun v t rest hv hst _ => ?_) fun v t rest hv hst hdue _ => ?_
  · exact (hv.dropTop hst).of_selector rfl
  · refine hv.selectExt ?_
    have hd : v.isUsable t.source = true := (Bool.and_eq_true_iff.mp hdue).1
    exact of_decide_eq_true hd

theorem StackSound.upgradeTest {s : State} (hs : StackSound s) : StackSound s.upgradeTest := by
  rcases s.upgradeTest_cases with h | ⟨b, hb, -, h⟩ <;> rw [h]
  · exact hs
  · exact hs.selectExt (State.ranksFirst_of_bestUsable hb).1

theorem StackSound.withClassChange {s : State} {e : Ext} {f : State → State} (hf : StackSound (f s)) :
    StackSound (s.withClassChange e f) := by
  rcases s.withClassChange_cases e f with h | h <;> rw [h]
  · exact hf
  · exact hf.upgradeTest

/-! ### Entry into TRIAL and USABLE (R66, R69, R72, R79) -/

theorem StackSound.enterTrial {s : State} {e : Ext} (hs : StackSound s)
    (h : s.selector.entries[e].state ≠ .usable) (fromFaulted : Bool) :
    StackSound (s.enterTrial e fromFaulted) :=
  (hs.modEntry_of_not_usable (f := fun n =>
    { n with state := .trial, goodRun := 0, missRun := 0, retry := none, restore := none }) h
    fun hf => SourceState.noConfusion hf).of_selector (State.modInputOf_selector _ e _)

theorem StackSound.becomeUsable {s : State} (hs : StackSound s) (e : Ext) :
    StackSound (s.becomeUsable e) := by
  have hu : StackSound ((s.modEntry e fun n =>
      { n with state := .usable, restore := some 0 }).leaveTrial e) :=
    (hs.modEntry (fun hf => SourceState.noConfusion hf) fun _ => rfl).of_selector (State.leaveTrial_selector _ e)
  unfold State.becomeUsable
  generalize (s.modEntry e fun n => { n with state := .usable, restore := some 0 }).leaveTrial e = v at hu
  have hw : StackSound (if v.selector.selected = localSource then
      v.selectSource ((v.bestUsable.map toSource).getD localSource) else v.upgradeTest) := by
    split_ifs
    · cases hb : v.bestUsable with
      | none => exact hu.selectSource fun a ha => absurd ha.symm (toSource_ne_local a)
      | some b => exact hu.selectExt (State.ranksFirst_of_bestUsable hb).1
    · exact hu.upgradeTest
  dsimp only
  generalize (if v.selector.selected = localSource then _ else _ : State) = w at hw ⊢
  split_ifs
  · exact hw.revert
  · exact hw

/-! ### Reports and phase events (R66 to R70) -/

theorem StackSound.heardReport {s : State} (hs : StackSound s) (e : Ext) (k : ReportKind) :
    StackSound (s.heardReport e k) := by
  have hm := hs.modEntry_kept (e := e) (f := fun n => { n with misses := n.misses + 1 }) fun _ => rfl
  unfold State.heardReport
  cases k with
  | accepted => exact hs.modEntry_kept fun _ => rfl
  | stray => exact hs.modEntry_kept fun _ => rfl
  | miss =>
    dsimp only
    split_ifs
    · exact hm
    · exact (hm.modEntry_kept (f := fun n => { n with missRun := min 10 (s.selector.entries[e].missRun + 1) })
        fun _ => rfl).faultEntry e _
    · exact hm.modEntry_kept fun _ => rfl

theorem StackSound.takeReport {s : State} (hs : StackSound s) (e : Ext) (k : ReportKind) :
    StackSound (s.takeReport e k) := by
  unfold State.takeReport
  split
  · exact hs
  · exact hs.modEntry_kept fun _ => rfl
  · next h _ => exact (hs.enterTrial (by rw [h]; decide) false).heardReport e _
  · exact hs.heardReport e _

theorem StackSound.takeGood {s : State} (hs : StackSound s) (e : Ext) (c : Int) :
    StackSound (s.takeGood e c) := by
  have hl : StackSound (s.modEntry e fun n => n.learn c) := hs.modEntry_kept fun _ => rfl
  unfold State.takeGood
  dsimp only
  split
  · split_ifs
    · exact hl.modEntry_kept fun _ => rfl
    · exact (hl.modEntry_kept (f := fun n => { n with good := n.good + 1, goodRun := n.goodRun + 1 })
        fun _ => rfl).becomeUsable e
    · exact hl.modEntry_kept fun _ => rfl
  · exact hl.modEntry_kept fun _ => rfl

theorem StackSound.takeBad {s : State} (hs : StackSound s) (e : Ext) (cause : BadCause) :
    StackSound (s.takeBad e cause) := by
  have hb : StackSound (s.modEntry e fun n => { n with bad := n.bad + 1 }) := hs.modEntry_kept fun _ => rfl
  unfold State.takeBad
  dsimp only
  split
  · exact hb.modEntry_kept fun _ => rfl
  · exact hb.faultEntry e _
  · exact hb.faultEntry e _
  · exact hb

theorem StackSound.takePhase {s : State} (hs : StackSound s) (e : Ext) (ev : PhaseEvent) :
    StackSound (s.takePhase e ev) := by
  unfold State.takePhase
  split
  · exact hs
  · dsimp only
    generalize hv : (if s.selector.entries[e].state = .absent then s.enterTrial e false else s) = v
    have h : StackSound v := by
      rw [← hv]
      split_ifs with ha
      · exact hs.enterTrial (by rw [ha]; decide) false
      · exact hs
    split
    · exact h.takeBad e _
    · split
      · exact (h.takeGood e _).of_selector rfl
      · exact h.takeGood e _

/-! ### Enabling and disabling (R65) -/

theorem StackSound.enableSource {s : State} (hs : StackSound s) (e : Ext) :
    StackSound (s.enableSource e) := by
  unfold State.enableSource
  split_ifs with h
  · exact (hs.modEntry_of_not_usable (by rw [h]; decide) fun hf => SourceState.noConfusion hf).of_selector
      ((State.modUplinkOf_selector _ e _).trans (State.modInputOf_selector _ e _))
  · exact hs

/-- An entry switched off leaves the stack, and a selected one is left. -/
theorem StackSound.switchOff {s : State} (hs : StackSound s) (e : Ext) :
    StackSound (s.switchOff e) := by
  unfold State.switchOff
  dsimp only
  generalize hv : State.modUplinkOf _ e UplinkUnit.stop = v
  have hq : v.selector = { s.selector with
      entries := (s.modEntry e fun n =>
        { n with
          state := .disabled, goodRun := 0, missRun := 0, learned := 0, learnedCount := 0
          retry := none, restore := none, descriptor := none }).selector.entries
      stack := s.selector.stack.filter fun t => decide (t.source ≠ e) } := by
    rw [← hv, State.modUplinkOf_selector, State.modInputOf_selector]
    rfl
  have hst (a : Ext) : v.selector.entries[a].state =
      if e = a then .disabled else s.selector.entries[a].state := by
    refine Eq.trans ?_ (s.modEntry_state e a fun n =>
      { n with
        state := .disabled, goodRun := 0, missRun := 0, learned := 0, learnedCount := 0
        retry := none, restore := none, descriptor := none })
    rw [hq]
  have hl : StackListed v := by
    refine ⟨?_, fun t ht => ?_⟩
    · rw [hq]
      exact (List.filter_sublist.map _).nodup hs.toStackListed.nodup
    · rw [hq] at ht
      obtain ⟨hm, hne⟩ := List.mem_filter.mp ht
      rw [hst, if_neg (Ne.symm (of_decide_eq_true hne))]
      exact hs.toStackListed.enabled t hm
  split_ifs with hsel
  · exact hl.failureSwitch hsel (by rw [hst, if_pos rfl]; decide)
  · refine ⟨hl, fun t ht => ?_, fun a ha => ?_⟩
    · rw [hq] at ht ⊢
      exact hs.unselected t (List.mem_filter.mp ht).1
    · rw [hst, if_neg (by rintro rfl; exact hsel ha)]
      rw [hq] at ha
      exact hs.usable a ha

theorem StackSound.disableSource {s : State} (hs : StackSound s) (e : Ext) :
    StackSound (s.disableSource e) := by
  have hj : StackSound (s.withClassChange e fun t => t.switchOff e) := (hs.switchOff e).withClassChange
  unfold State.disableSource
  dsimp only
  split_ifs
  · exact hs
  · exact hj.revert
  · exact hj

/-! ### Cycle starts, steps and commands (R81, R82, R84, R85) -/

theorem StackSound.countTimers {s : State} (hs : StackSound s) (e : Ext) :
    StackSound (s.countTimers e) := by
  unfold State.countTimers
  dsimp only
  split
  · next h =>
    split
    · split_ifs
      · exact hs.enterTrial (by rw [h]; decide) true
      · exact hs.modEntry_kept fun _ => rfl
    · exact hs
  · exact hs.modEntry_kept fun _ => rfl
  · exact hs

theorem StackSound.selectorCycle {s : State} (hs : StackSound s) : StackSound s.selectorCycle := by
  have hfold (l : List Ext) (v : State) (hv : StackSound v) : StackSound (l.foldl State.countTimers v) := by
    induction l generalizing v with
    | nil => exact hv
    | cons e l ih => exact ih _ (hv.countTimers e)
  unfold State.selectorCycle
  split
  · exact hs
  · exact StackSound.revert (hfold allExt _ (hs.of_selector rfl))

theorem StackSound.stepped {s : State} (hs : StackSound s) :
    StackSound (s.modSelector Selector.stepped) := by
  refine hs.of_kept rfl ?_ fun e => ?_
  · simp [Selector.stepped]
  · rw [State.modSelector_selector, Selector.stepped_getElem]

theorem StackSound.manualSwitch {s : State} (hs : StackSound s) {e : Ext}
    (hu : s.selector.entries[e].state = .usable) (hne : toSource e ≠ s.selector.selected) :
    StackSound (s.manualSwitch (toSource e)) := by
  unfold State.manualSwitch
  split
  · next a ha =>
    have hsel := hs.usable a (extOf_eq_some.mp ha)
    have hp : StackListed ((s.push a .manual).maskOptions) :=
      (hs.toStackListed.push (by rw [hsel]; decide) .manual).of_selector (State.maskOptions_selector _)
    rw [State.selectSource_eq, if_neg (by exact hne)]
    refine hp.selecting _ fun b hb => ?_
    rw [State.maskOptions_selector, State.push_state, ← toSource_injective hb, hu]
  · exact hs.selectExt hu

theorem StackSound.checkedWrite {s k : State} (hs : StackSound s) (hk : StackSound k) (r : Running)
    (sect index : Nat) : StackSound (s.checkedWrite r sect index k) := by
  rcases s.checkedWrite_cases r sect index k with ⟨-, h⟩ | ⟨-, -, h⟩ | ⟨-, h⟩ <;> rw [h]
  · exact hs.of_selector rfl
  · exact hs.of_selector rfl
  · exact hk

theorem StackSound.runSwitchSource {s : State} (hs : StackSound s) (r : Running) (n : Nat) :
    StackSound (s.runSwitchSource r n) := by
  refine hs.checkedWrite ?_ r 2 167
  split
  · dsimp only
    split
    · exact hs.of_selector rfl
    · next e he =>
      rw [extOf_eq_some.mp he]
      split_ifs with hu hsel
      · exact hs.of_selector rfl
      · exact hs.of_selector rfl
      · have hus : s.isUsable e = true := by simpa using hu
        exact (hs.manualSwitch (of_decide_eq_true hus) hsel).of_selector rfl
  · exact hs.of_selector rfl

theorem StackSound.runDiscardFallback {s : State} (hs : StackSound s) (r : Running) :
    StackSound (s.runDiscardFallback r) := by
  refine hs.checkedWrite ?_ r 2 168
  split
  · exact hs.of_selector rfl
  · next t rest hst =>
    exact (hs.dropTop hst).revert.of_selector rfl

/-! ### Advertised classes that come with a descriptor or a STATE (R36, R49, R80) -/

theorem StackSound.takeDescriptor {s : State} (hs : StackSound s) (u : InUnit) (body : List Byte) :
    StackSound (s.takeDescriptor u body) := by
  unfold State.takeDescriptor
  split
  · exact hs.of_selector rfl
  · refine StackSound.withClassChange ?_
    exact StackSound.modEntry_kept (hs.of_selector rfl) fun _ => rfl

theorem StackSound.deliver {s : State} (hs : StackSound s) (u : InUnit) (c : Byte) (now : Stamp) :
    StackSound (s.deliver u c now) := by
  unfold State.deliver
  split
  · unfold State.sentence
    dsimp only
    split_ifs
    · exact hs.of_selector (by simp)
    · exact StackSound.takeDescriptor (hs.of_selector (by simp)) u _
    · exact hs.of_selector (by simp)
  · exact hs.of_selector rfl

theorem StackSound.takeUpstream {s : State} (hs : StackSound s) (u : UpUnit) (c : Nat) (sc : Int) :
    StackSound (s.takeUpstream u c sc) := by
  unfold State.takeUpstream
  exact (StackSound.withClassChange (hs.of_selector rfl)).of_selector (State.followScale_selector _ _)

end Sys2Proof.Machine

/-! SUPPORT. Entry writes, service reset, and every command keep the fallback stack sound (R75, R88, R178, R183). -/

namespace Sys2Proof.Machine

open Sys2Proof.Config Sys2Proof.Safety

/-! ### Entry writes (R64, R86, R178) -/

section EntryWrites

variable {s : State} (value : List Byte)

/-- The enabled field and the programmed class may leave the selected source; no other field of an external
source changes what is selected, stacked or enabled. -/
theorem StackSound.writeSource (hs : StackSound s) (e : Ext) (off : Nat) :
    (s.writeSource e off value).Forall StackSound := by
  have entry (f : SourceEntry → SourceEntry) (hf : ∀ n, (f n).state = n.state) : StackSound (s.modEntry e f) :=
    hs.modEntry_kept hf
  unfold State.writeSource
  split
  · rw [forall_storeEnum]
    intro b _ _
    split
    · exact hs.enableSource e
    · exact hs.disableSource e
  · exact forall_storeNat.mpr fun _ _ => entry _ fun _ => rfl
  · exact forall_storeNat.mpr fun _ _ => StackSound.withClassChange (entry _ fun _ => rfl)
  · split
    · trivial
    · exact forall_storeNat.mpr fun _ _ => entry _ fun _ => rfl
  · exact forall_storeNum.mpr fun _ _ => entry _ fun _ => rfl
  · unfold State.writeUnit
    split
    · exact (s.writeInput_selector value _ off).mono fun _ => hs.of_selector
    · exact (s.writeUplink_selector value _ off).mono fun _ => hs.of_selector
    · trivial

/-- The settings changed, with the entries, the selection and the stack kept. -/
theorem StackSound.modSettings (hs : StackSound s) {f : Selector → Selector}
    (h : f s.selector = { s.selector with settings := (f s.selector).settings }) :
    StackSound (s.modSelector f) := by
  refine hs.of_kept ?_ ?_ fun _ => ?_ <;> rw [State.modSelector_selector, h]

/-- Of the selector-wide settings only auto-upgrade may select another source. -/
theorem StackSound.writeSelector (hs : StackSound s) (index : Nat) :
    (s.writeSelector index value).Forall StackSound := by
  have ha (on : Bool) : StackSound (s.setAutoUpgrade on) := by
    unfold State.setAutoUpgrade
    dsimp only
    split
    · exact StackSound.upgradeTest (hs.modSettings rfl)
    · exact hs.modSettings rfl
  unfold State.writeSelector
  dsimp only
  split
  case h_6 => exact forall_storeEnum.mpr fun _ _ _ => hs.modSettings rfl
  case h_7 => exact forall_storeEnum.mpr fun _ _ _ => ha _
  case h_8 => trivial
  all_goals exact forall_storeNum.mpr fun _ _ => hs.modSettings rfl

theorem StackSound.storeEntry (hs : StackSound s) (sect index : Nat) :
    (s.storeEntry sect index value).Forall StackSound := by
  by_cases h : sect = 2
  · subst h
    show (s.writeSources index value).Forall StackSound
    unfold State.writeSources
    split_ifs
    · exact hs.writeSource value _ _
    · trivial
    · exact hs.writeSelector value index
  · exact (s.storeEntry_selector value h index).mono fun _ => hs.of_selector

end EntryWrites

theorem StackSound.writeAs {s : State} (hs : StackSound s) (row : WriteRow) : StackSound (s.writeAs row) := by
  rcases s.writeAs_cases row with h | ⟨r, sect, index, value, -, -, h⟩ <;> rw [h]
  · exact hs
  · exact State.runWriteEntry_induct hs (hs.storeEntry value sect index) fun _ _ _ ht => ht.of_selector rfl

/-! ### Service reset (R87, R183) -/

/-- The selector's reset selects LOCAL over an empty stack; another block's clears descriptors at most. -/
theorem BlockReset.stackSound {s t : State} {b : ResetBlock} (h : BlockReset s b t) (hs : StackSound s) :
    StackSound t := by
  by_cases hb : b = .selector
  · have hsel := h.selected
    have hst := h.stack
    rw [if_pos hb] at hsel hst
    refine ⟨⟨by rw [hst]; exact .nil, by simp [hst]⟩, by simp [hst], fun e he => ?_⟩
    exact absurd (he.symm.trans hsel) (toSource_ne_local e)
  · have hsel := h.selected
    have hst := h.stack
    rw [if_neg hb] at hsel hst
    refine hs.of_kept hsel (by rw [hst]) fun e => ?_
    have he := h.entry e
    rw [if_neg hb] at he
    rcases he with he | he <;> rw [he]

theorem StackSound.runServiceReset {s : State} (hs : StackSound s) (r : Running) (blocks : List ResetBlock) :
    StackSound (s.runServiceReset r blocks) := by
  have hb : StackSound (s.resetBlocks r.resetTaken blocks).1 :=
    State.resetBlocks_induct (P := fun v _ => StackSound v) s r.resetTaken blocks hs
      fun v d b hv _ => (v.resetBlock_reset d b).stackSound hv
  unfold State.runServiceReset
  dsimp only
  generalize s.resetBlocks r.resetTaken blocks = out at hb
  have hgo : StackSound (if resetComplete out.2 then out.1.finishReset r
      else { out.1 with executor := { out.1.executor with running := some { r with resetTaken := out.2 } } }) := by
    split
    · exact hb.of_selector rfl
    · exact hb.of_selector rfl
  split
  · exact hs.checkedWrite hgo r 1 0
  · exact hgo

/-! ### Every command -/

/-- A row of the executor keeps the stack sound when every command it accepts does. -/
theorem StackSound.onCommand {s : State} (hs : StackSound s) {f : Running → Command → Option State}
    (hf : ∀ r c t, f r c = some t → StackSound t) : StackSound (s.onCommand f) := by
  rcases s.onCommand_cases f with h | ⟨r, t, -, h, h'⟩
  · rw [h]; exact hs
  · rw [h']; exact hf r _ t h

theorem StackSound.powerOn (strap : Level) (ups : Vector LinkLevel 2) (links : Vector LinkLevel 6)
    (pending : List Instr) : StackSound (State.powerOn strap ups links pending) :=
  stackSound_iff.mpr (powerOn_fallbackSound _ _ _ _)

/-- Every command that may change the selector keeps the stack sound. -/
theorem exec_stackSound {c : Instr} {s t : State} (hc : movesSelector c = true) (hs : StackSound s)
    (h : exec c s = .next t) : StackSound t := by
  cases c <;> cases hc <;> cases h
  case powerOnReset strap ups links => exact .powerOn strap ups links _
  case rateLimitWrite | pairingModeWrite | autoRateArmWrite | sourceEnable | sourceDisable |
      autoUpgradeWrite | programmedClassWrite | steeringOptionsWrite | portMapWrite | epochLengthWrite |
      portEnable | portDisable | writeEntry | accessTableWrite | guardEntryWrite | noticeMaskWrite |
      nestModeWrite => exact hs.writeAs _
  case serviceReset blocks =>
    refine hs.onCommand fun r c t hf => ?_
    split at hf <;> cases hf
    exact hs.runServiceReset r blocks
  case switchSource =>
    refine hs.onCommand fun r c t hf => ?_
    split at hf <;> cases hf
    exact hs.runSwitchSource r _
  case discardFallback =>
    refine hs.onCommand fun r c t hf => ?_
    split at hf <;> cases hf
    exact hs.runDiscardFallback r
  case selectorPulseReport =>
    split
    · exact (hs.modFlight _).takeReport _ _
    · exact hs
  case selectorPhaseEvent =>
    split
    · exact (hs.modFlight _).takePhase _ _
    · exact hs
  case excursionReport =>
    split
    · exact hs
    · dsimp only
      split
      · exact (hs.modFlight _).faultEntry _ _
      · exact hs.modFlight _
  case selectorCycleStart => exact hs.selectorCycle
  case retryTimerExpiry =>
    split
    · exact hs.selectorCycle
    · exact hs
  case selectorStep =>
    split
    · exact hs
    · exact (hs.modFlight _).stepped
  case characterReceived =>
    split
    · dsimp only
      split
      · exact (hs.modInput _ _).deliver _ _ _
      · exact hs.of_selector rfl
    · exact hs
  case uplinkStateMark =>
    split
    · exact (hs.takeUpstream _ _ _).of_selector (State.takeMark_selector _ _ _ _)
    · exact hs

/-- Settles O7: a command leaves the selector alone, or is one of those that keep its stack sound. -/
theorem fallbackStackStaysSound : Obligations.FallbackStackStaysSound := by
  intro s t hs h
  rw [← stackSound_iff] at hs ⊢
  rcases step_cases h with ⟨-, rfl⟩ | ⟨c, rest, -, h'⟩
  · exact hs
  · have hv : StackSound { s with pending := rest } := hs.of_selector rfl
    cases hc : movesSelector c
    · exact hv.of_selector (exec_selector hc h')
    · exact exec_stackSound hc hv h'

end Sys2Proof.Machine

/-! SUPPORT. Excursion reports, step announcements, SWITCH SOURCE and DISCARD FALLBACK (R71 to R76, R78, R81, R82,
R85). -/

namespace Sys2Proof.Machine

open Sys2Proof.Config Sys2Proof.Safety

/-! ### Excursion reports (R71) -/

/-- An excursion report faults a USABLE source with its cause, and is discarded otherwise. -/
theorem exec_excursionReport {s : State} {x : Excursion} {rest : List Excursion}
    (h : s.flight.excursions = x :: rest) :
    exec .excursionReport s = .next
      (if s.selector.entries[x.source].state = .usable then
        State.faultEntry { s with flight := { s.flight with excursions := rest } } x.source
          (if x.hard = true then .excursionHard else .excursion)
      else { s with flight := { s.flight with excursions := rest } }) := by
  simp only [exec, execExcursionReport, h]
  exact congrArg Host.Outcome.next (if_congr decide_eq_true_iff rfl rfl)

/-- Either kind of excursion logs SRC_EXCURSION (R72). -/
theorem causeCode_excursion (hard : Bool) :
    causeCode (if hard = true then .excursionHard else .excursion) = 4 := by
  cases hard <;> rfl

/-- Settles O32: the fault of an entry that is not selected, or of the selected one, pushed and left. -/
theorem excursionFaultsAndFailsOver : Obligations.ExcursionFaultsAndFailsOver := by
  unfold Obligations.ExcursionFaultsAndFailsOver
  intro s x rest h taken n
  rw [exec_excursionReport h]
  refine ⟨fun hn => ?_, fun hu hs => ?_, fun hu hs => ?_⟩
  · rw [if_neg hn]
  · rw [if_pos hu]
    refine congrArg Host.Outcome.next ((State.faultEntry_of_not_selected (s := taken) hs).trans ?_)
    rw [causeCode_excursion]
  · rw [if_pos hu]
    refine ⟨_, ?_, rfl⟩
    have hf := State.faultEntry_of_selected (s := taken) (e := x.source)
      (cause := if x.hard = true then .excursionHard else .excursion) hs
    rwa [causeCode_excursion] at hf

/-! ### Step announcements (R85) -/

/-- Settles O34: the oldest announcement is taken, and the learned values are forgotten. -/
theorem selectorForgetsAtStep : Obligations.SelectorForgetsAtStep := by
  unfold Obligations.SelectorForgetsAtStep
  intro s a rest h
  simp only [exec, execSelectorStep, h]
  rfl

/-! ### SWITCH SOURCE (R74, R81) -/

theorem exec_switchSource {s : State} {r : Running} {target : Nat} (h : Runs s r (.switchSource target)) :
    exec .switchSource s = .next (s.runSwitchSource r target) :=
  congrArg Host.Outcome.next (State.onCommand_of_runs h rfl)

/-- SWITCH SOURCE to an external source, past its access and guard checks. -/
theorem State.runSwitchSource_of_permitted {s : State} {r : Running} (h : Permitted s r 2 167) (e : Ext) :
    s.runSwitchSource r e.val =
      if s.selector.entries[e].state ≠ .usable then s.respond r .refused []
      else if s.selector.selected = toSource e then s.respond r .ok (switchPayload s)
      else (s.manualSwitch (toSource e)).respond r .ok (switchPayload (s.manualSwitch (toSource e))) := by
  have he : e.val < 5 := by omega
  have hx : extOf ⟨e.val, he⟩ = some e := extOf_toSource e
  have hu : (!s.isUsable e) = true ↔ s.selector.entries[e].state ≠ .usable := by simp [State.isUsable]
  rw [State.runSwitchSource, State.checkedWrite_of_permitted h, dif_pos he]
  simp only [hx, hu, eq_comm (a := s.selector.selected)]
  rfl

/-- From LOCAL there is no push and no mask. -/
theorem State.manualSwitch_of_local {s : State} (h : s.selector.selected = localSource) (e : Ext) :
    s.manualSwitch (toSource e) = selecting s (toSource e) (optionsFor s (toSource e)) := by
  rw [State.manualSwitch, extOf_eq_none.mpr h]
  dsimp only
  rw [State.selectSource_eq, if_neg (by rw [h]; exact toSource_ne_local e)]

/-- The external source left is pushed with cause MANUAL, and the mask is withdrawn. The source pushed is the
stack top, so the target gets no saved options back. -/
theorem State.manualSwitch_of_ext {s : State} {a e : Ext} (h : s.selector.selected = toSource a) (hne : a ≠ e) :
    s.manualSwitch (toSource e) =
      selecting (s.push a .manual) (toSource e) (s.steering.options.without s.steering.mask) := by
  have hae : toSource a ≠ toSource e := fun he => hne (toSource_injective he)
  rw [State.manualSwitch, extOf_eq_some.mpr h]
  dsimp only
  rw [State.selectSource_eq, if_neg (by rintro he; exact hae (h.symm.trans he.symm))]
  have ho : optionsFor ((s.push a .manual).maskOptions) (toSource e) =
      s.steering.options.without s.steering.mask := if_neg hae
  rw [ho]
  rfl

/-! ### DISCARD FALLBACK (R82) -/

theorem exec_discardFallback {s : State} {r : Running} (h : Runs s r .discardFallback) :
    exec .discardFallback s = .next (s.runDiscardFallback r) :=
  congrArg Host.Outcome.next (State.onCommand_of_runs h rfl)

theorem State.runDiscardFallback_of_permitted {s : State} {r : Running} (h : Permitted s r 2 168) :
    s.runDiscardFallback r =
      match s.selector.stack with
      | [] => s.respond r .empty []
      | t :: rest =>
        (s.modSelector fun q => { q with stack := rest }).revert.respond r .ok
          [byte t.source.val, byte rest.length] :=
  State.checkedWrite_of_permitted h _

/-- Settles O35: the checks in their order, then the switch by what is selected, and the discard by the stack. -/
theorem fallbackCommands : Obligations.FallbackCommands := by
  unfold Obligations.FallbackCommands
  refine ⟨fun s r target hr => ?_, fun s r hr => ?_⟩
  · rw [exec_switchSource hr]
    intro answers
    split_ifs with hd hg hi hl
    · exact congrArg _ (State.checkedWrite_of_denied hd _)
    · exact congrArg _ (State.checkedWrite_of_guarded (by simpa using hd) hg _)
    all_goals have hp : Permitted s r 2 167 := ⟨by simpa using hd, by simpa using hg⟩
    · refine congrArg Host.Outcome.next ?_
      rw [State.runSwitchSource, State.checkedWrite_of_permitted hp, dif_neg (by omega)]
      rfl
    · subst hl
      refine congrArg Host.Outcome.next ?_
      rw [State.runSwitchSource, State.checkedWrite_of_permitted hp]
      rfl
    · rintro e rfl
      have he := State.runSwitchSource_of_permitted hp e
      split_ifs at he ⊢ with hu hs
      · exact congrArg _ he
      · refine congrArg Host.Outcome.next (he.trans ?_)
        rw [switchPayload, hs]
        rfl
      · refine ⟨fun hloc => congrArg Host.Outcome.next (he.trans ?_), fun a ha =>
          congrArg Host.Outcome.next (he.trans ?_)⟩
        · rw [State.manualSwitch_of_local hloc]
          rfl
        · rw [State.manualSwitch_of_ext ha (by rintro rfl; exact hs ha)]
          rfl
  · rw [exec_discardFallback hr]
    intro answers
    split_ifs with hd hg he
    · exact congrArg _ (State.checkedWrite_of_denied hd _)
    · exact congrArg _ (State.checkedWrite_of_guarded (by simpa using hd) hg _)
    all_goals
      have hp := State.runDiscardFallback_of_permitted (s := s) (r := r)
        ⟨by simpa using hd, by simpa using hg⟩
    · rw [he] at hp
      exact congrArg Host.Outcome.next hp
    · intro gone stack hs t
      rw [hs] at hp
      exact ⟨_, State.revert_revertTested t, congrArg Host.Outcome.next hp⟩

end Sys2Proof.Machine

/-! SUPPORT. The writes of the selector-wide settings and of a programmed class (R63, R64, R80, R86, R178). -/

namespace Sys2Proof.Machine

open Sys2Proof.Config Sys2Proof.Safety

theorem mayWrite_of_permitted {s : State} {r : Running} {sect index : Nat} (h : Permitted s r sect index) :
    MayWrite s r sect index :=
  ⟨.inl h.1, h.2⟩

/-! ### Where the selector-wide entries stand, and their writes (R64) -/

theorem State.readEntry_selectorWide (s : State) {index : Nat} (h : 160 ≤ index) (x : Elapsed) :
    s.readEntry 2 index x = s.selector.read index := by
  show s.readSources index = _
  rw [State.readSources, dif_neg (by omega), if_neg (by omega)]

theorem State.storeEntry_selectorWide (s : State) {index : Nat} (h : 160 ≤ index) (value : List Byte) :
    s.storeEntry 2 index value = s.writeSelector index value := by
  show s.writeSources index value = _
  rw [State.writeSources, dif_neg (by omega), if_neg (by omega)]

/-- A numeric selector-wide setting, from how it is stored and read. -/
theorem selectorSetting_numericWrite {s : State} {r : Running} {index bytes : Nat} {lo hi : Int}
    {f : Int → SelectorSettings → SelectorSettings} (h : 160 ≤ index)
    (hrow : ∀ value, writeRow 2 index value = .writeEntry) (hb : fieldWidth lo hi = bytes) (hlh : lo ≤ hi)
    (hs : ∀ value, s.writeSelector index value =
      storeNum lo hi value fun m => s.modSelector fun q => { q with settings := f m q.settings })
    (hr : ∀ (q : Selector) (m : Int), lo ≤ m → { q with settings := f m q.settings }.read index =
      some (if lo < 0 then beInt bytes m else beBytes bytes m.toNat))
    (hl : s.selector.read index ≠ none) :
    NumericWrite .writeEntry s r 2 index bytes lo hi fun m =>
      s.modSelector fun q => { q with settings := f m q.settings } := by
  refine numericWrite_of_storeNum (row := .writeEntry) rfl hrow (by omega)
    (by rwa [State.readEntry_selectorWide _ h]) hb hlh
    (fun value => (s.storeEntry_selectorWide h value).trans (hs value)) fun m h0 _ => ?_
  rw [State.readEntry_selectorWide _ h]
  exact hr _ m h0

/-! ### Auto-upgrade (R80) -/

@[simp] theorem State.upgradeTest_settings (s : State) :
    s.upgradeTest.selector.settings = s.selector.settings := by
  rcases s.upgradeTest_cases with h | ⟨b, -, -, h⟩ <;> rw [h]
  rw [State.selectSource_eq]
  split <;> rfl

@[simp] theorem State.upgradeTest_entries (s : State) :
    s.upgradeTest.selector.entries = s.selector.entries := by
  rcases s.upgradeTest_cases with h | ⟨b, -, -, h⟩ <;> rw [h]
  rw [State.selectSource_eq]
  split <;> rfl

/-- The upgrade test may be made whatever is written: with auto-upgrade OFF it changes nothing. -/
theorem State.setAutoUpgrade_upgradeTested (s : State) (on : Bool) :
    UpgradeTested (s.modSelector fun q => { q with settings := { q.settings with autoUpgrade := on } })
      (s.setAutoUpgrade on) := by
  cases on
  · exact ⟨fun _ => rfl, fun _ _ ha => Bool.noConfusion ha⟩
  · exact State.upgradeTest_upgradeTested _

theorem State.setAutoUpgrade_autoUpgrade (s : State) (on : Bool) :
    (s.setAutoUpgrade on).selector.settings.autoUpgrade = on := by
  cases on
  · rfl
  · exact congrArg SelectorSettings.autoUpgrade (State.upgradeTest_settings _)

theorem autoUpgrade_enumWrite (s : State) (r : Running) :
    EnumWrite .autoUpgradeWrite s r 2 166 2 fun b => s.setAutoUpgrade (decide (b = 0#8)) := by
  refine enumWrite_of_storeEnum (row := .autoUpgrade) rfl (fun _ => rfl) (by omega) (Option.some_ne_none _)
    (fun value => ?_) fun b hb => ?_
  · refine storeEnum_congr (f := fun n => s.setAutoUpgrade (decide (n = 0))) fun k hk => ?_
    interval_cases k <;> rfl
  · rw [State.readEntry_selectorWide _ (by omega)]
    show some (encBool !(s.setAutoUpgrade (decide (b = 0#8))).selector.settings.autoUpgrade) = some [b]
    rw [State.setAutoUpgrade_autoUpgrade]
    rcases eq_of_toNat_lt_two hb with rfl | rfl <;> rfl

/-! ### A programmed class (R63, R80) -/

theorem State.setClass_cls (s : State) (e : Ext) (n : Nat) :
    (s.setClass e n).selector.entries[e].cls = n := by
  have hm : (s.modEntry e fun v => { v with cls := n }).selector.entries[e].cls = n := by simp
  rcases s.withClassChange_cases e fun t => t.modEntry e fun v => { v with cls := n } with h | h <;>
    rw [State.setClass, h]
  · exact hm
  · rw [State.upgradeTest_entries]
    exact hm

theorem programmedClass_numericWrite (s : State) (r : Running) (e : Ext) :
    NumericWrite .programmedClassWrite s r 2 (32 * e.val + 2) 1 0 7 fun m => s.setClass e m.toNat := by
  refine numericWrite_of_storeNum (row := .programmedClass) rfl
    (fun value => writeRow_source e (by omega) value) (by omega) ?_ (by decide) (by omega)
    (fun value => s.storeEntry_source e (by omega) value) fun m h0 _ => ?_
  · rw [State.readEntry_source _ _ (by omega)]
    exact Option.some_ne_none _
  · rw [State.readEntry_source _ _ (by omega), if_neg (by omega)]
    show some (one (s.setClass e m.toNat).selector.entries[e].cls) = _
    rw [State.setClass_cls, one_eq_beBytes]

theorem clamp_class (n : Nat) : clamp 0 7 n = (min 7 n : Nat) := by
  unfold clamp
  split_ifs <;> omega

/-- Settles O36: auto-upgrade and the programmed class by the upgrade test, the other settings one by one. -/
theorem upgradeNeedsStrictlyLowerClass : Obligations.UpgradeNeedsStrictlyLowerClass := by
  unfold Obligations.UpgradeNeedsStrictlyLowerClass
  intro s r
  refine ⟨fun value hr hp => ?_, fun e value hr hp => ?_, ?_, ?_, ?_, ?_, ?_, ?_⟩
  · obtain ⟨hok, hbad⟩ := autoUpgrade_enumWrite s r value hr (mayWrite_of_permitted hp)
    refine ⟨?_, hbad⟩
    rintro b rfl hb
    exact ⟨_, s.setAutoUpgrade_upgradeTested (decide (b = 0#8)), hok b rfl hb⟩
  · obtain ⟨hbad, hok⟩ := programmedClass_numericWrite s r e value hr (mayWrite_of_permitted hp)
    refine ⟨hbad, ?_⟩
    rintro b rfl
    refine ⟨_, s.withClassChange_classJudged e fun t => t.modEntry e fun n => { n with cls := min 7 b.toNat }, ?_⟩
    have hv : (ofBytes [b] : Int) = b.toNat := by simp [ofBytes]
    have h := hok rfl
    simp only [lt_irrefl, if_false, hv, clamp_class, Int.toNat_natCast, Nat.cast_inj, inf_eq_right,
      ← one_eq_beBytes] at h
    exact h
  · exact selectorSetting_numericWrite (f := fun m c => { c with qualify := m.toNat }) (by omega)
      (fun _ => rfl) (by decide) (by omega) (fun _ => rfl) (fun _ _ _ => congrArg some (one_eq_beBytes _))
      (Option.some_ne_none _)
  · exact selectorSetting_numericWrite (f := fun m c => { c with retryTime := m.toNat }) (by omega)
      (fun _ => rfl) (by decide) (by omega) (fun _ => rfl) (fun _ _ _ => congrArg some (encField_natCast ..))
      (Option.some_ne_none _)
  · exact selectorSetting_numericWrite (f := fun m c => { c with missLimit := m.toNat }) (by omega)
      (fun _ => rfl) (by decide) (by omega) (fun _ => rfl) (fun _ _ _ => congrArg some (one_eq_beBytes _))
      (Option.some_ne_none _)
  · refine selectorSetting_numericWrite (f := fun m c => { c with disagreement := m }) (by omega)
      (fun _ => rfl) (by decide) (by omega) (fun _ => rfl) (fun q m h0 => ?_) (Option.some_ne_none _)
    lift m to Nat using by omega
    exact congrArg some (encField_natCast ..)
  · exact selectorSetting_numericWrite (f := fun m c => { c with waitToRestore := m.toNat }) (by omega)
      (fun _ => rfl) (by decide) (by omega) (fun _ => rfl) (fun _ _ _ => congrArg some (encField_natCast ..))
      (Option.some_ne_none _)
  · refine enumWrite_of_storeEnum (row := .writeEntry) rfl (fun _ => rfl) (by omega) (Option.some_ne_none _)
      (fun value => ?_) fun b hb => ?_
    · refine storeEnum_congr (f := fun n => s.modSelector fun q =>
        { q with settings := { q.settings with revertive := decide (n = 0) } }) fun k hk => ?_
      interval_cases k <;> rfl
    · rcases eq_of_toNat_lt_two hb with rfl | rfl <;> rfl

end Sys2Proof.Machine

/-! SUPPORT. The listed entries of a section as a table: what each reads as, and what a write of it comes to (R168,
R177, R178). -/

namespace Sys2Proof.Machine

open Sys2Proof.Config Sys2Proof.Safety

/-! ### One entry -/

/-- How the entries of a section, or of one unit's part of it, are read and written. -/
structure EntryView where
  /-- The indices that a write finds read-only. -/
  readOnly : List Nat
  /-- The indices whose write makes a test of its own before the value's (R115). -/
  own : Nat → Prop
  read : Nat → Option (List Byte)
  write : Nat → List Byte → Stored

/-- An entry reads as listed; a write finds it read-only, or refuses a value of another byte count. -/
structure ListedEntry (V : EntryView) (p : Nat × List Byte) : Prop where
  read : V.read p.1 = some p.2
  readOnly : p.1 ∈ V.readOnly → ∀ value, V.write p.1 value = .readOnly
  sized : p.1 ∉ V.readOnly → ¬V.own p.1 → ∀ value, value.length ≠ p.2.length →
    V.write p.1 value = .refuse .badValue

section Entry

variable {V : EntryView} {i : Nat} {v : List Byte}

theorem listed_readOnly (hi : V.readOnly.contains i = true) (hr : V.read i = some v)
    (hw : ∀ value, V.write i value = .readOnly) : ListedEntry V (i, v) :=
  ⟨hr, fun _ => hw, fun h => absurd (List.contains_iff_mem.mp hi) h⟩

theorem listed_sized (hi : V.readOnly.contains i = false) (hr : V.read i = some v)
    (hw : ∀ value, value.length ≠ v.length → V.write i value = .refuse .badValue) : ListedEntry V (i, v) :=
  ⟨hr, fun h => absurd (List.contains_iff_mem.mpr h) (hi ▸ Bool.false_ne_true), fun _ _ => hw⟩

theorem listed_own (hi : V.readOnly.contains i = false) (ho : V.own i) (hr : V.read i = some v) :
    ListedEntry V (i, v) :=
  ⟨hr, fun h => absurd (List.contains_iff_mem.mpr h) (hi ▸ Bool.false_ne_true), fun _ h => absurd ho h⟩

/-- A numeric field takes its own byte count. -/
theorem listed_num {lo hi : Int} {f : Int → State} (hi' : V.readOnly.contains i = false)
    (hr : V.read i = some v) (hw : ∀ value, V.write i value = storeNum lo hi value f)
    (hv : v.length = fieldWidth lo hi) : ListedEntry V (i, v) :=
  listed_sized hi' hr fun value h => by
    rw [hw, storeNum, decField, if_neg (hv ▸ h)]

/-- A signed field of `k` bytes. -/
theorem listed_int {lo hi x : Int} {k : Nat} {f : Int → State} (hi' : V.readOnly.contains i = false)
    (hr : V.read i = some (encField lo hi x)) (hw : ∀ value, V.write i value = storeNum lo hi value f)
    (hk : fieldWidth lo hi = k) : ListedEntry V (i, beInt k x) :=
  hk ▸ listed_num hi' hr hw (length_beInt ..)

/-- A field of `k` bytes that is not negative. -/
theorem listed_nat {lo hi k n : Nat} {f : Nat → State} (hi' : V.readOnly.contains i = false)
    (hr : V.read i = some (encField lo hi n)) (hw : ∀ value, V.write i value = storeNat lo hi value f)
    (hk : fieldWidth lo hi = k) : ListedEntry V (i, beBytes k n) :=
  beInt_natCast k n ▸ listed_int hi' hr hw hk

/-- A field of one byte that is not negative. -/
theorem listed_byte {lo hi n : Nat} {f : Nat → State} (hi' : V.readOnly.contains i = false)
    (hr : V.read i = some [byte n]) (hw : ∀ value, V.write i value = storeNat lo hi value f)
    (hk : fieldWidth lo hi = 1) : ListedEntry V (i, [byte n]) :=
  listed_num hi' hr hw hk.symm

/-- An enumerated field takes one byte. -/
theorem listed_enum {n : Nat} {f : Nat → State} (hi : V.readOnly.contains i = false) (hr : V.read i = some v)
    (hw : ∀ value, V.write i value = storeEnum n value f) (hv : v.length = 1) : ListedEntry V (i, v) :=
  listed_sized hi hr fun value h => (hw value).trans <|
    match value, h with
    | [_], h => absurd hv.symm h
    | [], _ => rfl
    | _ :: _ :: _, _ => rfl

/-- A set takes one byte. -/
theorem listed_set {n : Nat} {f : Byte → State} (hi : V.readOnly.contains i = false) (hr : V.read i = some v)
    (hw : ∀ value, V.write i value = storeSet n value f) (hv : v.length = 1) : ListedEntry V (i, v) :=
  listed_enum hi hr (fun value => (hw value).trans (storeSet_eq_storeEnum n value f)) hv

end Entry

/-! ### A table of entries -/

/-- The list `l` holds, of the indices in `D`, each that reads as anything, with what it reads as. -/
structure EntryTable (D : Nat → Prop) (V : EntryView) (l : List (Nat × List Byte)) : Prop where
  entries : ∀ p ∈ l, D p.1 ∧ ListedEntry V p
  listed : ∀ i, D i → V.read i ≠ none → i ∈ l.map Prod.fst

section Table

variable {V : EntryView} {l : List (Nat × List Byte)}

/-- A table written out, with its indices. -/
theorem EntryTable.ofIndices {D : Nat → Prop} (ix : List Nat) (hix : l.map Prod.fst = ix)
    (hb : ∀ i ∈ ix, D i) (he : ∀ p ∈ l, ListedEntry V p) (hn : ∀ i, D i → i ∉ ix → V.read i = none) :
    EntryTable D V l := by
  subst hix
  exact ⟨fun p hp => ⟨hb _ (List.mem_map_of_mem hp), he p hp⟩, fun i hd hr => by
    by_contra hi
    exact hr (hn i hd hi)⟩

theorem EntryTable.single {i : Nat} {v : List Byte} (h : ListedEntry V (i, v)) :
    EntryTable (· = i) V [(i, v)] :=
  ⟨fun p hp => by obtain rfl := List.mem_singleton.mp hp; exact ⟨rfl, h⟩, fun j hj _ => by simp [hj]⟩

theorem EntryTable.append {D D' : Nat → Prop} {l' : List (Nat × List Byte)} (h : EntryTable D V l)
    (h' : EntryTable D' V l') : EntryTable (fun i => D i ∨ D' i) V (l ++ l') := by
  refine ⟨fun p hp => ?_, fun i hi hr => ?_⟩
  · rcases List.mem_append.mp hp with hp | hp
    · exact ⟨.inl (h.entries p hp).1, (h.entries p hp).2⟩
    · exact ⟨.inr (h'.entries p hp).1, (h'.entries p hp).2⟩
  · rw [List.map_append, List.mem_append]
    exact hi.imp (fun hd => h.listed i hd hr) fun hd => h'.listed i hd hr

theorem EntryTable.flatMap {m : Nat} {D : Fin m → Nat → Prop} {l : Fin m → List (Nat × List Byte)}
    (h : ∀ k, EntryTable (D k) V (l k)) :
    EntryTable (fun i => ∃ k, D k i) V ((List.finRange m).flatMap l) := by
  refine ⟨fun p hp => ?_, fun i ⟨k, hk⟩ hr => ?_⟩
  · obtain ⟨k, -, hp⟩ := List.mem_flatMap.mp hp
    exact ⟨⟨k, ((h k).entries p hp).1⟩, ((h k).entries p hp).2⟩
  · obtain ⟨p, hp, rfl⟩ := List.mem_map.mp ((h k).listed i hk hr)
    exact List.mem_map_of_mem (List.mem_flatMap.mpr ⟨k, List.mem_finRange k, hp⟩)

/-- One entry for each unit. -/
theorem EntryTable.map {m : Nat} {ix : Fin m → Nat} {v : Fin m → List Byte}
    (h : ∀ k, ListedEntry V (ix k, v k)) :
    EntryTable (fun i => ∃ k, i = ix k) V ((List.finRange m).map fun k => (ix k, v k)) := by
  rw [List.map_eq_flatMap]
  exact .flatMap fun k => .single (h k)

/-- A unit's part of a section, from a base index. -/
theorem EntryTable.atBase {base n : Nat} {B : EntryView} (h : EntryTable (· < n) B l)
    (hro : ∀ off < n, base + off ∈ V.readOnly ↔ off ∈ B.readOnly)
    (hown : ∀ off < n, B.own off → V.own (base + off))
    (hread : ∀ off < n, V.read (base + off) = B.read off)
    (hwrite : ∀ off < n, ∀ value, V.write (base + off) value = B.write off value) :
    EntryTable (fun i => base ≤ i ∧ i < base + n) V (atBase base l) := by
  refine ⟨fun p hp => ?_, fun i ⟨hb, hn⟩ hr => ?_⟩
  · obtain ⟨⟨off, v⟩, hq, rfl⟩ := List.mem_map.mp hp
    obtain ⟨hlt, he⟩ := h.entries _ hq
    refine ⟨⟨by omega, by dsimp only at *; omega⟩, (hread off hlt).trans he.read, fun hi value => ?_,
      fun hi ho value hv => ?_⟩
    · exact (hwrite off hlt value).trans (he.readOnly ((hro off hlt).mp hi) value)
    · exact (hwrite off hlt value).trans
        (he.sized (fun h => hi ((hro off hlt).mpr h)) (fun h => ho (hown off hlt h)) value hv)
  · obtain ⟨off, rfl⟩ := Nat.exists_eq_add_of_le hb
    have hlt : off < n := by omega
    rw [hread off hlt] at hr
    obtain ⟨q, hq, rfl⟩ := List.mem_map.mp (h.listed off hlt hr)
    exact List.mem_map.mpr ⟨(base + q.1, q.2), List.mem_map_of_mem hq, rfl⟩

/-- A table of a view that agrees on the indices in `D`. -/
theorem EntryTable.congr {D : Nat → Prop} {B : EntryView} (h : EntryTable D B l)
    (hro : ∀ i, D i → (i ∈ V.readOnly ↔ i ∈ B.readOnly)) (hown : ∀ i, D i → B.own i → V.own i)
    (hread : ∀ i, D i → V.read i = B.read i)
    (hwrite : ∀ i, D i → ∀ value, V.write i value = B.write i value) :
    EntryTable D V l := by
  refine ⟨fun p hp => ?_, fun i hi hr => h.listed i hi (hread i hi ▸ hr)⟩
  obtain ⟨hd, he⟩ := h.entries p hp
  refine ⟨hd, (hread _ hd).trans he.read, fun hi value => ?_, fun hi ho value hv => ?_⟩
  · exact (hwrite _ hd value).trans (he.readOnly ((hro _ hd).mp hi) value)
  · exact (hwrite _ hd value).trans
      (he.sized (fun h => hi ((hro _ hd).mpr h)) (fun h => ho (hown _ hd h)) value hv)

theorem EntryTable.mono {D D' : Nat → Prop} (h : EntryTable D V l) (hD : ∀ i, D i → D' i)
    (hn : ∀ i, D' i → ¬D i → V.read i = none) : EntryTable D' V l := by
  refine ⟨fun p hp => ⟨hD _ (h.entries p hp).1, (h.entries p hp).2⟩, fun i hi hr => h.listed i ?_ hr⟩
  by_contra hd
  exact hr (hn i hi hd)

/-- A table of all the indices of a section. -/
theorem EntryTable.whole {D : Nat → Prop} (h : EntryTable D V l) (hn : ∀ i, ¬D i → V.read i = none) :
    EntryTable (fun _ => True) V l :=
  h.mono (fun _ _ => trivial) fun i _ => hn i

end Table

end Sys2Proof.Machine

/-! SUPPORT. The tables of the units' entries, one for each block of a section (R64, R148, R160, R179, R194). -/

namespace Sys2Proof.Machine

open Sys2Proof.Config Sys2Proof.Safety

/-! ### Lists of fields -/

/-- A list of items of one byte each. -/
theorem encList_byte {α : Type} (f : α → Byte) (l : List α) :
    encList (fun a => [f a]) l = byte l.length :: l.map f := by
  rw [encList, List.map_eq_flatMap]

/-! ### Outputs (R160) -/

section Outputs

variable (s : State)

/-- A pulse output's entries, by offset. -/
def pulseView (k : PulseOut) : EntryView :=
  ⟨[8, 12], fun _ => False, s.pulses[k].read, s.writePulse k⟩

theorem pulseEntries_table (k : PulseOut) :
    EntryTable (· < 16) (pulseView s k) (pulseEntries s.pulses[k]) := by
  refine .ofIndices [0, 1, 2, 8, 12] rfl (by decide) ?_ fun i _ hi => ?_
  · simp only [pulseEntries, List.forall_mem_cons]
    exact ⟨listed_int rfl rfl (State.writePulse.eq_1 s k) rfl,
      listed_nat rfl rfl (State.writePulse.eq_2 s k) rfl,
      listed_byte rfl rfl (State.writePulse.eq_3 s k) rfl, listed_readOnly rfl rfl fun _ => rfl,
      listed_readOnly rfl rfl fun _ => rfl, List.forall_mem_nil _⟩
  · show PulseUnit.read _ _ = _
    unfold PulseUnit.read
    split <;> simp at hi ⊢

/-- A coded-time output's entries, by offset. -/
def codedView (m : CodedOut) : EntryView :=
  ⟨[8, 12], fun _ => False, s.coded[m].read, s.writeCoded m⟩

theorem codedUnit_stateRead (o : CodedUnit) : encBool o.line.busy ++ encStamp o.next ++ beBytes 6 o.names =
    (match o.line with | .idle => 0#8 | .sending _ _ _ _ => 1#8) :: (encStamp o.next ++ beBytes 6 o.names) := by
  cases o.line <;> rfl

theorem codedEntries_table (m : CodedOut) :
    EntryTable (· < 16) (codedView s m) (codedEntries s.coded[m]) := by
  refine .ofIndices [0, 1, 2, 8, 12] rfl (by decide) ?_ fun i _ hi => ?_
  · simp only [codedEntries, List.forall_mem_cons]
    exact ⟨listed_nat rfl rfl (State.writeCoded.eq_1 s m) rfl,
      listed_nat rfl rfl (State.writeCoded.eq_2 s m) rfl,
      listed_enum rfl rfl (State.writeCoded.eq_3 s m) rfl,
      listed_readOnly rfl (congrArg some (codedUnit_stateRead s.coded[m])) fun _ => rfl,
      listed_readOnly rfl rfl fun _ => rfl, List.forall_mem_nil _⟩
  · show CodedUnit.read _ _ = _
    unfold CodedUnit.read
    split <;> simp at hi ⊢

end Outputs

/-! ### Ports (R148) -/

section Ports

variable (s : State)

/-- A port's entries, by offset. -/
def portView (p : Port) : EntryView :=
  ⟨[8, 9, 10, 11, 12, 13, 16], fun _ => False, s.ports[p].read, s.writePort p⟩

theorem mapBytes_eq_mapRead (m : List SlotEntry) : mapBytes m = mapRead m :=
  encList_byte _ m

theorem portUnit_linkRead (q : PortUnit) : [byte q.state.code, byte (linkCode q.link)] =
    [byte q.state.code, match q.link with | .up => 0#8 | .down => 1#8] := by
  cases q.link <;> rfl

theorem portEntries_table (p : Port) :
    EntryTable (· < 32) (portView s p) (portEntries s.ports[p]) := by
  have hmap : encOption mapBytes s.ports[p].map = encOption mapRead s.ports[p].map :=
    congrArg (encOption · _) (funext mapBytes_eq_mapRead)
  refine .ofIndices [0, 1, 2, 3, 4, 5, 8, 9, 10, 11, 12, 13, 16] rfl (by decide) ?_ fun i _ hi => ?_
  · simp only [portEntries, List.forall_mem_cons]
    exact ⟨listed_enum rfl rfl (State.writePort.eq_1 s p) rfl,
      listed_byte rfl rfl (State.writePort.eq_2 s p) rfl,
      listed_nat rfl rfl (State.writePort.eq_3 s p) rfl,
      listed_byte rfl rfl (State.writePort.eq_4 s p) rfl,
      listed_nat rfl rfl (State.writePort.eq_5 s p) rfl,
      listed_nat rfl rfl (State.writePort.eq_6 s p) rfl,
      listed_readOnly rfl (congrArg some (portUnit_linkRead s.ports[p])) fun _ => rfl,
      listed_readOnly rfl (congrArg some hmap) fun _ => rfl, listed_readOnly rfl rfl fun _ => rfl,
      listed_readOnly rfl rfl fun _ => rfl, listed_readOnly rfl rfl fun _ => rfl,
      listed_readOnly rfl rfl fun _ => rfl, listed_readOnly rfl rfl fun _ => rfl, List.forall_mem_nil _⟩
  · show PortUnit.read _ _ = _
    unfold PortUnit.read
    split <;> simp at hi ⊢

end Ports

/-! ### Station time and steering (R106) -/

section Wide

variable (s : State)

/-- A section's entries. -/
def sectionView (x : Elapsed) (sect : Nat) : EntryView :=
  ⟨readOnlyOf sect, isMapIndex sect, fun i => s.readEntry sect i x, s.storeEntry sect⟩

theorem stepRecord_bytes : StepRecord.bytes = fun r : StepRecord =>
    (match r.origin with | .steering => 0#8 | .command => 1#8) :: (encWide r.offset ++ encStamp r.after) := by
  funext r
  obtain ⟨origin, offset, after⟩ := r
  cases origin <;> rfl

theorem timeEntries_table (x : Elapsed) : EntryTable (fun _ => True) (sectionView s x 4) (timeEntries s x) := by
  have hrec := congrArg (encOption · s.timebase.record ++ encCount s.timebase.stepCount) stepRecord_bytes
  refine .ofIndices [0, 1, 2, 3, 4] rfl (fun _ _ => trivial) ?_ fun i _ hi => ?_
  · simp only [timeEntries, List.forall_mem_cons]
    exact ⟨listed_readOnly rfl rfl fun _ => rfl, listed_readOnly rfl rfl fun _ => rfl,
      listed_int rfl rfl (State.writeTimeSection.eq_1 s) rfl,
      listed_int rfl rfl (State.writeTimeSection.eq_2 s) rfl,
      listed_readOnly rfl (congrArg some hrec) fun _ => rfl, List.forall_mem_nil _⟩
  · show s.readTimeSection i x = _
    unfold State.readTimeSection
    split <;> simp at hi ⊢

theorem steeringEntries_table (x : Elapsed) :
    EntryTable (fun _ => True) (sectionView s x 3) (steeringEntries s) := by
  refine .ofIndices (List.range 21) rfl (fun _ _ => trivial) ?_ fun i _ hi => ?_
  · simp only [steeringEntries, List.forall_mem_cons]
    exact ⟨listed_readOnly rfl rfl fun _ => rfl, listed_readOnly rfl rfl fun _ => rfl,
      listed_readOnly rfl rfl fun _ => rfl, listed_readOnly rfl rfl fun _ => rfl,
      listed_readOnly rfl rfl fun _ => rfl, listed_readOnly rfl rfl fun _ => rfl,
      listed_set rfl rfl (State.writeSteering.eq_1 s) rfl,
      listed_set rfl rfl (State.writeSteering.eq_2 s) rfl,
      listed_int rfl rfl (State.writeSteering.eq_3 s) rfl,
      listed_int rfl rfl (State.writeSteering.eq_4 s) rfl,
      listed_byte rfl rfl (State.writeSteering.eq_5 s) rfl,
      listed_int rfl rfl (State.writeSteering.eq_6 s) rfl,
      listed_byte rfl rfl (State.writeSteering.eq_7 s) rfl,
      listed_byte rfl rfl (State.writeSteering.eq_8 s) rfl,
      listed_byte rfl rfl (State.writeSteering.eq_9 s) rfl,
      listed_byte rfl rfl (State.writeSteering.eq_10 s) rfl,
      listed_byte rfl rfl (State.writeSteering.eq_11 s) rfl,
      listed_nat rfl rfl (State.writeSteering.eq_12 s) rfl,
      listed_nat rfl rfl (State.writeSteering.eq_13 s) rfl, listed_readOnly rfl rfl fun _ => rfl,
      listed_readOnly rfl rfl fun _ => rfl, List.forall_mem_nil _⟩
  · show s.readSteering i = _
    unfold State.readSteering
    split <;> simp at hi ⊢

end Wide

end Sys2Proof.Machine

/-! SUPPORT. The tables of the sources' entries: the units', LOCAL's and the selector's own (R64). -/

namespace Sys2Proof.Machine

open Sys2Proof.Config Sys2Proof.Safety

/-! ### The state of a unit as it reads (log entries 25, 31 and 44) -/

theorem tracker_bytes (t : Tracker) : t.bytes =
    match t with
    | .idle => [0#8, 0#8]
    | .seeking => [1#8, 0#8]
    | .tracking x _ => [2#8, 1#8] ++ encStamp x := by
  cases t <;> rfl

theorem held_bytes (h : Held) : h.bytes =
    match h with
    | .nothing => [0#8]
    | .pulse c w => [1#8, 0#8] ++ encStamp c ++ encStamp w
    | .sentence t w =>
      [1#8, 1#8] ++ (beBytes 6 t.seconds ++ beInt 1 t.scale ++ encBool t.locked ++ [byte t.cls]) ++
        encStamp w := by
  cases h <;> rfl

theorem receiver_code (r : Receiver) : one r.code =
    [match r with
      | .idle | .lowIdle => 0#8
      | .character _ _ | .leadWait _ _ => 1#8
      | .inBreak => 2#8
      | .measuring | .counting _ _ => 3#8] := by
  cases r <;> rfl

theorem assembler_bytes (a : Assembler) : a.bytes =
    match a with
    | .waitBreak => [0#8, 0#8, 0#8, 0#8]
    | .lead => [1#8, 0#8, 0#8, 0#8]
    | .kind => [2#8, 0#8, 0#8, 0#8]
    | .length k => [3#8, k, 0#8, 0#8]
    | .body k n got => [4#8, k, byte n, byte got.length] ++ got
    | .check k n got => [5#8, k, byte n, byte got.length] ++ got := by
  cases a <;> simp [Assembler.bytes, encList]

theorem transmitter_busy (t : Transmitter) : encBool t.busy =
    [match t with
      | .idle => 0#8
      | .sending _ _ _ _ => 1#8] := by
  cases t <;> rfl

theorem inputUnit_stateBytes (i : InputUnit) : i.stateBytes = inputStateRead i := by
  rw [InputUnit.stateBytes, tracker_bytes, held_bytes, receiver_code, assembler_bytes, transmitter_busy]
  rfl

theorem uplinkUnit_mean (i : UplinkUnit) :
    i.mean = if i.window = [] then none else some (i.window.sum.tdiv i.window.length) := by
  simp [UplinkUnit.mean, towardZero]

theorem uplinkUnit_stateBytes (i : UplinkUnit) : i.stateBytes = uplinkStateRead i := by
  rw [UplinkUnit.stateBytes, uplinkUnit_mean]
  rfl

/-! ### The entries of a source's unit -/

theorem inSource_lt (u : InUnit) : (inSource u).val < 2 :=
  u.isLt

theorem not_upSource_lt (u : UpUnit) : ¬(upSource u).val < 2 :=
  Nat.not_lt.mpr (Nat.le_add_left 2 u.val)

section Units

variable (s : State)

/-- An input unit's entries, by offset. -/
def inputView (u : InUnit) : EntryView :=
  ⟨[24, 25], fun _ => False, s.inputs[u].read, s.writeInput u⟩

theorem inputEntries_table (u : InUnit) :
    EntryTable (fun i => 16 ≤ i ∧ i < 32) (inputView s u) (unitEntries s (inSource u)) := by
  have he : unitEntries s (inSource u) = _ := dif_pos (inSource_lt u)
  rw [he]
  refine .ofIndices [16, 17, 18, 19, 20, 21, 24, 25] rfl (by decide) ?_ fun i _ hi => ?_
  · simp only [List.forall_mem_cons]
    exact ⟨listed_nat rfl rfl (State.writeInput.eq_1 s u) rfl,
      listed_nat rfl rfl (State.writeInput.eq_2 s u) rfl,
      listed_enum rfl rfl (State.writeInput.eq_3 s u) rfl, listed_enum rfl rfl (State.writeInput.eq_4 s u) rfl,
      listed_enum rfl rfl (State.writeInput.eq_5 s u) rfl, listed_nat rfl rfl (State.writeInput.eq_6 s u) rfl,
      listed_readOnly rfl rfl fun _ => rfl,
      listed_readOnly rfl (congrArg some (inputUnit_stateBytes s.inputs[u])) fun _ => rfl,
      List.forall_mem_nil _⟩
  · show InputUnit.read _ _ = _
    unfold InputUnit.read
    split <;> simp at hi ⊢

/-- An uplink unit's entries, by offset. -/
def uplinkView (u : UpUnit) : EntryView :=
  ⟨[24, 25], fun _ => False, s.uplinks[u].read, s.writeUplink u⟩

theorem uplinkEntries_table (u : UpUnit) :
    EntryTable (fun i => 16 ≤ i ∧ i < 32) (uplinkView s u) (unitEntries s (upSource u)) := by
  have he : unitEntries s (upSource u) = _ := dif_neg (not_upSource_lt u)
  rw [he]
  refine .ofIndices [16, 17, 18, 19, 20, 21, 24, 25] rfl (by decide) ?_ fun i _ hi => ?_
  · simp only [List.forall_mem_cons]
    exact ⟨listed_nat rfl rfl (State.writeUplink.eq_1 s u) rfl,
      listed_nat rfl rfl (State.writeUplink.eq_2 s u) rfl,
      listed_num rfl rfl (State.writeUplink.eq_3 s u) rfl,
      listed_byte rfl rfl (State.writeUplink.eq_4 s u) rfl,
      listed_byte rfl rfl (State.writeUplink.eq_5 s u) rfl,
      listed_nat rfl rfl (State.writeUplink.eq_6 s u) rfl, listed_readOnly rfl rfl fun _ => rfl,
      listed_readOnly rfl (congrArg some (uplinkUnit_stateBytes s.uplinks[u])) fun _ => rfl,
      List.forall_mem_nil _⟩
  · show UplinkUnit.read _ _ = _
    unfold UplinkUnit.read
    split <;> simp at hi ⊢

/-- The offsets of an external source that a write finds read-only: the cable delay of an UP entry too. -/
def sourceReadOnly (e : Nat) : List Nat :=
  [5, 6, 7, 8, 9, 10, 11, 12, 24, 25] ++ if e < 2 then [] else [3]

/-- An external source's entries, by offset. -/
def sourceView (e : Ext) : EntryView :=
  ⟨sourceReadOnly e.val, fun _ => False, s.readSource e, s.writeSource e⟩

theorem mem_sourceReadOnly {e i : Nat} (h : 16 ≤ i) : i ∈ sourceReadOnly e ↔ i ∈ [24, 25] := by
  unfold sourceReadOnly
  split <;> simp <;> omega

theorem unitEntries_table (e : Ext) :
    EntryTable (fun i => 16 ≤ i ∧ i < 32) (sourceView s e) (unitEntries s e) := by
  rcases input_or_uplink e with ⟨u, rfl⟩ | ⟨u, rfl⟩
  · exact (inputEntries_table s u).congr (fun _ h => mem_sourceReadOnly h.1) (fun _ _ => id)
      (fun _ h => s.readSource_inSource u h.1) fun _ h => s.writeSource_inSource u h.1
  · exact (uplinkEntries_table s u).congr (fun _ h => mem_sourceReadOnly h.1) (fun _ _ => id)
      (fun _ h => s.readSource_upSource u h.1) fun _ h => s.writeSource_upSource u h.1

/-! ### The entries of a source -/

theorem State.writeUnit_low (e : Ext) {off : Nat} (h : off < 16) (value : List Byte) :
    s.writeUnit e off value = .readOnly := by
  rcases input_or_uplink e with ⟨u, rfl⟩ | ⟨u, rfl⟩
  · simp only [State.writeUnit, inputOf_inSource]
    unfold State.writeInput
    split <;> simp at h ⊢
  · simp only [State.writeUnit, inputOf_upSource, uplinkOf_upSource]
    unfold State.writeUplink
    split <;> simp at h ⊢

theorem State.readUnit_low (e : Ext) {off : Nat} (h : off < 16) : s.readUnit e off = none := by
  rcases input_or_uplink e with ⟨u, rfl⟩ | ⟨u, rfl⟩
  · simp only [State.readUnit, inputOf_inSource]
    unfold InputUnit.read
    split <;> simp at h ⊢
  · simp only [State.readUnit, inputOf_upSource, uplinkOf_upSource]
    unfold UplinkUnit.read
    split <;> simp at h ⊢

theorem contains_sourceReadOnly {e i : Nat} (h : i ≠ 3) :
    (sourceReadOnly e).contains i = [5, 6, 7, 8, 9, 10, 11, 12, 24, 25].contains i := by
  unfold sourceReadOnly
  split <;> simp [h]

/-- The cable delay: an IN entry's setting, and read-only as 0 of an UP entry (R64). -/
theorem listed_cableDelay (e : Ext) : ListedEntry (sourceView s e)
    (3, beBytes 4 (if e.val < 2 then s.selector.entries[e].cableDelay else 0)) := by
  rcases input_or_uplink e with ⟨u, rfl⟩ | ⟨u, rfl⟩
  · have hu := inSource_lt u
    have hro : sourceReadOnly (inSource u).val = [5, 6, 7, 8, 9, 10, 11, 12, 24, 25] := by
      rw [sourceReadOnly, if_pos hu]; rfl
    have hr : s.cableDelayRead (inSource u) = s.selector.entries[inSource u].cableDelay := by
      simp [State.cableDelayRead]
    rw [if_pos hu]
    exact listed_nat (by rw [sourceView, hro]; rfl) (congrArg (some <| encField 0 1600000000 ·) hr)
      (fun value => (State.writeSource.eq_4 s (inSource u) value).trans (if_neg (by simp))) rfl
  · have hu := not_upSource_lt u
    have hro : sourceReadOnly (upSource u).val = [5, 6, 7, 8, 9, 10, 11, 12, 24, 25, 3] := by
      rw [sourceReadOnly, if_neg hu]; rfl
    have hr : s.cableDelayRead (upSource u) = 0 := by simp [State.cableDelayRead]
    rw [if_neg hu]
    exact listed_readOnly (by rw [sourceView, hro]; rfl) (congrArg (some <| encField 0 1600000000 ·) hr)
      fun value => (State.writeSource.eq_4 s (upSource u) value).trans (if_pos (by simp))

theorem State.advertisedBytes_eq (e : Ext) : s.advertisedBytes e =
    if h : e.val < 2 then
      encOption (fun d : Descriptor => encOption (beInt 4) d.deviceDelay ++
        encOption (fun c => [byte c]) d.cls ++ d.identity) s.selector.entries[e].descriptor
    else encOption (fun c => [byte c]) s.uplinks[e.val - 2].lastClass := by
  rcases input_or_uplink e with ⟨u, rfl⟩ | ⟨u, rfl⟩
  · rw [State.advertisedBytes, uplinkOf_inSource, dif_pos (inSource_lt u)]
    rfl
  · rw [State.advertisedBytes, uplinkOf_upSource, dif_neg (not_upSource_lt u)]
    rfl

theorem sourceEntries_table (e : Ext) : EntryTable (· < 32) (sourceView s e) (sourceEntries s e) := by
  have hro {i : Nat} (h : i ≠ 3) := contains_sourceReadOnly (e := e.val) h
  have hw (off : Nat) (h : off < 16) := s.writeUnit_low e h
  refine (EntryTable.append (D := (· < 16)) ?_ (unitEntries_table s e)).mono (by omega) (by omega)
  refine .ofIndices (List.range 13) rfl (by decide) ?_ fun i hi hl => ?_
  · simp only [List.forall_mem_cons]
    exact ⟨listed_enum (hro (by decide)) rfl (State.writeSource.eq_1 s e) rfl,
      listed_byte (hro (by decide)) rfl (State.writeSource.eq_2 s e) rfl,
      listed_byte (hro (by decide)) rfl (State.writeSource.eq_3 s e) rfl, listed_cableDelay s e,
      listed_int (hro (by decide)) rfl (State.writeSource.eq_5 s e) rfl,
      listed_readOnly (hro (by decide)) rfl (hw 5 (by decide)),
      listed_readOnly (hro (by decide)) (congrArg some (s.advertisedBytes_eq e)) (hw 6 (by decide)),
      listed_readOnly (hro (by decide)) rfl (hw 7 (by decide)),
      listed_readOnly (hro (by decide)) rfl (hw 8 (by decide)),
      listed_readOnly (hro (by decide)) rfl (hw 9 (by decide)),
      listed_readOnly (hro (by decide)) rfl (hw 10 (by decide)),
      listed_readOnly (hro (by decide)) rfl (hw 11 (by decide)),
      listed_readOnly (hro (by decide)) rfl (hw 12 (by decide)), List.forall_mem_nil _⟩
  · show s.readSource e i = _
    unfold State.readSource
    split
    iterate 13 exact absurd (List.mem_range.mpr (by decide)) hl
    exact s.readUnit_low e hi

end Units

/-! ### LOCAL and the selector's own entries -/

/-- LOCAL's entries, by offset. -/
def localView : EntryView :=
  ⟨List.range 13, fun _ => False, readLocal, fun _ _ => .readOnly⟩

theorem localEntries_table : EntryTable (· < 32) localView localEntries := by
  refine .ofIndices (List.range 13) rfl (by decide) ?_ fun i _ hi => ?_
  · simp only [localEntries, List.forall_mem_cons]
    exact ⟨listed_readOnly rfl rfl fun _ => rfl, listed_readOnly rfl rfl fun _ => rfl,
      listed_readOnly rfl rfl fun _ => rfl, listed_readOnly rfl rfl fun _ => rfl,
      listed_readOnly rfl rfl fun _ => rfl, listed_readOnly rfl rfl fun _ => rfl,
      listed_readOnly rfl rfl fun _ => rfl, listed_readOnly rfl rfl fun _ => rfl,
      listed_readOnly rfl rfl fun _ => rfl, listed_readOnly rfl rfl fun _ => rfl,
      listed_readOnly rfl rfl fun _ => rfl, listed_readOnly rfl rfl fun _ => rfl,
      listed_readOnly rfl rfl fun _ => rfl, List.forall_mem_nil _⟩
  · show readLocal i = _
    unfold readLocal
    split <;> simp at hi ⊢

/-- The selector-wide entries. -/
def selectorView (s : State) : EntryView :=
  ⟨[167, 168], fun _ => False, s.selector.read, s.writeSelector⟩

theorem stackBytes_eq (stack : List StackEntry) : stackBytes stack =
    byte stack.length :: (stack.flatMap fun t =>
      byte t.source.val :: byte t.cause.code :: (beBytes 6 t.second ++ encWide t.learned ++
        [byte t.learnedCount, byte t.options.code])) ++
      [byte stack.length] ++ encBool (decide (stack.length = 4)) ++ encBool (decide (stack = [])) := by
  have hb : StackEntry.bytes = fun t => byte t.source.val :: byte t.cause.code ::
      (beBytes 6 t.second ++ encWide t.learned ++ [byte t.learnedCount, byte t.options.code]) := by
    funext t
    simp [StackEntry.bytes, one]
  rw [stackBytes, encList, hb]
  cases stack <;> rfl

theorem selectorEntries_table (s : State) :
    EntryTable (160 ≤ ·) (selectorView s) (selectorEntries s.selector) := by
  refine .ofIndices [160, 161, 162, 163, 164, 165, 166, 167, 168] rfl (by decide) ?_ fun i _ hi => ?_
  · simp only [selectorEntries, List.forall_mem_cons]
    exact ⟨listed_byte rfl rfl (State.writeSelector.eq_1 s) rfl,
      listed_nat rfl rfl (State.writeSelector.eq_2 s) rfl,
      listed_byte rfl rfl (State.writeSelector.eq_3 s) rfl,
      listed_int rfl rfl (State.writeSelector.eq_4 s) rfl,
      listed_nat rfl rfl (State.writeSelector.eq_5 s) rfl,
      listed_enum rfl rfl (State.writeSelector.eq_6 s) rfl,
      listed_enum rfl rfl (State.writeSelector.eq_7 s) rfl, listed_readOnly rfl rfl fun _ => rfl,
      listed_readOnly rfl (congrArg some (stackBytes_eq s.selector.stack)) fun _ => rfl, List.forall_mem_nil _⟩
  · show Selector.read _ _ = _
    unfold Selector.read
    split <;> simp at hi ⊢

end Sys2Proof.Machine

/-! SUPPORT. The tables of the nine sections, from those of their blocks (R64, R106, R116, R148, R160, R179, R181,
R194). -/

namespace Sys2Proof.Machine

open Sys2Proof.Config Sys2Proof.Safety

variable (s : State) (x : Elapsed)

/-! ### IDENTITY, ACCESS and PLANS (R116, R179, R181) -/

theorem identityEntries_table : EntryTable (fun _ => True) (sectionView s x 0) (entriesOf s x 0) := by
  refine .ofIndices [0, 1, 2] rfl (fun _ _ => trivial) ?_ fun i _ hi => ?_
  · simp only [entriesOf, List.forall_mem_cons]
    exact ⟨listed_readOnly rfl rfl fun _ => rfl, listed_readOnly rfl rfl fun _ => rfl,
      listed_readOnly rfl rfl fun _ => rfl, List.forall_mem_nil _⟩
  · show readIdentity i = _
    unfold readIdentity
    split <;> simp at hi ⊢

theorem State.writeAccess_rights {i : Nat} (h : i < 3) {value : List Byte} (hv : value.length ≠ 4) :
    s.writeAccess i value = .refuse .badValue := by
  have hr : readRights value = none := if_neg fun h => hv h.1
  rw [State.writeAccess, dif_pos h, hr]

theorem State.writeAccess_guard {i : Nat} (h : 8 ≤ i ∧ i < 12) {value : List Byte} (hv : value.length ≠ 6) :
    s.writeAccess i value = .refuse .badValue := by
  have hr : readGuard value = none := if_neg fun h => hv h.1
  rw [State.writeAccess, dif_neg (by omega), dif_pos h, hr]

theorem listed_rights (l : Link) : ListedEntry (sectionView s x 8)
    (l.val, beBytes 2 s.access.rights[l].read.toNat ++ beBytes 2 s.access.rights[l].write.toNat) := by
  have hro : ∀ l : Link, (readOnlyOf 8).contains l.val = false := by decide
  exact listed_sized (hro l) (dif_pos l.isLt) fun _ hv => s.writeAccess_rights l.isLt (by simpa using hv)

theorem listed_guard (g : Fin 4) : ListedEntry (sectionView s x 8)
    (8 + g.val, encBool s.access.guards[g].inUse ++ byte s.access.guards[g].sect ::
      (beBytes 2 s.access.guards[g].first ++ beBytes 2 s.access.guards[g].last)) := by
  have hro : ∀ g : Fin 4, (readOnlyOf 8).contains (8 + g.val) = false := by decide
  have hg : 8 ≤ 8 + g.val ∧ 8 + g.val < 12 := by omega
  refine listed_sized (hro g) ?_ fun _ hv => s.writeAccess_guard hg (by simpa [encBool] using hv)
  show s.readAccess (8 + g.val) = _
  rw [State.readAccess, dif_neg (by omega), dif_pos hg]
  simp [Guard.bytes, one]

theorem accessEntries_table : EntryTable (fun _ => True) (sectionView s x 8) (accessEntries s.access) := by
  refine (((EntryTable.map (listed_rights s x)).append (.map (listed_guard s x))).append
    (.ofIndices [16, 17] (D := fun i => 16 ≤ i ∧ i < 18) rfl (by decide) ?_ fun i hi hl => ?_)).whole
      fun i hi => ?_
  · simp only [List.forall_mem_cons]
    exact ⟨listed_readOnly rfl rfl fun _ => rfl, listed_readOnly rfl rfl fun _ => rfl, List.forall_mem_nil _⟩
  · simp at hl
    omega
  · simp only [not_or, not_exists] at hi
    obtain ⟨⟨hr, hg⟩, hf⟩ := hi
    have h3 : ¬i < 3 := fun h => hr ⟨i, h⟩ rfl
    have h12 : ¬(8 ≤ i ∧ i < 12) := fun h => hg ⟨i - 8, by omega⟩ (by dsimp only; omega)
    show s.readAccess i = _
    rw [State.readAccess, dif_neg h3, dif_neg h12, if_neg (by omega), if_neg (by omega)]

/-! ### PLANS (R116) -/

/-- A bank's entries, from the index where its part begins. -/
def bankView (base : Nat) (k : Bank) : EntryView :=
  ⟨[0, 1], fun i => 8 ≤ i ∧ i < 14, k.read, fun i => s.writePlans (base + i)⟩

theorem bankEntries_table {base : Nat} (hb : base = 0 ∨ base = 256) (k : Bank) :
    EntryTable (· < 256) (bankView s base k) (bankEntries k) := by
  have hw : ∀ i < 2, ∀ value, s.writePlans (base + i) value = .readOnly := fun i hi value => by
    have hm : mapIndex (base + i) = none := by
      rw [mapIndex, dif_neg (by omega), dif_neg (by omega)]
    rw [State.writePlans, hm]
    exact if_neg (by omega)
  have hro : ∀ p : Port, [0, 1].contains (8 + p.val) = false := by decide
  have hp : ∀ p : Port, 8 ≤ 8 + p.val ∧ 8 + p.val < 14 := fun p => by omega
  have hr : ∀ p : Port, k.read (8 + p.val) = some (mapRead k.maps[p]) := fun p => by
    rw [Bank.read, if_neg (by omega), if_neg (by omega), dif_pos (hp p), mapBytes_eq_mapRead]
    simp
  refine ((EntryTable.ofIndices [0, 1] (D := (· < 2)) rfl (by decide) ?_ fun i hi hl => ?_).append
    (.map fun p => listed_own (hro p) (hp p) (hr p))).mono (fun i hi => ?_) fun i hi hd => ?_
  · simp only [List.forall_mem_cons]
    exact ⟨listed_readOnly rfl rfl (hw 0 (by decide)), listed_readOnly rfl rfl (hw 1 (by decide)),
      List.forall_mem_nil _⟩
  · simp at hl
    omega
  · rcases hi with hi | ⟨p, rfl⟩ <;> omega
  · simp only [not_or, not_exists] at hd
    have h14 : ¬(8 ≤ i ∧ i < 14) := fun h => hd.2 ⟨i - 8, by omega⟩ (by dsimp only; omega)
    show k.read i = _
    rw [Bank.read, if_neg (by omega), if_neg (by omega), dif_neg h14]

theorem planStore_pendingBytes (p : PlanStore) : p.pendingBytes =
    match p.pendingBank, p.relabel with
    | some .a, _ => [1#8, 0#8]
    | some .b, _ => [1#8, 1#8]
    | none, some i => [2#8, byte i]
    | none, none => [0#8] := by
  unfold PlanStore.pendingBytes
  rcases p.pendingBank with _ | _ | _ <;> cases p.relabel <;> rfl

theorem State.writePlans_epoch (value : List Byte) : s.writePlans 512 value =
    storeNat 1 3600 value fun n => { s with cycleTimer := { s.cycleTimer with epoch := n } } :=
  rfl

theorem planEntries_table : EntryTable (fun _ => True) (sectionView s x 5) (planEntries s) := by
  have ha : EntryTable (· < 256) (sectionView s x 5) (bankEntries s.plans.a) := by
    refine (bankEntries_table s (.inl rfl) s.plans.a).congr (fun i hi => ?_) (fun i _ h => ⟨rfl, .inl h⟩)
      (fun i hi => if_pos hi) fun i _ value => ?_
    · show i ∈ [0, 1, 256, 257, 513, 514] ↔ i ∈ [0, 1]
      simp only [List.mem_cons, List.not_mem_nil, or_false]
      omega
    · show s.writePlans i value = s.writePlans (0 + i) value
      rw [Nat.zero_add]
  have hb : EntryTable (fun i => 256 ≤ i ∧ i < 256 + 256) (sectionView s x 5)
      (atBase 256 (bankEntries s.plans.b)) := by
    refine (bankEntries_table s (.inr rfl) s.plans.b).atBase (fun off h => ?_) (fun off _ h => ⟨rfl, .inr ?_⟩)
      (fun off h => ?_) fun _ _ _ => rfl
    · show 256 + off ∈ [0, 1, 256, 257, 513, 514] ↔ off ∈ [0, 1]
      simp only [List.mem_cons, List.not_mem_nil, or_false]
      omega
    · have : 8 ≤ off ∧ off < 14 := h
      omega
    · show s.readPlans (256 + off) = s.plans.b.read off
      rw [State.readPlans, if_neg (by omega), if_pos (by omega), Nat.add_sub_cancel_left]
  refine ((ha.append hb).append
    (.ofIndices [512, 513, 514] (D := fun i => 512 ≤ i ∧ i < 515) rfl (by decide) ?_ fun i hi hl => ?_)).whole
      fun i hi => ?_
  · simp only [List.forall_mem_cons]
    exact ⟨listed_nat rfl rfl s.writePlans_epoch rfl, listed_readOnly rfl rfl fun _ => rfl,
      listed_readOnly rfl (congrArg some (planStore_pendingBytes s.plans)) fun _ => rfl, List.forall_mem_nil _⟩
  · simp at hl
    omega
  · show s.readPlans i = _
    rw [State.readPlans, if_neg (by omega), if_neg (by omega), if_neg (by omega), if_neg (by omega),
      if_neg (by omega)]

/-! ### CONTROL (R181, R194) -/

/-- A link's notice and fault entries, by offset. -/
def noticeView (l : Link) : EntryView :=
  ⟨[8, 9, 10], fun _ => False, s.notice.links[l].read, s.writeNotice l⟩

/-- What a link's notice and fault entries read as, the last part of `linkEntries`. -/
def noticeEntries (n : NoticeLink) : List (Nat × List Byte) :=
  [(0, [byte n.mask.toNat]), (1, encBool !n.nest), (2, [byte n.mode.code]), (3, [byte n.delay]),
    (4, [byte n.admitMask.toNat]), (8, [byte n.latch.toNat]),
    (9, byte n.stack.length :: n.stack.map fun c => byte ((classBit c).val + 1)),
    (10, byte n.faults.length :: encBool n.overflow)]

theorem noticeEntries_table (l : Link) :
    EntryTable (· < 16) (noticeView s l) (noticeEntries s.notice.links[l]) := by
  refine .ofIndices [0, 1, 2, 3, 4, 8, 9, 10] rfl (by decide) ?_ fun i _ hi => ?_
  · simp only [noticeEntries, List.forall_mem_cons]
    exact ⟨listed_set rfl rfl (State.writeNotice.eq_1 s l) rfl,
      listed_enum rfl rfl (State.writeNotice.eq_2 s l) rfl,
      listed_enum rfl rfl (State.writeNotice.eq_3 s l) rfl,
      listed_byte rfl rfl (State.writeNotice.eq_4 s l) rfl,
      listed_set rfl rfl (State.writeNotice.eq_5 s l) rfl, listed_readOnly rfl rfl fun _ => rfl,
      listed_readOnly rfl (congrArg some (encList_byte _ s.notice.links[l].stack)) fun _ => rfl,
      listed_readOnly rfl rfl fun _ => rfl, List.forall_mem_nil _⟩
  · show NoticeLink.read _ _ = _
    unfold NoticeLink.read
    split <;> simp at hi ⊢

theorem mem_readOnlyOf_notice : ∀ l : Link, ∀ off < 16,
    32 + 16 * l.val + off ∈ readOnlyOf 1 ↔ off ∈ [8, 9, 10] := by
  decide

theorem linkEntries_table (l : Link) :
    EntryTable (fun i => (i = 4 * l.val + 8 ∨ i = 4 * l.val + 9) ∨
      (32 + 16 * l.val ≤ i ∧ i < 32 + 16 * l.val + 16)) (sectionView s x 1) (linkEntries s l) := by
  refine .append (.append (l := [_]) (.single ?_) (.single ?_)) ((noticeEntries_table s l).atBase
    (mem_readOnlyOf_notice l) (fun _ _ => False.elim) (fun off h => s.readEntry_notice l h x)
    fun off h => s.storeEntry_notice l h)
  · fin_cases l <;> exact listed_readOnly rfl rfl fun _ => rfl
  · fin_cases l <;> exact listed_readOnly rfl rfl fun _ => rfl

theorem controlEntries_table : EntryTable (fun _ => True) (sectionView s x 1) (entriesOf s x 1) := by
  refine (EntryTable.append (l := [_]) (.single ?_) (.flatMap (linkEntries_table s x))).whole fun i hi => ?_
  · exact listed_readOnly rfl rfl fun _ => rfl
  · simp only [not_or, not_exists] at hi
    obtain ⟨h0, hl⟩ := hi
    have hn : noticeIndex i = none := dif_neg fun h => (hl ⟨(i - 32) / 16, by omega⟩).2 (by dsimp only; omega)
    have h8 := hl 0
    have h12 := hl 1
    have h16 := hl 2
    show s.readControl i = _
    unfold State.readControl
    rw [hn]
    dsimp only
    split <;> simp at h0 h8 h12 h16 ⊢

/-! ### SOURCES, PORTS and OUTPUTS (R64, R148, R160) -/

theorem mem_readOnlyOf_source : ∀ e : Ext, ∀ off < 32,
    32 * e.val + off ∈ readOnlyOf 2 ↔ off ∈ sourceReadOnly e.val := by
  decide

theorem mem_readOnlyOf_local : ∀ off < 32, 128 + off ∈ readOnlyOf 2 ↔ off ∈ List.range 13 := by
  decide

theorem mem_readOnlyOf_selector {i : Nat} (h : 160 ≤ i) : i ∈ readOnlyOf 2 ↔ i ∈ [167, 168] := by
  have hlow : ∀ j ∈ (readOnlyOf 2).take 55, j < 160 := by decide
  have hsplit : readOnlyOf 2 = (readOnlyOf 2).take 55 ++ [167, 168] := by decide
  rw [hsplit, List.mem_append]
  exact ⟨fun hi => hi.resolve_left fun hj => absurd (hlow i hj) (by omega), .inr⟩

theorem State.readEntry_local {off : Nat} (h : off < 32) : s.readEntry 2 (128 + off) x = readLocal off := by
  have h1 : (128 + off) / 32 = 4 := by omega
  have h2 : (128 + off) % 32 = off := by omega
  simp [State.readEntry, State.readSources, h1, h2]

theorem State.storeEntry_local {off : Nat} (h : off < 32) (value : List Byte) :
    s.storeEntry 2 (128 + off) value = .readOnly := by
  have h1 : (128 + off) / 32 = 4 := by omega
  simp [State.storeEntry, State.writeSources, h1]

theorem mem_readOnlyOf_port : ∀ p : Port, ∀ off < 32,
    32 * p.val + off ∈ readOnlyOf 6 ↔ off ∈ [8, 9, 10, 11, 12, 13, 16] := by
  decide

theorem mem_readOnlyOf_pulse : ∀ k : PulseOut, ∀ off < 16,
    16 * k.val + off ∈ readOnlyOf 7 ↔ off ∈ [8, 12] := by
  decide

theorem mem_readOnlyOf_coded : ∀ m : CodedOut, ∀ off < 16,
    64 + 16 * m.val + off ∈ readOnlyOf 7 ↔ off ∈ [8, 12] := by
  decide

theorem sourcesEntries_table : EntryTable (fun _ => True) (sectionView s x 2) (entriesOf s x 2) := by
  have hs (e : Ext) : EntryTable _ (sectionView s x 2) _ := (sourceEntries_table s e).atBase (base := 32 * e.val)
    (mem_readOnlyOf_source e) (fun _ _ => False.elim) (fun off h => s.readEntry_source e h x)
    fun off h => s.storeEntry_source e h
  have hl : EntryTable _ (sectionView s x 2) _ := localEntries_table.atBase (base := 128)
    mem_readOnlyOf_local (fun _ _ => False.elim)
    (fun off h => s.readEntry_local x h) fun off h => s.storeEntry_local h
  have hq : EntryTable (160 ≤ ·) (sectionView s x 2) (selectorEntries s.selector) :=
    (selectorEntries_table s).congr (fun i h => mem_readOnlyOf_selector h) (fun _ _ => False.elim)
      (fun i h => s.readEntry_selectorWide h x) fun i h => s.storeEntry_selectorWide h
  refine ((EntryTable.flatMap hs).append (hl.append hq)).whole fun i hi => ?_
  simp only [not_or, not_exists] at hi
  have h4 : ¬i / 32 < 4 := fun h => hi.1 ⟨i / 32, h⟩ (by dsimp only; omega)
  omega

theorem portsEntries_table : EntryTable (fun _ => True) (sectionView s x 6) (entriesOf s x 6) := by
  refine (EntryTable.flatMap fun p => (portEntries_table s p).atBase (base := 32 * p.val) (mem_readOnlyOf_port p)
    (fun _ _ => False.elim) (fun off h => s.readEntry_port p h x) fun off h => s.storeEntry_port p h).whole
      fun i hi => ?_
  have h : ¬i / 32 < 6 := fun h => hi ⟨⟨i / 32, h⟩, by dsimp only; omega⟩
  exact dif_neg h

theorem outputsEntries_table : EntryTable (fun _ => True) (sectionView s x 7) (entriesOf s x 7) := by
  have hk (k : PulseOut) : EntryTable _ (sectionView s x 7) _ :=
    (pulseEntries_table s k).atBase (base := 16 * k.val) (mem_readOnlyOf_pulse k) (fun _ _ => False.elim)
      (fun off h => s.readEntry_pulse k h x) fun off h => s.storeEntry_pulse k h
  have hm (m : CodedOut) : EntryTable _ (sectionView s x 7) _ :=
    (codedEntries_table s m).atBase (base := 64 + 16 * m.val) (mem_readOnlyOf_coded m) (fun _ _ => False.elim)
      (fun off h => s.readEntry_coded m h x) fun off h => s.storeEntry_coded m h
  refine ((EntryTable.flatMap hk).append (.flatMap hm)).whole fun i hi => ?_
  simp only [not_or, not_exists] at hi
  have h4 : ¬i / 16 < 4 := fun h => hi.1 ⟨i / 16, h⟩ (by dsimp only; omega)
  have h6 : ¬i / 16 - 4 < 2 := fun h => hi.2 ⟨i / 16 - 4, h⟩ (by dsimp only; omega)
  exact (dif_neg h4).trans (dif_neg h6)

/-! ### The nine sections -/

/-- The statement's lists are what the model reads, and its lists of read-only entries what a write refuses. -/
theorem entriesOf_table {sect : Nat} (h : sect ≤ 8) :
    EntryTable (fun _ => True) (sectionView s x sect) (entriesOf s x sect) :=
  match sect with
  | 0 => identityEntries_table s x
  | 1 => controlEntries_table s x
  | 2 => sourcesEntries_table s x
  | 3 => steeringEntries_table s x
  | 4 => timeEntries_table s x
  | 5 => planEntries_table s x
  | 6 => portsEntries_table s x
  | 7 => outputsEntries_table s x
  | 8 => accessEntries_table s x
  | n + 9 => absurd h (by omega)

end Sys2Proof.Machine

/-! SUPPORT. READ ENTRY and WRITE ENTRY check by check (R177, R178). -/

namespace Sys2Proof.Machine

open Sys2Proof.Config Sys2Proof.Safety

section Checks

variable {s : State} {r : Running} {sect index : Nat}

/-! ### Which indices are listed, and what they read as -/

theorem State.readEntry_of_mem {x : Elapsed} {v : List Byte} (h8 : ¬8 < sect)
    (h : (index, v) ∈ entriesOf s x sect) :
    s.readEntry sect index x = some v :=
  ((entriesOf_table s x (Nat.not_lt.mp h8)).entries _ h).2.read

theorem State.readEntry_eq_none_iff {x : Elapsed} (h8 : ¬8 < sect) :
    s.readEntry sect index x = none ↔ index ∉ (entriesOf s x sect).map (fun v => v.1) := by
  refine ⟨fun hn hi => ?_, fun hi => ?_⟩
  · obtain ⟨⟨i, v⟩, hv, rfl⟩ := List.mem_map.mp hi
    exact Option.some_ne_none v ((State.readEntry_of_mem h8 hv).symm.trans hn)
  · by_contra hn
    exact hi ((entriesOf_table s x (Nat.not_lt.mp h8)).listed index trivial hn)

/-- The test of the right to an entry fails when the section is not open and the entry is not the link's own. -/
theorem denied_iff {right : Bool} :
    (!(right || ownSettings r.link sect index)) = true ↔ right = false ∧ ¬OwnSetting r sect index := by
  rw [← ownSettings_iff]
  cases right <;> cases ownSettings r.link sect index <;> simp

/-! ### The commands -/

theorem exec_readEntry {x : Elapsed} (h : Runs s r (.readEntry sect index)) :
    exec (.readEntry x) s = .next (s.runReadEntry r sect index x) :=
  congrArg Host.Outcome.next (State.onCommand_of_runs h rfl)

theorem exec_writeCommand (s : State) (sect index : Nat) (value : List Byte) :
    exec (writeCommand sect index value) s = .next (s.writeAs (writeRow sect index value)) := by
  unfold writeCommand
  cases writeRow sect index value <;> rfl

theorem exec_writeCommand_of_runs {value : List Byte} (h : Runs s r (.writeEntry sect index value)) :
    exec (writeCommand sect index value) s = .next (s.runWriteEntry r sect index value) := by
  rw [exec_writeCommand, State.writeAs_of_runs h rfl]

/-- READ ENTRY's checks in order (R177). -/
theorem State.runReadEntry_eq {x : Elapsed} : s.runReadEntry r sect index x =
    if 8 < sect then s.respond r .badIndex []
    else if s.access.canRead r.link sect = false ∧ ¬OwnSetting r sect index then s.respond r .denied []
    else match s.readEntry sect index x with
      | none => s.respond r .badIndex []
      | some v => s.respond r .ok v := by
  simp only [State.runReadEntry, denied_iff]
  rfl

/-- WRITE ENTRY's checks in order (R178). -/
theorem State.runWriteEntry_eq {value : List Byte} : s.runWriteEntry r sect index value =
    if 8 < sect then s.respond r .badIndex []
    else if s.access.canWrite r.link sect = false ∧ ¬OwnSetting r sect index then s.respond r .denied []
    else if s.readEntry sect index 0 = none then s.respond r .badIndex []
    else if sect = 8 ∧ s.access.lock = true then s.respond r .locked []
    else if s.access.guarded sect index = true then s.respond r .guarded []
    else match s.storeEntry sect index value with
      | .readOnly => s.respond r .refused []
      | .refuse st => s.respond r st []
      | .store t clamped => t.respond r (if clamped then .okClamped else .ok) (t.valueAt sect index) := by
  simp only [State.runWriteEntry, denied_iff, Option.isNone_iff_eq_none]
  rfl

end Checks

/-- Settles O55, by the tables of the nine sections and the checks in their order. -/
theorem entryChecksInOrder : Obligations.EntryChecksInOrder := by
  unfold Obligations.EntryChecksInOrder
  refine ⟨fun s r sect index x hr => ?_, fun s r sect index value hr => ?_⟩
  · rw [exec_readEntry hr, State.runReadEntry_eq]
    split_ifs with h8 hd
    · rfl
    · rfl
    · refine ⟨fun hi => ?_, fun v hv => ?_⟩
      · rw [(State.readEntry_eq_none_iff h8).mpr hi]
      · rw [State.readEntry_of_mem h8 hv]
  · rw [exec_writeCommand_of_runs hr, State.runWriteEntry_eq]
    dsimp only
    by_cases h8 : 8 < sect
    · simp only [if_pos h8]
    have table := entriesOf_table s 0 (Nat.not_lt.mp h8)
    simp only [if_neg h8, State.readEntry_eq_none_iff h8]
    split_ifs with hd hi hk hg hro
    · rfl
    · rfl
    · rfl
    · obtain ⟨p, hp, rfl⟩ := List.mem_map.mp hi
      have hw : s.storeEntry sect p.1 value = .readOnly := (table.entries p hp).2.readOnly hro value
      rw [hw]
    · intro hm v hv hl
      have hw : s.storeEntry sect index value = .refuse .badValue :=
        (table.entries _ hv).2.sized hro hm value hl
      rw [hw]
    · rfl

end Sys2Proof.Machine

/-! SUPPORT. What R88 reads of the part (the steering state, the selection, the selections on their way), what keeps
the promise made of it, and the updates that leave all of it alone. -/

namespace Sys2Proof.Machine

open Sys2Proof.Config Sys2Proof.Safety

/-! ### What the promise reads -/

/-- What R88, R100 and R102 read of the steering unit: its state, the source steered by, the holdover origin and
the holdover age. -/
def Steering.bearing (t : Steering) : SteeringState × Option Ext × Option HoldoverOrigin × Nat :=
  (t.state, t.steered, t.origin, t.age)

/-- What the promise of R88 reads of the part: the running command, the steering unit's bearing, the selected
source, and the selections on their way. -/
structure Course where
  running : Option Running
  bearing : SteeringState × Option Ext × Option HoldoverOrigin × Nat
  selected : Source
  selections : List Source

def State.course (s : State) : Course where
  running := s.executor.running
  bearing := s.steering.bearing
  selected := s.selector.selected
  selections := s.flight.selections

/-- The course once the running command has been answered (R173). -/
def Course.answered (c : Course) : Course :=
  { c with running := none }

theorem steeringNamed_congr {s t : State} (h : t.steering.bearing = s.steering.bearing) :
    SteeringNamed t ↔ SteeringNamed s := by
  simp only [Steering.bearing, Prod.mk.injEq] at h
  obtain ⟨hst, hsteer, horig, hage⟩ := h
  unfold SteeringNamed
  rw [hst, hsteer, horig, hage]

theorem targetSource_congr {s t : State} (hb : t.steering.steered = s.steering.steered)
    (hf : t.flight.selections = s.flight.selections) : targetSource t = targetSource s := by
  unfold targetSource steeredSource
  rw [hb, hf]

theorem steered_of_bearing {s t : State} (h : t.steering.bearing = s.steering.bearing) :
    t.steering.steered = s.steering.steered :=
  congrArg (fun b => b.2.1) h

/-- The executor keeps what it says of a SERVICE RESET in progress. -/
structure KeepsReset (s t : State) : Prop where
  taken : resetTaken t = resetTaken s
  listed : ResetListed s → ResetListed t

/-- From `s` to `t` the steering unit stays with the selection: it goes on naming what it steers by, and both what
is selected and what the unit will steer by are kept, or come to agree (R88). -/
structure OnCourse (s t : State) : Prop extends KeepsReset s t where
  named : SteeringNamed s → SteeringNamed t
  followed : (t.selector.selected = s.selector.selected ∧ targetSource t = targetSource s) ∨
    targetSource t = t.selector.selected

theorem KeepsReset.of_running {s t : State} (h : t.executor.running = s.executor.running) : KeepsReset s t := by
  constructor
  · unfold resetTaken
    rw [h]
  · unfold ResetListed
    rw [h]
    exact id

/-- The executor IDLE names no SERVICE RESET. -/
theorem KeepsReset.of_idle {s t : State} (hs : resetTaken s = []) (h : t.executor.running = none) :
    KeepsReset s t := by
  constructor
  · rw [hs, resetTaken, h]
    rfl
  · unfold ResetListed
    rw [h]
    exact fun _ _ hr => nomatch hr

theorem KeepsReset.trans {s t v : State} (h : KeepsReset s t) (h' : KeepsReset t v) : KeepsReset s v :=
  ⟨h'.taken.trans h.taken, h'.listed ∘ h.listed⟩

/-- The promise reads no more than the course. -/
theorem OnCourse.of_eq {s t : State} (h : t.course = s.course) : OnCourse s t := by
  have hb : t.steering.bearing = s.steering.bearing := congrArg Course.bearing h
  have hf : t.flight.selections = s.flight.selections := congrArg Course.selections h
  exact ⟨.of_running (congrArg Course.running h), (steeringNamed_congr hb).mpr,
    .inl ⟨congrArg Course.selected h, targetSource_congr (steered_of_bearing hb) hf⟩⟩

theorem OnCourse.refl (s : State) : OnCourse s s := .of_eq rfl

theorem OnCourse.trans {s t v : State} (h : OnCourse s t) (h' : OnCourse t v) : OnCourse s v := by
  refine ⟨h.toKeepsReset.trans h'.toKeepsReset, h'.named ∘ h.named, ?_⟩
  rcases h'.followed with ⟨hs, ht⟩ | ht
  · rw [hs, ht]
    exact h.followed
  · exact .inr ht

/-- What leaves the course alone comes before what stays on it. -/
theorem OnCourse.after {s t v : State} (h : OnCourse t v) (ht : t.course = s.course) : OnCourse s v :=
  (OnCourse.of_eq ht).trans h

/-- A command answered, when the executor was not in the midst of a SERVICE RESET. -/
theorem OnCourse.answer {s t v : State} (h : OnCourse s v) (ht : t.course = v.course.answered)
    (hs : resetTaken s = []) : OnCourse s t := by
  have hb : t.steering.bearing = v.steering.bearing := congrArg Course.bearing ht
  have hq : t.selector.selected = v.selector.selected := congrArg Course.selected ht
  have hf : t.flight.selections = v.flight.selections := congrArg Course.selections ht
  refine ⟨.of_idle hs (congrArg Course.running ht), (steeringNamed_congr hb).mpr ∘ h.named, ?_⟩
  rw [hq, targetSource_congr (steered_of_bearing hb) hf]
  exact h.followed

/-- What stays on course keeps the promise of R88. -/
theorem OnCourse.sound {s t : State} (h : OnCourse s t) (hs : SteeringSound s) : SteeringSound t := by
  obtain ⟨hn, hf, hl⟩ := hs
  refine ⟨h.named hn, ?_, h.listed hl⟩
  unfold SelectionFollowed at hf ⊢
  rw [h.taken]
  split_ifs at hf ⊢
  rcases h.followed with ⟨hq, ht⟩ | ht
  · rwa [hq, ht]
  · exact .inl ht

/-! ### The updates of one block -/

section Updates

variable {s : State}

/-- A change of the steering unit that keeps its bearing. -/
@[simp] theorem State.modSteering_course {f : Steering → Steering}
    (h : (f s.steering).bearing = s.steering.bearing) : (s.modSteering f).course = s.course := by
  unfold State.course
  rw [State.modSteering_steering, h]
  rfl

/-- A change of the selector that keeps the selected source. -/
@[simp] theorem State.modSelector_course {f : Selector → Selector}
    (h : (f s.selector).selected = s.selector.selected) : (s.modSelector f).course = s.course := by
  unfold State.course
  rw [State.modSelector_selector, h]
  rfl

/-- A change of the events in flight that keeps the selections on their way. -/
@[simp] theorem State.modFlight_course {f : Flight → Flight}
    (h : (f s.flight).selections = s.flight.selections) : (s.modFlight f).course = s.course := by
  unfold State.course
  rw [State.modFlight_flight, h]
  rfl

variable (s)

@[simp] theorem State.modInput_course (u : InUnit) (f : InputUnit → InputUnit) :
    (s.modInput u f).course = s.course := rfl

@[simp] theorem State.modUplink_course (u : UpUnit) (f : UplinkUnit → UplinkUnit) :
    (s.modUplink u f).course = s.course := rfl

@[simp] theorem State.modEntry_course (e : Ext) (f : SourceEntry → SourceEntry) :
    (s.modEntry e f).course = s.course := rfl

@[simp] theorem State.modPort_course (p : Port) (f : PortUnit → PortUnit) :
    (s.modPort p f).course = s.course := rfl

@[simp] theorem State.modPulse_course (k : PulseOut) (f : PulseUnit → PulseUnit) :
    (s.modPulse k f).course = s.course := rfl

@[simp] theorem State.modCoded_course (m : CodedOut) (f : CodedUnit → CodedUnit) :
    (s.modCoded m f).course = s.course := rfl

@[simp] theorem State.modLink_course (l : Link) (f : LinkUnit → LinkUnit) :
    (s.modLink l f).course = s.course := rfl

@[simp] theorem State.modNotice_course (l : Link) (f : NoticeLink → NoticeLink) :
    (s.modNotice l f).course = s.course := rfl

@[simp] theorem State.logFault_course (b : FaultOrigin) (c e d : Nat) :
    (s.logFault b c e d).course = s.course := rfl

@[simp] theorem State.latch_course (c : NoticeClass) : (s.latch c).course = s.course := rfl

@[simp] theorem State.toSelector_course (e : Ext) (v : UnitEvent) :
    (s.toSelector e v).course = s.course := rfl

@[simp] theorem State.handRate_course (w : Int) : (s.handRate w).course = s.course := rfl

@[simp] theorem State.portReport_course (p : Port) (r : PortReport) :
    (s.portReport p r).course = s.course := rfl

@[simp] theorem State.respond_course (r : Running) (st : Status) (b : List Byte) :
    (s.respond r st b).course = s.course.answered := rfl

end Updates

end Sys2Proof.Machine

/-! SUPPORT. What leaves the course alone (R88): every operation that moves neither the selection nor the steering
state, chapter by chapter; a command that the executor runs to its end answers it and leaves the rest. -/

namespace Sys2Proof.Machine

open Sys2Proof.Config Sys2Proof.Safety

section CourseFrame

variable (s : State)

/-! ### Answers of the executor -/

/-- A checked write answers the running command when its continuation does. -/
theorem State.checkedWrite_course {s : State} {r : Running} {sect index : Nat} {k : State}
    (hk : k.course = s.course.answered) : (s.checkedWrite r sect index k).course = s.course.answered := by
  rcases s.checkedWrite_cases r sect index k with ⟨-, h⟩ | ⟨-, -, h⟩ | ⟨-, h⟩ <;> simp [h, hk]

/-! ### Input units (chapter 2) -/

@[simp] theorem State.followScale_course (e : Ext) : (s.followScale e).course = s.course := by
  unfold State.followScale; split <;> rfl

@[simp] theorem State.formPair_course (u : InUnit) (tod : TimeOfDay) (c : Stamp) :
    (s.formPair u tod c).course = s.course := by
  unfold State.formPair; dsimp only; split <;> simp

@[simp] theorem unpaired_course (u : InUnit) : (unpaired s u).course = s.course := by
  unfold unpaired; dsimp only; split <;> rfl

@[simp] theorem State.emitUnpaired_course (u : InUnit) : (s.emitUnpaired u).course = s.course := by
  simp [State.emitUnpaired_eq]

@[simp] theorem State.settleHeld_course (u : InUnit) (now : Stamp) :
    (s.settleHeld u now).course = s.course := by
  unfold State.settleHeld; split <;> simp

@[simp] theorem State.orphan_course (u : InUnit) : (s.orphan u).course = s.course := rfl

@[simp] theorem State.pairPulse_course (u : InUnit) (c : Stamp) : (s.pairPulse u c).course = s.course := by
  unfold State.pairPulse
  split
  · simp
  · split <;> simp

@[simp] theorem State.pairSentence_course (u : InUnit) (tod : TimeOfDay) (now : Stamp) :
    (s.pairSentence u tod now).course = s.course := by
  unfold State.pairSentence
  dsimp only
  split
  · split <;> simp
  · simp

@[simp] theorem State.acceptPulse_course (u : InUnit) (c : Stamp) (n : Count) :
    (s.acceptPulse u c n).course = s.course := by
  simp [State.acceptPulse]

@[simp] theorem State.pulse_course (u : InUnit) (c : Stamp) : (s.pulse u c).course = s.course := by
  unfold State.pulse
  dsimp only
  split
  · simp
  · simp
  · split <;> simp

@[simp] theorem State.miss_course (u : InUnit) : (s.miss u).course = s.course := rfl

/-- A fold of operations that each keep the course keeps it. -/
theorem foldl_course {α : Type} {f : State → α → State} (hf : ∀ v a, (f v a).course = v.course)
    (l : List α) (s : State) : (l.foldl f s).course = s.course := by
  induction l generalizing s with
  | nil => rfl
  | cons a l ih => rw [List.foldl_cons, ih, hf]

@[simp] theorem State.modInputOf_course (e : Ext) (f : InputUnit → InputUnit) :
    (s.modInputOf e f).course = s.course := by
  unfold State.modInputOf; split <;> rfl

@[simp] theorem State.modUplinkOf_course (e : Ext) (f : UplinkUnit → UplinkUnit) :
    (s.modUplinkOf e f).course = s.course := by
  unfold State.modUplinkOf; split <;> rfl

@[simp] theorem State.leaveTrial_course (e : Ext) : (s.leaveTrial e).course = s.course :=
  s.modInputOf_course e _

@[simp] theorem State.maskOptions_course : s.maskOptions.course = s.course := rfl

/-! ### Uplink units (chapter 3) -/

@[simp] theorem State.release_course (u : UpUnit) (t1 t2 : Stamp) :
    (s.release u t1 t2).course = s.course := rfl

@[simp] theorem State.confirm_course (u : UpUnit) (m : MarkFields) (t1 t2 : Stamp) :
    (s.confirm u m t1 t2).course = s.course := by
  unfold State.confirm
  split
  · simp
  · simp
  · split
    · rfl
    · dsimp only; split <;> simp
  · rfl

@[simp] theorem State.takeMark_course (u : UpUnit) (m : MarkFields) (a : Stamp) :
    (s.takeMark u m a).course = s.course := by
  simp [State.takeMark]

@[simp] theorem State.uplinkCycle_course (u : UpUnit) (n : Nat) (d : Stamp) :
    (s.uplinkCycle u n d).course = s.course := by
  unfold State.uplinkCycle
  dsimp only
  split
  · split <;> rfl
  · rfl

@[simp] theorem State.takeUplinkCycle_course (u : UpUnit) : (s.takeUplinkCycle u).course = s.course := by
  unfold State.takeUplinkCycle; split <;> simp

/-! ### Steering unit (chapter 5) -/

@[simp] theorem State.excursionTest_course (e : Ext) (c : Int) :
    (s.excursionTest e c).course = s.course := by
  unfold State.excursionTest; dsimp only; split_ifs <;> rfl

@[simp] theorem State.takeStepAnnouncement_course (o : StepOrigin) :
    (s.takeStepAnnouncement o).course = s.course := by
  unfold State.takeStepAnnouncement; dsimp only; split <;> rfl

/-! ### Cycle timer and plan store (chapter 6) -/

@[simp] theorem State.countRequests_course (u : InUnit) : (s.countRequests u).course = s.course := by
  unfold State.countRequests; split <;> rfl

@[simp] theorem State.handCycle_course (n : Nat) (b : Bool) (i : Stamp) :
    (s.handCycle n b i).course = s.course := rfl

@[simp] theorem State.startCycle_course (n : Nat) (i : Stamp) : (s.startCycle n i).course = s.course := by
  rw [State.startCycle_eq, State.begun_frame]
  simp only [State.handCycle_course, State.countRequests_course]
  rfl

@[simp] theorem State.startSlot_course (k : Nat) (i : Stamp) : (s.startSlot k i).course = s.course := by
  unfold State.startSlot; split <;> rfl

@[simp] theorem State.cutCycle_course : s.cutCycle.course = s.course := rfl

@[simp] theorem State.runArmPlan_course (r : Running) (b n : Nat) :
    (s.runArmPlan r b n).course = s.course.answered := by
  unfold State.runArmPlan
  split
  · rfl
  · split
    · rfl
    · split_ifs
      · rfl
      · rfl
      · split <;> rfl

@[simp] theorem State.runDisarmPlan_course (r : Running) : (s.runDisarmPlan r).course = s.course.answered := by
  refine State.checkedWrite_course ?_
  split <;> rfl

/-! ### Distribution ports (chapter 7) -/

@[simp] theorem State.portCycle_course (p : Port) (n : Nat) (nm : Option (BankName × Nat)) :
    (s.portCycle p n nm).course = s.course := by
  unfold State.portCycle
  split
  · split
    · dsimp only; split <;> simp
    · rfl
  · rfl

@[simp] theorem State.takePortCycle_course (p : Port) : (s.takePortCycle p).course = s.course := by
  unfold State.takePortCycle; split <;> simp

@[simp] theorem State.sendMark_course (p : Port) (k : Nat) (b : Bool) (x : Elapsed) :
    (s.sendMark p k b x).course = s.course := by
  unfold State.sendMark; dsimp only; split <;> rfl

@[simp] theorem State.departMark_course (p : Port) (k : Nat) (b : Bool) (x : Elapsed) :
    (s.departMark p k b x).course = s.course := by
  unfold State.departMark; dsimp only; split <;> simp

@[simp] theorem State.departReply_course (p : Port) (d : Departure) (l : Option (List Answer)) (n : Nat) :
    (s.departReply p d l n).course = s.course := by
  unfold State.departReply; dsimp only; split <;> rfl

@[simp] theorem State.takeQuery_course (p : Port) (r : Nat) (q : Seq) (a : Stamp) :
    (s.takeQuery p r q a).course = s.course := by
  unfold State.takeQuery; dsimp only; split_ifs <;> rfl

@[simp] theorem State.portDown_course (p : Port) : (s.portDown p).course = s.course := by
  unfold State.portDown; dsimp only; split_ifs <;> rfl

@[simp] theorem State.runClearPortFlags_course (r : Running) (l : List Nat) :
    (s.runClearPortFlags r l).course = s.course.answered := by
  unfold State.runClearPortFlags
  dsimp only
  split_ifs
  · rfl
  · rfl
  · rfl
  · rfl
  · rw [State.respond_course, foldl_course fun v p => v.modPort_course p _]

/-! ### Management links and the executor's own commands (chapter 10) -/

@[simp] theorem State.badFrame_course (l : Link) (tag : Byte) (st : Status) :
    (s.badFrame l tag st).course = s.course := by
  unfold State.badFrame; dsimp only; split <;> rfl

@[simp] theorem State.runReadEntry_course (r : Running) (i j : Nat) (x : Elapsed) :
    (s.runReadEntry r i j x).course = s.course.answered := by
  unfold State.runReadEntry
  split_ifs
  · rfl
  · rfl
  · split <;> rfl

@[simp] theorem State.runReadTime_course (r : Running) (x : Elapsed) :
    (s.runReadTime r x).course = s.course.answered := by
  unfold State.runReadTime; split <;> rfl

@[simp] theorem State.runLockAccess_course (r : Running) : (s.runLockAccess r).course = s.course.answered := by
  unfold State.runLockAccess; split_ifs <;> rfl

@[simp] theorem State.runLinkReset_course (r : Running) : (s.runLinkReset r).course = s.course.answered := rfl

/-! ### Notices (chapter 11) -/

@[simp] theorem State.mapNotice_course (f : NoticeLink → NoticeLink) :
    (s.mapNotice f).course = s.course := rfl

@[simp] theorem State.judgeCycle_course : s.judgeCycle.course = s.course := by
  unfold State.judgeCycle; split <;> rfl

@[simp] theorem State.noticeCycle_course (n : Nat) : (s.noticeCycle n).course = s.course :=
  (State.judgeCycle_course _).trans rfl

@[simp] theorem State.noticeSlot_course (k : Nat) (b : Bool) : (s.noticeSlot k b).course = s.course := by
  simp [State.noticeSlot]

@[simp] theorem State.runTakeNotice_course (r : Running) : (s.runTakeNotice r).course = s.course.answered := by
  unfold State.runTakeNotice; dsimp only; split <;> rfl

@[simp] theorem State.runEndService_course (r : Running) : (s.runEndService r).course = s.course.answered := by
  unfold State.runEndService; split <;> rfl

@[simp] theorem State.runPeekFault_course (r : Running) : (s.runPeekFault r).course = s.course.answered := rfl

@[simp] theorem State.runPopFault_course (r : Running) : (s.runPopFault r).course = s.course.answered := rfl

@[simp] theorem State.runClearFaultOverflow_course (r : Running) :
    (s.runClearFaultOverflow r).course = s.course.answered := rfl

/-! ### Ticks and steps (chapter 1) -/

@[simp] theorem State.tick_course : s.tick.course = s.course := by
  simp [State.course]

@[simp] theorem State.runStepTime_course (r : Running) (sec ns : Int) (x : Elapsed) :
    (s.runStepTime r sec ns x).course = s.course.answered := by
  obtain ⟨v, st, p, h, rfl | rfl⟩ := s.runStepTime_cases r sec ns x <;> rw [h] <;> rfl

end CourseFrame

end Sys2Proof.Machine

/-! SUPPORT. What moves the selection or the steering state and stays on course (R65 to R85, R90 to R102): a
selection is put on its way to the steering unit, and the unit takes the selections in their order. -/

namespace Sys2Proof.Machine

open Sys2Proof.Config Sys2Proof.Safety

section Moves

variable (s : State)

/-! ### Selections (R74, R76) -/

/-- The last selection on its way is what the steering unit will steer by. -/
theorem targetSource_of_selected {t : State} {l : List Source} {i : Source}
    (h : t.flight.selections = l ++ [i]) : targetSource t = i := by
  simp [targetSource, h]

/-- A source selected is the last on its way to the steering unit. -/
theorem State.selectSource_onCourse (i : Source) : OnCourse s (s.selectSource i) := by
  rw [State.selectSource_eq]
  split_ifs
  · exact .refl s
  · exact ⟨.of_running rfl, id, .inr (targetSource_of_selected rfl)⟩

theorem State.push_course (e : Ext) (c : Cause) : (s.push e c).course = s.course := by
  simp [State.push]

theorem State.failureSwitch_onCourse : OnCourse s s.failureSwitch :=
  (State.selectSource_onCourse _ _).after s.maskOptions_course

/-! ### Faults, revert and upgrade (R72, R78, R80) -/

theorem State.faultEntry_onCourse (e : Ext) (c : Cause) : OnCourse s (s.faultEntry e c) := by
  unfold State.faultEntry
  dsimp only
  split
  · exact (State.failureSwitch_onCourse _).after (by simp [State.push_course])
  · exact .of_eq (by simp)

theorem State.revert_onCourse : OnCourse s s.revert :=
  State.revertTest_induct (P := OnCourse s) s _ (.refl s)
    (fun _ _ _ h _ _ => h.trans (.of_eq rfl)) fun v _ _ h _ _ _ => h.trans (v.selectSource_onCourse _)

theorem State.upgradeTest_onCourse : OnCourse s s.upgradeTest := by
  rcases s.upgradeTest_cases with h | ⟨b, -, -, h⟩ <;> rw [h]
  · exact .refl s
  · exact s.selectSource_onCourse _

/-- The upgrade test that may follow a change of class stays on course when the change does. -/
theorem OnCourse.withClassChange {s : State} {e : Ext} {f : State → State} (hf : OnCourse s (f s)) :
    OnCourse s (s.withClassChange e f) := by
  rcases s.withClassChange_cases e f with h | h <;> rw [h]
  · exact hf
  · exact hf.trans (State.upgradeTest_onCourse _)

/-! ### Entry into TRIAL and USABLE (R66, R69, R72, R79) -/

@[simp] theorem State.enterTrial_course (e : Ext) (b : Bool) : (s.enterTrial e b).course = s.course := by
  simp [State.enterTrial]

theorem State.becomeUsable_onCourse (e : Ext) : OnCourse s (s.becomeUsable e) := by
  unfold State.becomeUsable
  dsimp only
  generalize hv : State.leaveTrial _ e = v
  have hu : OnCourse s v := .of_eq (by simp [← hv])
  generalize hw : (if v.selector.selected = localSource then _ else _ : State) = w
  have h : OnCourse s w := by
    rw [← hw]
    split
    · exact hu.trans (v.selectSource_onCourse _)
    · exact hu.trans v.upgradeTest_onCourse
  split
  · exact h.trans w.revert_onCourse
  · exact h

/-! ### Reports and phase events (R66 to R71) -/

theorem State.heardReport_onCourse (e : Ext) (k : ReportKind) : OnCourse s (s.heardReport e k) := by
  unfold State.heardReport
  cases k with
  | accepted => exact .of_eq rfl
  | stray => exact .of_eq rfl
  | miss =>
    dsimp only
    split_ifs
    · exact .of_eq rfl
    · exact (State.faultEntry_onCourse _ e _).after rfl
    · exact .of_eq rfl

theorem State.takeReport_onCourse (e : Ext) (k : ReportKind) : OnCourse s (s.takeReport e k) := by
  unfold State.takeReport
  split
  · exact .refl s
  · exact .of_eq rfl
  · exact (State.heardReport_onCourse _ e _).after (s.enterTrial_course e false)
  · exact s.heardReport_onCourse e _

theorem State.takeGood_onCourse (e : Ext) (c : Int) : OnCourse s (s.takeGood e c) := by
  unfold State.takeGood
  dsimp only
  split
  · split_ifs
    · exact .of_eq rfl
    · exact (State.becomeUsable_onCourse _ e).after rfl
    · exact .of_eq rfl
  · exact .of_eq rfl

theorem State.takeBad_onCourse (e : Ext) (c : BadCause) : OnCourse s (s.takeBad e c) := by
  unfold State.takeBad
  dsimp only
  split
  · exact .of_eq rfl
  · exact (State.faultEntry_onCourse _ e _).after rfl
  · exact (State.faultEntry_onCourse _ e _).after rfl
  · exact .of_eq rfl

theorem State.takePhase_onCourse (e : Ext) (ev : PhaseEvent) : OnCourse s (s.takePhase e ev) := by
  unfold State.takePhase
  split
  · exact .refl s
  · dsimp only
    generalize hv : (if s.selector.entries[e].state = .absent then s.enterTrial e false else s) = v
    have h : OnCourse s v := .of_eq (by rw [← hv]; split <;> simp)
    split
    · exact h.trans (v.takeBad_onCourse e _)
    · split
      · exact (h.trans (v.takeGood_onCourse e _)).trans (.of_eq rfl)
      · exact h.trans (v.takeGood_onCourse e _)

/-! ### Enabling and disabling (R65) -/

theorem State.enableSource_course (e : Ext) : (s.enableSource e).course = s.course := by
  unfold State.enableSource; split <;> simp

theorem State.switchOff_onCourse (e : Ext) : OnCourse s (s.switchOff e) := by
  unfold State.switchOff
  dsimp only
  generalize hv : State.modUplinkOf _ e UplinkUnit.stop = v
  have h : OnCourse s v := .of_eq (by rw [← hv, State.modUplinkOf_course, State.modInputOf_course]; rfl)
  split
  · exact h.trans v.failureSwitch_onCourse
  · exact h

theorem State.disableSource_onCourse (e : Ext) : OnCourse s (s.disableSource e) := by
  have hj : OnCourse s (s.withClassChange e fun t => t.switchOff e) := (s.switchOff_onCourse e).withClassChange
  unfold State.disableSource
  dsimp only
  split_ifs
  · exact .refl s
  · exact hj.trans (State.revert_onCourse _)
  · exact hj

/-! ### Cycle starts and commands of the selector (R81, R82, R84) -/

theorem State.countTimers_course (e : Ext) : (s.countTimers e).course = s.course := by
  unfold State.countTimers
  dsimp only
  split
  · split
    · split <;> simp
    · rfl
  · rfl
  · rfl

theorem State.selectorCycle_onCourse : OnCourse s s.selectorCycle := by
  unfold State.selectorCycle
  split
  · exact .refl s
  · refine (State.revert_onCourse _).after ?_
    rw [foldl_course State.countTimers_course]
    rfl

theorem State.manualSwitch_onCourse (i : Source) : OnCourse s (s.manualSwitch i) := by
  unfold State.manualSwitch
  split
  · exact (State.selectSource_onCourse _ i).after (s.push_course _ _)
  · exact s.selectSource_onCourse i

theorem OnCourse.checkedWrite {s k : State} {r : Running} {sect index : Nat} (hs : resetTaken s = [])
    (hk : OnCourse s k) : OnCourse s (s.checkedWrite r sect index k) := by
  rcases s.checkedWrite_cases r sect index k with ⟨-, h⟩ | ⟨-, -, h⟩ | ⟨-, h⟩ <;> rw [h]
  · exact (OnCourse.refl s).answer rfl hs
  · exact (OnCourse.refl s).answer rfl hs
  · exact hk

theorem State.runSwitchSource_onCourse (r : Running) (n : Nat) (hs : resetTaken s = []) :
    OnCourse s (s.runSwitchSource r n) := by
  have answered {t : State} (h : t.course = s.course.answered) : OnCourse s t := (OnCourse.refl s).answer h hs
  refine .checkedWrite hs ?_
  split
  · dsimp only
    split
    · exact answered rfl
    · split_ifs
      · exact answered rfl
      · exact answered rfl
      · exact (s.manualSwitch_onCourse _).answer rfl hs
  · exact answered rfl

theorem State.runDiscardFallback_onCourse (r : Running) (hs : resetTaken s = []) :
    OnCourse s (s.runDiscardFallback r) := by
  refine .checkedWrite hs ?_
  split
  · exact (OnCourse.refl s).answer rfl hs
  · refine OnCourse.answer (v := State.revert _) ?_ rfl hs
    exact (State.revert_onCourse _).after rfl

/-! ### Advertised classes that come with a descriptor or a STATE (R36, R49, R80) -/

theorem State.takeDescriptor_onCourse (u : InUnit) (body : List Byte) : OnCourse s (s.takeDescriptor u body) := by
  unfold State.takeDescriptor
  split
  · exact .of_eq rfl
  · exact (OnCourse.withClassChange (.of_eq rfl)).after rfl

theorem State.deliver_onCourse (u : InUnit) (c : Byte) (now : Stamp) : OnCourse s (s.deliver u c now) := by
  unfold State.deliver
  split
  · unfold State.sentence
    dsimp only
    split_ifs
    · exact .of_eq (by simp)
    · exact (State.takeDescriptor_onCourse _ u _).after (by simp)
    · exact .of_eq (by simp)
  · exact .of_eq rfl

theorem State.takeUpstream_onCourse (u : UpUnit) (c : Nat) (sc : Int) : OnCourse s (s.takeUpstream u c sc) := by
  unfold State.takeUpstream
  exact (OnCourse.withClassChange (.of_eq rfl)).trans (.of_eq (State.followScale_course _ _))

/-! ### Phase events of the steering unit (R90 to R96) -/

/-- A change of the steering unit that goes on naming what it steers by, and steers by the same source. -/
theorem OnCourse.steer {s t : State} (he : t.executor = s.executor) (hq : t.selector = s.selector)
    (hf : t.flight.selections = s.flight.selections) (hb : t.steering.steered = s.steering.steered)
    (hn : SteeringNamed s → SteeringNamed t) : OnCourse s t :=
  ⟨.of_running (by rw [he]), hn, .inl ⟨by rw [hq], targetSource_congr hb hf⟩⟩

/-- An ACQUIRE unit that locks goes on steering by its source (R94). -/
theorem State.lockTest_onCourse (c : Int) (h : s.steering.state = .acquire) : OnCourse s (s.lockTest c) := by
  unfold State.lockTest
  dsimp only
  generalize (if (c.natAbs : Int) ≤ s.steering.settings.tl then _ else _ : Nat) = run
  split
  · refine .steer rfl rfl rfl rfl ?_
    rintro ⟨hsteer, horig, hage⟩
    refine ⟨iff_of_true (hsteer.mpr (.inl h)) (.inr rfl), iff_of_false (fun ho => ?_) nofun, fun _ => hage ?_⟩
    · exact SteeringState.noConfusion (h.symm.trans (horig.mp ho))
    · rw [h]
      exact nofun
  · exact .of_eq (State.modSteering_course rfl)

theorem Steering.accept_bearing (t : Steering) (limit candidate sum : Int) :
    (t.accept limit candidate sum).bearing = t.bearing := by
  unfold Steering.accept; split <;> rfl

theorem State.steer_onCourse (e : Ext) (c : Int) : OnCourse s (s.steer e c) := by
  unfold State.steer
  dsimp only
  generalize hv : State.handRate _ _ = v
  have hc : v.course = s.course := by
    rw [← hv, State.handRate_course, State.modSteering_course (Steering.accept_bearing _ _ _ _)]
  split
  · next h =>
    refine (OnCourse.of_eq hc).trans (v.lockTest_onCourse c ?_)
    rw [← h]
    exact congrArg (fun x => x.bearing.1) hc
  · exact .of_eq (by rw [State.modSteering_course rfl, State.excursionTest_course, hc])

theorem State.takeGoodEvent_onCourse (e : Ext) (c x : Int) : OnCourse s (s.takeGoodEvent e c x) := by
  unfold State.takeGoodEvent
  dsimp only
  split_ifs
  · exact .of_eq rfl
  · exact (State.steer_onCourse _ e c).after rfl
  · exact .of_eq rfl

/-! ### Selections taken (R99 to R101) -/

/-- The steering unit takes the oldest selection on its way: what it will steer by afterwards is kept. -/
theorem OnCourse.takeSelection {s t : State} {i : Source} {rest : List Source} (he : t.executor = s.executor)
    (hq : t.selector = s.selector) (hs : s.flight.selections = i :: rest) (ht : t.flight.selections = rest)
    (hi : steeredSource t.steering = i) (hn : SteeringNamed s → SteeringNamed t) : OnCourse s t := by
  refine ⟨.of_running (by rw [he]), hn, .inl ⟨by rw [hq], ?_⟩⟩
  unfold targetSource
  rw [hs, ht, hi, List.getLast?_cons]
  rfl

/-- STEERING_STATE is latched when the state is not ACQUIRE already (R99). -/
theorem State.acquireSource_eq (e : Ext) : s.acquireSource e =
    { s with
      steering := { s.steering with
        state := .acquire, steered := some e, steeredClass := some (s.effectiveClass e)
        lockCount := 0, excursionCount := 0, age := 0, origin := none, scale := s.unitScale e }
      flight := { s.flight with
        latches := s.flight.latches ++ (if s.steering.state = .acquire then [] else [.steeringState]) } } := by
  unfold State.acquireSource
  dsimp only
  split
  · rw [List.append_nil]
    rfl
  · rfl

theorem State.acquireSource_onCourse {e : Ext} {rest : List Source}
    (h : s.flight.selections = toSource e :: rest) :
    OnCourse s ((s.modFlight fun f => { f with selections := rest }).acquireSource e) := by
  rw [State.acquireSource_eq]
  refine .takeSelection rfl rfl h rfl rfl fun _ => ?_
  exact ⟨iff_of_true rfl (.inl rfl), iff_of_false nofun nofun, fun _ => rfl⟩

/-- A unit that steers by a source has no holdover origin and no holdover age to lose. -/
theorem origin_age_of_steered {s : State} (hn : SteeringNamed s) {e : Ext} (he : s.steering.steered = some e) :
    s.steering.origin = none ∧ s.steering.age = 0 := by
  obtain ⟨hsteer, horig, hage⟩ := hn
  have hst : s.steering.state ≠ .holdover := by
    rcases hsteer.mp (by rw [he]; rfl) with h | h <;> rw [h] <;> exact nofun
  exact ⟨Option.not_isSome_iff_eq_none.mp fun ho => hst (horig.mp ho), hage hst⟩

theorem State.leaveSource_onCourse {rest : List Source} (h : s.flight.selections = localSource :: rest) :
    OnCourse s (s.modFlight fun f => { f with selections := rest }).leaveSource := by
  unfold State.leaveSource
  split
  · next hs =>
    refine .takeSelection rfl rfl h rfl ?_ id
    rw [steeredSource, hs]
    rfl
  · next e hs =>
    dsimp only
    split
    · refine .takeSelection rfl rfl h rfl rfl fun _ => ?_
      refine ⟨iff_of_false nofun ?_, iff_of_true rfl rfl, fun hc => absurd rfl hc⟩
      rintro (hc | hc) <;> cases hc
    · refine .takeSelection rfl rfl h rfl rfl fun hn => ?_
      obtain ⟨ho, ha⟩ := origin_age_of_steered hn hs
      refine ⟨iff_of_false nofun ?_, iff_of_false (Option.not_isSome_iff_eq_none.mpr ho) nofun, fun _ => ha⟩
      rintro (hc | hc) <;> cases hc

/-! ### Holdover (R102) -/

/-- A unit in HOLDOVER steers by no source, and in FREE neither. -/
theorem State.ageHoldover_onCourse (n : Nat) : OnCourse s (s.ageHoldover n) := by
  unfold State.ageHoldover
  split_ifs with hst
  · refine .steer rfl rfl rfl rfl ?_
    rintro ⟨hsteer, -, -⟩
    refine ⟨iff_of_false (fun h => ?_) ?_, iff_of_false nofun nofun, fun _ => rfl⟩
    · rcases hsteer.mp h with h | h <;> cases hst.symm.trans h
    · rintro (hc | hc) <;> cases hc
  · refine .steer rfl rfl rfl rfl ?_
    rintro ⟨hsteer, horig, -⟩
    exact ⟨hsteer, horig, fun h => absurd hst h⟩
  · exact .refl s

theorem State.steeringCycle_onCourse : OnCourse s s.steeringCycle := by
  unfold State.steeringCycle
  split
  · exact .refl s
  · exact (State.ageHoldover_onCourse _ _).after rfl

end Moves

/-! ### Commands granted (R173) -/

/-- A command that comes to run has reset no block yet (R183). -/
theorem State.takeCommand_onCourse {s : State} (h : s.executor.running = none) (l : Link) (f : List Byte) :
    OnCourse s (s.takeCommand l f) := by
  unfold State.takeCommand
  split
  · exact .of_eq (s.badFrame_course _ _ _)
  · refine ⟨⟨?_, fun _ r hr hne => ?_⟩, id, .inl ⟨rfl, rfl⟩⟩
    · rw [resetTaken, resetTaken, h]
      rfl
    · cases hr
      exact absurd rfl hne

theorem State.grant_onCourse {s : State} (h : s.executor.running = none) (l : Link) : OnCourse s (s.grant l) := by
  unfold State.grant
  split
  · exact .refl s
  · exact (State.takeCommand_onCourse (by exact h) l _).after rfl

end Sys2Proof.Machine

/-! SUPPORT. Entry writes, service reset, and every command keep the steering unit with the selection (R88, R178,
R183). -/

namespace Sys2Proof.Machine

open Sys2Proof.Config Sys2Proof.Safety

/-! ### Entry writes (R178) -/

section EntryWrites

variable (s : State) (value : List Byte)

theorem State.writeInput_course (u : InUnit) (off : Nat) :
    (s.writeInput u off value).Forall fun t => t.course = s.course := by
  unfold State.writeInput; dsimp only; split <;> simp

theorem State.writeUplink_course (u : UpUnit) (off : Nat) :
    (s.writeUplink u off value).Forall fun t => t.course = s.course := by
  unfold State.writeUplink; dsimp only; split <;> simp

/-- The enabled field and the programmed class may select another source; no other field of a source does. -/
theorem State.writeSource_onCourse (e : Ext) (off : Nat) : (s.writeSource e off value).Forall (OnCourse s) := by
  unfold State.writeSource
  split
  · rw [forall_storeEnum]
    intro b _ _
    split
    · exact .of_eq (s.enableSource_course e)
    · exact s.disableSource_onCourse e
  · exact forall_storeNat.mpr fun _ _ => .of_eq rfl
  · exact forall_storeNat.mpr fun _ _ => OnCourse.withClassChange (.of_eq rfl)
  · split
    · trivial
    · exact forall_storeNat.mpr fun _ _ => .of_eq rfl
  · exact forall_storeNum.mpr fun _ _ => .of_eq rfl
  · unfold State.writeUnit
    split
    · exact (s.writeInput_course value _ off).mono fun _ => .of_eq
    · exact (s.writeUplink_course value _ off).mono fun _ => .of_eq
    · trivial

/-- Of the selector-wide settings only auto-upgrade may select another source. -/
theorem State.writeSelector_onCourse (index : Nat) : (s.writeSelector index value).Forall (OnCourse s) := by
  have upgrade (on : Bool) : OnCourse s (s.setAutoUpgrade on) := by
    unfold State.setAutoUpgrade
    dsimp only
    split
    · exact (State.upgradeTest_onCourse _).after rfl
    · exact .of_eq rfl
  unfold State.writeSelector
  dsimp only
  split
  case h_6 => exact forall_storeEnum.mpr fun _ _ _ => .of_eq rfl
  case h_7 => exact forall_storeEnum.mpr fun _ _ _ => upgrade _
  case h_8 => trivial
  all_goals exact forall_storeNum.mpr fun _ _ => .of_eq rfl

theorem State.writeSources_onCourse (index : Nat) : (s.writeSources index value).Forall (OnCourse s) := by
  unfold State.writeSources
  split_ifs
  · exact s.writeSource_onCourse value _ _
  · trivial
  · exact s.writeSelector_onCourse value index

/-- Options, mask and settings are no part of the bearing. -/
theorem State.writeSteering_course (index : Nat) :
    (s.writeSteering index value).Forall fun t => t.course = s.course := by
  unfold State.writeSteering
  dsimp only
  split
  case h_1 | h_2 => exact forall_storeSet.mpr fun _ _ _ => rfl
  case h_14 => trivial
  all_goals exact forall_storeNum.mpr fun _ _ => rfl

theorem State.writeTimeSection_course (index : Nat) :
    (s.writeTimeSection index value).Forall fun t => t.course = s.course := by
  unfold State.writeTimeSection
  split
  · exact forall_storeNum.mpr fun _ _ => rfl
  · exact forall_storeNum.mpr fun _ _ => rfl
  · trivial

theorem State.writePlans_course (index : Nat) :
    (s.writePlans index value).Forall fun t => t.course = s.course := by
  unfold State.writePlans State.writeMap
  split
  · split
    · trivial
    · split <;> trivial
  · split
    · exact forall_storeNat.mpr fun _ _ => rfl
    · trivial

theorem State.writePorts_course (index : Nat) :
    (s.writePorts index value).Forall fun t => t.course = s.course := by
  unfold State.writePorts State.writePort
  split
  · dsimp only; split <;> simp
  · trivial

theorem State.writeOutputs_course (index : Nat) :
    (s.writeOutputs index value).Forall fun t => t.course = s.course := by
  unfold State.writeOutputs State.writePulse State.writeCoded
  split_ifs
  · split <;> simp
  · split <;> simp
  · trivial

theorem State.writeControl_course (index : Nat) :
    (s.writeControl index value).Forall fun t => t.course = s.course := by
  unfold State.writeControl State.writeNotice
  split
  · split <;> simp
  · trivial

theorem State.writeAccess_course (index : Nat) :
    (s.writeAccess index value).Forall fun t => t.course = s.course := by
  unfold State.writeAccess
  split_ifs
  · split <;> trivial
  · split <;> trivial
  · trivial

/-- Of the nine sections only SOURCES may select another source. -/
theorem State.storeEntry_onCourse (sect index : Nat) : (s.storeEntry sect index value).Forall (OnCourse s) := by
  have kept {x : Stored} (h : x.Forall fun t => t.course = s.course) : x.Forall (OnCourse s) :=
    h.mono fun _ => .of_eq
  unfold State.storeEntry
  split
  · exact kept (s.writeControl_course value index)
  · exact s.writeSources_onCourse value index
  · exact kept (s.writeSteering_course value index)
  · exact kept (s.writeTimeSection_course value index)
  · exact kept (s.writePlans_course value index)
  · exact kept (s.writePorts_course value index)
  · exact kept (s.writeOutputs_course value index)
  · exact kept (s.writeAccess_course value index)
  · trivial

end EntryWrites

/-- A running command other than SERVICE RESET has reset no block. -/
theorem resetTaken_of_running {s : State} {r : Running} (hl : ResetListed s) (hr : s.executor.running = some r)
    (hc : r.command ≠ .serviceReset) : resetTaken s = [] := by
  rw [resetTaken, hr]
  exact not_not.mp fun hne => hc (hl r hr hne)

theorem State.writeAs_onCourse {s : State} (hl : ResetListed s) (row : WriteRow) : OnCourse s (s.writeAs row) := by
  rcases s.writeAs_cases row with h | ⟨r, sect, index, value, ⟨hr, hc⟩, -, h⟩ <;> rw [h]
  · exact .refl s
  · have hs : resetTaken s = [] := resetTaken_of_running hl hr (by rw [hc]; exact nofun)
    rcases s.runWriteEntry_cases r sect index value with ⟨st, h'⟩ | ⟨t, c, ht, -, -, h'⟩ <;> rw [h']
    · exact (OnCourse.refl s).answer rfl hs
    · have hstored := s.storeEntry_onCourse value sect index
      rw [ht] at hstored
      exact hstored.answer rfl hs

/-! ### Service reset (R88, R183) -/

/-- What `SelectionFollowed` says, said of any list of blocks that have taken a SERVICE RESET. -/
def FollowedOver (taken : List ResetBlock) (s : State) : Prop :=
  if ResetBlock.selector ∈ taken ∧ ResetBlock.steering ∉ taken then True
  else targetSource s = s.selector.selected ∨
    (ResetBlock.steering ∈ taken ∧ ResetBlock.selector ∉ taken ∧ targetSource s = localSource)

theorem followedOver_resetTaken (s : State) : FollowedOver (resetTaken s) s ↔ SelectionFollowed s := .rfl

/-- A block's reset that is neither the selector's nor the steering unit's keeps the selections on their way. -/
theorem State.resetBlock_selections (s : State) (done : List ResetBlock) {b : ResetBlock} (hq : b ≠ .selector)
    (ht : b ≠ .steering) : (s.resetBlock done b).flight.selections = s.flight.selections := by
  have follow (v : State) (e : Ext) : (v.followScale e).flight.selections = v.flight.selections :=
    congrArg Course.selections (v.followScale_course e)
  cases b with
  | selector => exact absurd rfl hq
  | steering => exact absurd rfl ht
  | input u => exact follow _ _
  | uplink u => exact follow _ _
  | timebase | planStore | port | outputs | notice => rfl

/-- The selector's reset leaves the steering unit bound for LOCAL, when it has been reset before and was bound for
the selected source or for LOCAL (R87, R88). -/
theorem State.targetSource_resetSelector {s : State}
    (h : targetSource s = s.selector.selected ∨ targetSource s = localSource) :
    targetSource (s.resetSelector true) = localSource := by
  obtain ⟨v, hv, -⟩ := State.foldl_leaveIfTrial_eq allExt s
  unfold State.resetSelector
  rw [hv]
  dsimp only
  split
  · exact targetSource_of_selected rfl
  · next hq =>
    have hq : s.selector.selected = localSource := by simpa using hq
    rw [hq, or_self] at h
    exact h

/-- The steering unit's reset leaves it at LOCAL, bound for the selected source when the selector has been reset
before (R88, R109). -/
theorem State.targetSource_resetSteering (s : State) (done : Bool) :
    targetSource (s.resetSteering done) = if done = true then s.selector.selected else localSource := by
  unfold targetSource State.resetSteering
  rw [State.handRate_flight, State.modFlight_flight]
  dsimp only
  by_cases hd : done = true
  · by_cases hq : s.selector.selected = localSource
    · simp [hd, hq]
      rfl
    · simp [hd, hq]
  · simp [hd]
    rfl

/-- A block's reset keeps what the steering unit names: its own leaves it FREE. -/
theorem BlockReset.steeringNamed {s t : State} {b : ResetBlock} (h : BlockReset s b t) (hn : SteeringNamed s) :
    SteeringNamed t := by
  have ht := h.steering
  split_ifs at ht
  · unfold SteeringNamed
    rw [ht]
    refine ⟨iff_of_false nofun ?_, iff_of_false nofun nofun, fun _ => rfl⟩
    rintro (hc | hc) <;> cases hc
  · refine (steeringNamed_congr ?_).mpr hn
    rcases ht with ht | ⟨-, c, ht⟩ <;> rw [ht]
    rfl

/-- Each block's reset keeps what is claimed of the stretch of a SERVICE RESET (R88, R183). -/
theorem State.resetBlock_followedOver {s : State} {done : List ResetBlock} {b : ResetBlock} (hb : b ∉ done)
    (hs : FollowedOver done s) : FollowedOver (done ++ [b]) (s.resetBlock done b) := by
  have hr := s.resetBlock_reset done b
  unfold FollowedOver at hs ⊢
  by_cases hq : b = .selector
  · subst hq
    have hsel : (s.resetBlock done .selector).selector.selected = localSource := by
      rw [hr.selected, if_pos rfl]
    by_cases ht : ResetBlock.steering ∈ done
    · have h : targetSource (s.resetSelector true) = localSource := by
        refine State.targetSource_resetSelector ?_
        rw [if_neg (by simp [ht])] at hs
        exact hs.imp id fun h => h.2.2
      rw [if_neg (by simp [ht]), hsel]
      left
      rw [State.resetBlock, decide_eq_true ht]
      exact h
    · rw [if_pos (by simp [ht])]
      trivial
  · by_cases ht : b = .steering
    · subst ht
      have h := s.targetSource_resetSteering (decide (ResetBlock.selector ∈ done))
      have hsel : (s.resetBlock done .steering).selector.selected = s.selector.selected := by
        rw [hr.selected, if_neg hq]
      rw [if_neg (by simp), hsel]
      by_cases hd : ResetBlock.selector ∈ done
      · left
        rw [if_pos (decide_eq_true hd)] at h
        exact h
      · right
        rw [if_neg (by simpa using hd)] at h
        exact ⟨by simp, by simp [hd], h⟩
    · have htarget : targetSource (s.resetBlock done b) = targetSource s := by
        refine targetSource_congr ?_ (s.resetBlock_selections done hq ht)
        have h := hr.steering
        rw [if_neg ht] at h
        rcases h with h | ⟨-, c, h⟩ <;> rw [h]
      have hsel : (s.resetBlock done b).selector.selected = s.selector.selected := by
        rw [hr.selected, if_neg hq]
      simpa [Ne.symm hq, Ne.symm ht, htarget, hsel] using hs

theorem State.runServiceReset_steeringSound {s : State} {r : Running} (hs : SteeringSound s)
    (hr : Runs s r .serviceReset) (blocks : List ResetBlock) : SteeringSound (s.runServiceReset r blocks) := by
  obtain ⟨hrun, hcmd⟩ := hr
  have htaken : resetTaken s = r.resetTaken := by
    rw [resetTaken, hrun]
    rfl
  obtain ⟨hn, hf⟩ : SteeringNamed (s.resetBlocks r.resetTaken blocks).1 ∧
      FollowedOver (s.resetBlocks r.resetTaken blocks).2 (s.resetBlocks r.resetTaken blocks).1 := by
    refine State.resetBlocks_induct (P := fun v d => SteeringNamed v ∧ FollowedOver d v) s r.resetTaken blocks
      ⟨hs.1, ?_⟩ fun v d b hv hb => ⟨?_, ?_⟩
    · rw [← htaken]
      exact (followedOver_resetTaken s).mpr hs.2.1
    · exact (v.resetBlock_reset d b).steeringNamed hv.1
    · exact State.resetBlock_followedOver hb hv.2
  unfold State.runServiceReset
  dsimp only
  generalize s.resetBlocks r.resetTaken blocks = out at hn hf
  have hgo : SteeringSound (if resetComplete out.2 then out.1.finishReset r
      else { out.1 with executor := { out.1.executor with running := some { r with resetTaken := out.2 } } }) := by
    split
    · next hall =>
      have hall := resetComplete_iff.mp hall
      rw [FollowedOver, if_neg (by simp [hall])] at hf
      refine ⟨hn, .inl (hf.resolve_right fun h => h.2.1 (hall _)), nofun⟩
    · refine ⟨hn, hf, fun v hv _ => ?_⟩
      cases hv
      exact hcmd
  split
  · next hempty =>
    have hidle : resetTaken s = [] := by
      rw [htaken]
      exact List.isEmpty_iff.mp hempty
    rcases s.checkedWrite_cases r 1 0 _ with ⟨-, h⟩ | ⟨-, -, h⟩ | ⟨-, h⟩ <;> rw [h]
    · exact ((OnCourse.refl s).answer rfl hidle).sound hs
    · exact ((OnCourse.refl s).answer rfl hidle).sound hs
    · exact hgo
  · exact hgo

/-! ### Every command -/

/-- A row of the executor stays on course when every command it accepts does and none is a SERVICE RESET. -/
theorem OnCourse.onCommand {s : State} (hl : ResetListed s) {f : Running → Command → Option State}
    (hf : ∀ r c t, resetTaken s = [] → f r c = some t → OnCourse s t)
    (hreset : ∀ r, f r .serviceReset = none) : OnCourse s (s.onCommand f) := by
  rcases s.onCommand_cases f with h | ⟨r, t, hr, h, h'⟩
  · rw [h]
    exact .refl s
  · rw [h']
    refine hf r _ t (resetTaken_of_running hl hr fun hc => ?_) h
    rw [hc, hreset] at h
    cases h

/-- Every command but SERVICE RESET and power-on reset stays on course. -/
theorem exec_onCourse {c : Instr} {s t : State} (hp : notPowerOn c = true)
    (hr : ∀ blocks, c ≠ .serviceReset blocks) (hl : ResetListed s) (h : exec c s = .next t) : OnCourse s t := by
  cases c
  case powerOnReset => cases hp
  case serviceReset blocks => exact absurd rfl (hr blocks)
  case rateWordTaken | stepRequestApplied =>
    simp only [exec, execRateWordTaken, execStepRequestApplied] at h
    split at h <;> cases h <;> exact .of_eq rfl
  case rateLimitWrite | pairingModeWrite | autoRateArmWrite | sourceEnable | sourceDisable |
      autoUpgradeWrite | programmedClassWrite | steeringOptionsWrite | portMapWrite | epochLengthWrite |
      portEnable | portDisable | writeEntry | accessTableWrite | guardEntryWrite | noticeMaskWrite |
      nestModeWrite => cases h; exact State.writeAs_onCourse hl _
  case switchSource =>
    cases h
    refine .onCommand hl (fun r c t hs hf => ?_) fun _ => rfl
    split at hf <;> cases hf
    exact s.runSwitchSource_onCourse r _ hs
  case discardFallback =>
    cases h
    refine .onCommand hl (fun r c t hs hf => ?_) fun _ => rfl
    split at hf <;> cases hf
    exact s.runDiscardFallback_onCourse r hs
  case readTime | stepTime | armPlan | disarmPlan | clearPortFlags | readEntry | lockAccess | linkReset |
      takeNotice | endService | peekFault | popFault | clearFaultOverflow =>
    cases h
    refine .onCommand hl (fun r c t hs hf => (OnCourse.refl s).answer ?_ hs) fun _ => rfl
    split at hf <;> cases hf
    simp
  -- rows of the selector
  case selectorPulseReport =>
    cases h
    split
    · exact (State.takeReport_onCourse _ _ _).after rfl
    · exact .refl s
  case selectorPhaseEvent =>
    cases h
    split
    · exact (State.takePhase_onCourse _ _ _).after rfl
    · exact .refl s
  case excursionReport =>
    cases h
    split
    · exact .refl s
    · dsimp only
      split
      · exact (State.faultEntry_onCourse _ _ _).after rfl
      · exact .of_eq rfl
  case selectorCycleStart => cases h; exact s.selectorCycle_onCourse
  case retryTimerExpiry =>
    cases h
    split
    · exact s.selectorCycle_onCourse
    · exact .refl s
  case selectorStep => cases h; split <;> exact .of_eq rfl
  case characterReceived =>
    cases h
    split
    · dsimp only
      split
      · exact (State.deliver_onCourse _ _ _ _).after rfl
      · exact .of_eq rfl
    · exact .refl s
  case uplinkStateMark =>
    cases h
    split
    · exact (State.takeUpstream_onCourse _ _ _ _).trans (.of_eq (State.takeMark_course _ _ _ _))
    · exact .refl s
  -- rows of the steering unit
  case steeringPhaseEvent =>
    cases h
    split
    · split
      · exact (State.takeGoodEvent_onCourse _ _ _ _).after rfl
      · exact .of_eq rfl
    · exact .refl s
  case steeringSelectExternal =>
    cases h
    split
    · next i rest hs =>
      split
      · next e he =>
        rw [extOf_eq_some.mp he] at hs
        exact s.acquireSource_onCourse hs
      · exact .refl s
    · exact .refl s
  case steeringSelectLocal =>
    cases h
    split
    · next i rest hs =>
      split
      · next he =>
        rw [extOf_eq_none.mp he] at hs
        exact s.leaveSource_onCourse hs
      · exact .refl s
    · exact .refl s
  case steeringCycleStart => cases h; exact s.steeringCycle_onCourse
  case holdoverExpiry =>
    cases h
    split
    · exact s.steeringCycle_onCourse
    · exact .refl s
  case commandGrant =>
    cases h
    split
    · exact .refl s
    · next hidle =>
      split
      · exact State.grant_onCourse hidle _
      · exact .refl s
  -- rows without a branch of their own
  case oscillatorTick | pulseEdge | pairingWindowEnd | uplinkCycleStart | uplinkLinkDown | uplinkLinkUp |
      portCycleStart | portLinkDown | portLinkUp | pulseFall | responseDelivered | commandFrameReceived |
      selectReleased =>
    cases h; exact .of_eq (by simp)
  -- rows that do nothing unless their event is there
  case answerEntryExpiry | autoRateMeasurement | breakDetected | breakEnd | codedDueTime | codedOutputStep |
      codedTransmissionDone | cycleCut | cycleStart | descriptorRequestDone | falseStart | faultOffered |
      framingError | measuredLeadEnd | noticeCycleStart | noticeLatch | noticeSlotStart |
      portUnexpectedFrame | pulseOutputStep | pulseRiseTime | pulseWindowMiss |
      queryLost | queryReceived | receiveFallingEdge | selectAsserted | slotStart |
      steeringStepAnnouncement | uplinkMark | uplinkQuerySlot | uplinkReply | uplinkUnexpectedFrame =>
    cases h; refine .of_eq ?_
    split <;> simp
  case portCompletionReport =>
    cases h; refine .of_eq ?_
    split
    · rfl
    · exact (State.judgeCycle_course _).trans rfl
  -- rows whose event, when it is there, is taken in one of two ways
  case inputUnitStep | portCut | portSlotStart | uplinkStep =>
    cases h; refine .of_eq ?_
    split
    any_goals rfl
    split <;> simp
  case requestTimerExpiry =>
    cases h; refine .of_eq ?_
    split_ifs <;> simp
  case markDeparture | replyDeparture =>
    cases h; refine .of_eq ?_
    split
    · split
      · split <;> simp
      · rfl
    · rfl

/-- Settles O9: a command stays on course, or resets the blocks one by one, or powers the part on. -/
theorem steeringFollowsSelection : Obligations.SteeringFollowsSelection := by
  intro s t hs h
  rcases step_cases h with ⟨-, rfl⟩ | ⟨c, rest, -, h'⟩
  · exact hs
  · have hv : SteeringSound { s with pending := rest } := (OnCourse.of_eq (s := s) rfl).sound hs
    cases hp : notPowerOn c
    · cases c <;> cases hp
      cases h'
      exact powerOn_steeringSound _ _ _ _
    · by_cases hr : ∃ blocks, c = .serviceReset blocks
      · obtain ⟨blocks, rfl⟩ := hr
        cases h'
        rcases State.onCommand_cases _ _ with h | ⟨r, t, hr, hf, h⟩ <;> rw [h]
        · exact hv
        · split at hf <;> cases hf
          next hc => exact State.runServiceReset_steeringSound hv ⟨hr, hc⟩ blocks
      · exact (exec_onCourse hp (not_exists.mp hr) (by exact hv.2.2) h').sound hv

end Sys2Proof.Machine

/-! SUPPORT. The rows of the steering unit other than the phase event: step announcements, selections, cycle starts,
and the class it gives the output (R88, R97 to R105). -/

namespace Sys2Proof.Machine

open Sys2Proof.Config Sys2Proof.Safety

/-! ### Step announcements (R97, R98) -/

theorem exec_steeringStepAnnouncement {s : State} {a : StepAnnouncement} {rest : List StepAnnouncement}
    (h : s.flight.stepsToSteering = a :: rest) :
    exec .steeringStepAnnouncement s =
      .next ((s.modFlight fun f => { f with stepsToSteering := rest }).takeStepAnnouncement a.origin) := by
  simp only [exec, execSteeringStepAnnouncement, h]

/-- The loop after a step announcement: the integral and the two counts cleared (R98). -/
def Steering.loopCleared (t : Steering) : Steering :=
  { t with integral := 0, lockCount := 0, excursionCount := 0 }

/-- An announcement that ends no pending step clears the loop and logs nothing (R98). -/
theorem State.takeStepAnnouncement_of_unasked {s : State} {o : StepOrigin}
    (h : o = .command ∨ s.steering.pendingStep = none) :
    s.takeStepAnnouncement o = s.modSteering Steering.loopCleared := by
  unfold State.takeStepAnnouncement
  rcases h with rfl | h
  · rfl
  · rw [h]
    cases o <;> rfl

/-- The announcement of the unit's own step ends the pending step and logs it (R97). -/
theorem State.takeStepAnnouncement_of_pending {s : State} {p : PendingStep}
    (h : s.steering.pendingStep = some p) :
    s.takeStepAnnouncement .steering =
      (s.modSteering fun t => { t.loopCleared with pendingStep := none }).logFault .steering 16 p.source.val
        (low24 s.timebase.time.sec) := by
  unfold State.takeStepAnnouncement
  rw [h]
  rfl

/-- Settles O38: an announcement that ends no pending step, and one that does. -/
theorem stepAnnouncementClearsLoop : Obligations.StepAnnouncementClearsLoop := by
  unfold Obligations.StepAnnouncementClearsLoop
  intro s a rest h cleared
  rw [exec_steeringStepAnnouncement h]
  refine ⟨fun ha => ?_, fun p ho hp => ?_⟩
  · rw [State.takeStepAnnouncement_of_unasked (by exact ha)]
    rfl
  · rw [ho, State.takeStepAnnouncement_of_pending (by exact hp)]
    rfl

/-! ### Selections (R99 to R101) -/

theorem exec_steeringSelectExternal {s : State} {e : Ext} {rest : List Source}
    (h : s.flight.selections = toSource e :: rest) :
    exec .steeringSelectExternal s =
      .next ((s.modFlight fun f => { f with selections := rest }).acquireSource e) := by
  simp only [exec, execSteeringSelectExternal, h, extOf_toSource]

theorem exec_steeringSelectLocal {s : State} {rest : List Source} (h : s.flight.selections = localSource :: rest) :
    exec .steeringSelectLocal s =
      .next (s.modFlight fun f => { f with selections := rest }).leaveSource := by
  simp only [exec, execSteeringSelectLocal, h, extOf_eq_none.mpr]

/-- Fewer than four words in the ring: FREE (R100). -/
theorem State.leaveSource_of_short {s : State} {e : Ext} (he : s.steering.steered = some e)
    (hr : s.steering.ring.length < 4) :
    s.leaveSource = (s.modSteering fun t => { t.leave with state := .free }).latch .steeringState := by
  unfold State.leaveSource
  rw [he]
  exact if_neg (by omega)

/-- Four words or more in the ring: HOLDOVER on their mean (R100, R101). -/
theorem State.leaveSource_of_filled {s : State} {e : Ext} {c0 : Nat} (he : s.steering.steered = some e)
    (hc : s.steering.steeredClass = some c0) (hr : 4 ≤ s.steering.ring.length) :
    s.leaveSource =
      (((s.modSteering fun t =>
        { (t.count fun c => { c with holdoverEntries := c.holdoverEntries + 1 }).leave with
          state := .holdover, age := 0, origin := some ⟨e, c0⟩ }).handRate
            (ringMean s.steering.ring)).logFault .steering 17 e.val s.cycleDetail).latch .steeringState := by
  unfold State.leaveSource
  rw [he, hc]
  exact if_pos hr

/-- Settles O39: an external source acquired, and a source left for LOCAL by the words in the ring. -/
theorem selectionsMoveSteering : Obligations.SelectionsMoveSteering := by
  unfold Obligations.SelectionsMoveSteering
  constructor
  · intro s e rest h
    rw [exec_steeringSelectExternal h, State.acquireSource_eq]
    rfl
  · intro s e c0 rest h he hc left latches
    rw [exec_steeringSelectLocal h]
    constructor <;> intro hr
    · rw [State.leaveSource_of_short (by exact he) (by exact hr)]
      rfl
    · rw [State.leaveSource_of_filled (by exact he) (by exact hc) (by exact hr)]
      rfl

/-! ### Cycle starts (R102) -/

theorem State.steeringCycle_eq {s : State} {n : Nat} {rest : List Nat}
    (h : s.flight.cyclesToSteering = n :: rest) :
    s.steeringCycle = (s.modFlight fun f => { f with cyclesToSteering := rest }).ageHoldover n := by
  rw [State.steeringCycle, h]

/-- The cycle start that brings the age to the limit is a HOLDOVER_EXPIRY too (log entry 6). -/
theorem exec_holdoverExpiry {s : State} {n : Nat} {rest : List Nat} (h : s.flight.cyclesToSteering = n :: rest)
    (hst : s.steering.state = .holdover) (hl : s.steering.settings.holdoverLimit ≤ s.steering.age + 1) :
    exec .holdoverExpiry s = exec .steeringCycleStart s := by
  have hd : s.expiryDue = true := by
    rw [State.expiryDue, h, decide_eq_true hst, decide_eq_true hl]
    rfl
  exact congrArg Host.Outcome.next (if_pos hd)

/-- At the limit the unit enters FREE, and the expiry is logged with its origin and latched (R102). -/
theorem State.ageHoldover_of_expired {s : State} {o : HoldoverOrigin} (n : Nat) (hst : s.steering.state = .holdover)
    (ho : s.steering.origin = some o) (hl : s.steering.settings.holdoverLimit ≤ s.steering.age + 1) :
    s.ageHoldover n =
      ((s.modSteering fun t =>
        { t.count (fun c => { c with holdoverExpiries := c.holdoverExpiries + 1 }) with
          state := .free, age := 0, origin := none }).logFault .steering 18 o.source.val (low24 n)).latch
            .steeringState := by
  rw [State.ageHoldover, if_pos hst, if_pos hl, ho]
  rfl

/-- Settles O40: outside HOLDOVER, below the limit, and at it. -/
theorem holdoverAgesAndExpires : Obligations.HoldoverAgesAndExpires := by
  unfold Obligations.HoldoverAgesAndExpires
  intro s n rest h f
  have hc : exec .steeringCycleStart s = .next (State.ageHoldover { s with flight := f } n) :=
    congrArg Host.Outcome.next (State.steeringCycle_eq h)
  rw [hc]
  refine ⟨fun hst => ?_, fun hst hl => ?_, fun o hst ho hl => ?_⟩
  · exact congrArg Host.Outcome.next (if_neg hst)
  · exact congrArg Host.Outcome.next ((if_pos hst).trans (if_neg (Nat.not_le.mpr hl)))
  · have he : State.ageHoldover { s with flight := f } n = _ :=
      State.ageHoldover_of_expired n (by exact hst) (by exact ho) (by exact hl)
    rw [exec_holdoverExpiry h hst hl, hc, he]
    exact ⟨rfl, rfl⟩

/-! ### The output class (R103, R104) -/

theorem State.holdoverClass_eq {s : State} {o : HoldoverOrigin} (h : s.steering.origin = some o) :
    s.holdoverClass = some (min 7 (o.cls + 1 + s.steering.age / s.steering.settings.holdoverStep)) := by
  rw [State.holdoverClass, h]
  rfl

theorem State.steeredSourceClass_eq {s : State} {e : Ext} (h : s.steering.steered = some e) :
    s.steeredSourceClass = s.effectiveClass e := by
  rw [State.steeredSourceClass, h]

/-- The output class by the steering state (R104). -/
theorem State.outputClass_eq (s : State) : s.outputClass =
    if s.steering.state = .locked then s.steeredSourceClass
    else if s.steering.state = .acquire then max 6 s.steeredSourceClass
    else if s.steering.state = .holdover then s.holdoverClass.getD 7
    else 7 := by
  unfold State.outputClass
  cases s.steering.state <;> rfl

/-- Settles O41: the holdover class from its origin, then the output class state by state. -/
theorem holdoverAndOutputClass : Obligations.HoldoverAndOutputClass := by
  unfold Obligations.HoldoverAndOutputClass
  intro s
  refine ⟨fun o ho => ⟨State.holdoverClass_eq ho, fun hst => ?_⟩, fun hst => ?_,
    fun e he _ => ⟨fun hst => ?_, fun hst => ?_⟩⟩ <;>
    simp only [State.outputClass_eq, hst, reduceCtorEq, if_true, if_false]
  · rw [State.holdoverClass_eq ho]
    rfl
  · exact State.steeredSourceClass_eq he
  · rw [State.steeredSourceClass_eq he]

end Sys2Proof.Machine

/-! SUPPORT. A GOOD event taken by the steering unit: set aside, deciding a step, or passing the filter, the lock
test and the excursion tests (R90 to R96). -/

namespace Sys2Proof.Machine

open Sys2Proof.Config Sys2Proof.Safety

/-! ### Which events are processed (R90, R91) -/

/-- The oldest GOOD event taken off its channel. -/
def State.goodEventTaken (s : State) (rest : List PhaseEvent) : State :=
  s.modFlight fun f => { f with goodEvents := rest }

/-- A GOOD event is taken once no selection waits before it (log entry 11). -/
theorem exec_steeringPhaseEvent {s : State} {ev : PhaseEvent} {rest : List PhaseEvent} {c x : Int}
    (hsel : s.flight.selections = []) (hev : s.flight.goodEvents = ev :: rest) (hgood : ev.validity = .good c x) :
    exec .steeringPhaseEvent s = .next ((s.goodEventTaken rest).takeGoodEvent ev.source c x) := by
  simp only [exec, execSteeringPhaseEvent, hsel, hev, hgood]
  rfl

theorem Steering.processes_iff {t : Steering} {e : Ext} : t.processes e = true ↔
    (t.state = .acquire ∨ t.state = .locked) ∧ t.steered = some e ∧ t.pendingStep = none := by
  simp [Steering.processes, and_assoc]

/-- What is not processed: an event in FREE or HOLDOVER, of another source, or with a step pending. -/
theorem Steering.processes_eq_false_iff {t : Steering} {e : Ext} : t.processes e = false ↔
    t.state = .free ∨ t.state = .holdover ∨ t.steered ≠ some e ∨ t.pendingStep ≠ none := by
  rw [← Bool.not_eq_true, Steering.processes_iff]
  cases t.state <;> simp [imp_iff_not_or]

theorem Steering.decidesStep_iff {t : Steering} {exact : Int} : t.decidesStep exact = true ↔
    t.state = .acquire ∧ t.options.stepPermit = true ∧ t.settings.ts < (exact.natAbs : Int) := by
  simp [Steering.decidesStep, and_assoc]

/-- An event counted as processed, the class of its source noted (R90, R100). -/
def State.counted (s : State) (e : Ext) : State :=
  s.modSteering fun v =>
    { v.count (fun c => { c with processed := c.processed + 1 }) with
      steeredClass := some (s.effectiveClass e) }

theorem State.takeGoodEvent_of_not_processes {s : State} {e : Ext} (h : s.steering.processes e = false)
    (c x : Int) : s.takeGoodEvent e c x =
      s.modSteering fun v => v.count fun n => { n with setAside := n.setAside + 1 } :=
  if_neg (by rw [h]; exact Bool.false_ne_true)

theorem State.takeGoodEvent_of_decidesStep {s : State} {e : Ext} {x : Int} (h : s.steering.processes e = true)
    (hd : s.steering.decidesStep x = true) (c : Int) :
    s.takeGoodEvent e c x = (s.counted e).requestStep e x :=
  (if_pos h).trans (if_pos hd)

theorem State.takeGoodEvent_of_processes {s : State} {e : Ext} {x : Int} (h : s.steering.processes e = true)
    (hd : ¬s.steering.decidesStep x = true) (c : Int) :
    s.takeGoodEvent e c x = (s.counted e).steer e c :=
  (if_pos h).trans (if_neg hd)

/-! ### The filter (R92, R93) -/

theorem rateUnits_neg (e : Int) : rateUnits (-e) = -rateUnits e := by
  unfold rateUnits
  rw [Int.neg_mul, halfAway_neg]

theorem rateUnits_near {e : Int} (h : 0 ≤ e) :
    (2 * rateUnits e - 1) * 1000000000 ≤ 2 * e * 2147483648 ∧
      2 * e * 2147483648 < (2 * rateUnits e + 1) * 1000000000 := by
  rw [mul_assoc]
  exact halfAway_near (by omega) (by decide)

/-- The filter divides by powers of two (R93). -/
theorem Steering.filter_eq (t : Steering) (c : Int) : t.filter c =
    (-((rateUnits (saturate t.settings.ts c)).tdiv (2 ^ t.shifts.1) +
        (t.integral + rateUnits (saturate t.settings.ts c)).tdiv (2 ^ t.shifts.2)),
      t.integral + rateUnits (saturate t.settings.ts c)) := by
  simp [Steering.filter, towardZero]

/-- The integral takes the sum, or is kept and the clamp counted (R93). -/
theorem Steering.accept_eq (t : Steering) (limit candidate sum : Int) : t.accept limit candidate sum =
    { t with
      integral := if (candidate.natAbs : Int) ≤ limit then sum else t.integral
      counters := { t.counters with
        clamped := t.counters.clamped + (if (candidate.natAbs : Int) ≤ limit then 0 else 1) } } := by
  unfold Steering.accept
  split
  · simp
  · rfl

/-- The candidate of an event handed to the timebase as a rate word, and the integral after it (R93). -/
def State.filtered (s : State) (c : Int) : State :=
  (s.modSteering fun v =>
    v.accept s.timebase.rateLimit (s.steering.filter c).1 (s.steering.filter c).2).handRate
      (handedWord s.timebase.rateLimit (s.steering.filter c).1)

theorem State.filtered_eq {s : State} {c candidate sum : Int} (h : s.steering.filter c = (candidate, sum)) :
    s.filtered c = { s with
      steering := { s.steering with
        integral := if (candidate.natAbs : Int) ≤ s.timebase.rateLimit then sum else s.steering.integral
        counters := { s.steering.counters with
          clamped := s.steering.counters.clamped +
            (if (candidate.natAbs : Int) ≤ s.timebase.rateLimit then 0 else 1) } }
      flight := { s.flight with
        rateWords := s.flight.rateWords ++ [clamp (-s.timebase.rateLimit) s.timebase.rateLimit candidate] } } := by
  unfold State.filtered
  simp only [h, Steering.accept_eq]
  rfl

theorem State.steer_of_acquire {s : State} (h : s.steering.state = .acquire) (e : Ext) (c : Int) :
    s.steer e c = (s.filtered c).lockTest c :=
  if_pos h

theorem State.steer_of_locked {s : State} (h : s.steering.state = .locked) (e : Ext) (c : Int) :
    s.steer e c = ((s.filtered c).excursionTest e c).modSteering fun v =>
      { v with
        ring := pushBounded ringDepth v.ring (handedWord s.timebase.rateLimit (s.steering.filter c).1) } :=
  if_neg (by rw [h]; exact nofun)

/-! ### The lock test (R94) -/

/-- The run of errors within Tl that an ACQUIRE event leaves (R94). -/
def Steering.lockRun (t : Steering) (c : Int) : Nat :=
  if (c.natAbs : Int) ≤ t.settings.tl then t.lockCount + 1 else 0

theorem State.lockTest_of_short {s : State} {c : Int} (h : s.steering.lockRun c < s.steering.settings.lockCount) :
    s.lockTest c = s.modSteering fun v => { v with lockCount := s.steering.lockRun c } :=
  if_neg (Nat.not_le.mpr h)

theorem State.lockTest_of_reached {s : State} {c : Int}
    (h : s.steering.settings.lockCount ≤ s.steering.lockRun c) :
    s.lockTest c =
      (s.modSteering fun v =>
        { v.count (fun n => { n with locks := n.locks + 1 }) with
          state := .locked, lockCount := 0, excursionCount := 0 }).latch .steeringState :=
  if_pos h

/-! ### The excursion tests (R95) -/

section Excursions

variable {s : State} {c : Int} (e : Ext)

theorem State.excursionTest_of_hard (h : s.steering.settings.ts < (c.natAbs : Int)) :
    s.excursionTest e c =
      (s.modSteering fun v =>
        { v.count (fun n => { n with hardExcursions := n.hardExcursions + 1 }) with
          excursionCount := 0 }).reportExcursion e true :=
  if_pos h

theorem State.excursionTest_of_short (hs : (c.natAbs : Int) ≤ s.steering.settings.ts)
    (hx : s.steering.settings.tx < (c.natAbs : Int))
    (h : s.steering.excursionCount + 1 < s.steering.settings.excursionCount) :
    s.excursionTest e c = s.modSteering fun v => { v with excursionCount := s.steering.excursionCount + 1 } :=
  (if_neg (Int.not_lt.mpr hs)).trans ((if_pos hx).trans (if_neg (Nat.not_le.mpr h)))

theorem State.excursionTest_of_reached (hs : (c.natAbs : Int) ≤ s.steering.settings.ts)
    (hx : s.steering.settings.tx < (c.natAbs : Int))
    (h : s.steering.settings.excursionCount ≤ s.steering.excursionCount + 1) :
    s.excursionTest e c =
      (s.modSteering fun v =>
        { v.count (fun n => { n with excursions := n.excursions + 1 }) with
          excursionCount := 0 }).reportExcursion e false :=
  (if_neg (Int.not_lt.mpr hs)).trans ((if_pos hx).trans (if_pos h))

theorem State.excursionTest_of_within (hs : (c.natAbs : Int) ≤ s.steering.settings.ts)
    (hx : (c.natAbs : Int) ≤ s.steering.settings.tx) :
    s.excursionTest e c = s.modSteering fun v => { v with excursionCount := 0 } :=
  (if_neg (Int.not_lt.mpr hs)).trans (if_neg (Int.not_lt.mpr hx))

end Excursions

/-! ### The event of the steered source (R92 to R96) -/

section Processed

variable {s : State} {ev : PhaseEvent} {rest : List PhaseEvent} {c x : Int}

/-- What an event that is processed and decides no step leaves before the tests of its state: the event taken and
counted, the rate word handed (R90, R92, R93). -/
def State.loopRun (s : State) (ev : PhaseEvent) (rest : List PhaseEvent) (c : Int) : State :=
  ((s.goodEventTaken rest).counted ev.source).filtered c

theorem exec_phaseEvent_of_acquire (hsel : s.flight.selections = []) (hev : s.flight.goodEvents = ev :: rest)
    (hgood : ev.validity = .good c x) (hsteer : s.steering.steered = some ev.source)
    (hpend : s.steering.pendingStep = none) (hst : s.steering.state = .acquire)
    (hno : ¬(s.steering.options.stepPermit = true ∧ s.steering.settings.ts < (x.natAbs : Int))) :
    exec .steeringPhaseEvent s = .next ((s.loopRun ev rest c).lockTest c) := by
  have hp : (s.goodEventTaken rest).steering.processes ev.source = true :=
    Steering.processes_iff.mpr ⟨.inl hst, hsteer, hpend⟩
  have hd : ¬(s.goodEventTaken rest).steering.decidesStep x = true := fun hd =>
    hno (Steering.decidesStep_iff.mp hd).2
  rw [exec_steeringPhaseEvent hsel hev hgood, State.takeGoodEvent_of_processes hp hd,
    State.steer_of_acquire (by exact hst)]
  rfl

theorem exec_phaseEvent_of_locked (hsel : s.flight.selections = []) (hev : s.flight.goodEvents = ev :: rest)
    (hgood : ev.validity = .good c x) (hsteer : s.steering.steered = some ev.source)
    (hpend : s.steering.pendingStep = none) (hst : s.steering.state = .locked) :
    exec .steeringPhaseEvent s = .next (((s.loopRun ev rest c).excursionTest ev.source c).modSteering fun v =>
      { v with
        ring := pushBounded ringDepth v.ring (handedWord s.timebase.rateLimit (s.steering.filter c).1) }) := by
  have hp : (s.goodEventTaken rest).steering.processes ev.source = true :=
    Steering.processes_iff.mpr ⟨.inr hst, hsteer, hpend⟩
  have hd : ¬(s.goodEventTaken rest).steering.decidesStep x = true := fun hd =>
    SteeringState.noConfusion (hst.symm.trans (Steering.decidesStep_iff.mp hd).1)
  rw [exec_steeringPhaseEvent hsel hev hgood, State.takeGoodEvent_of_processes hp hd,
    State.steer_of_locked (by exact hst)]
  rfl

end Processed

/-- Settles O37: the filter's rounding, then an event by what the unit makes of it, test by test. -/
theorem goodEventsProcessed : Obligations.GoodEventsProcessed := by
  unfold Obligations.GoodEventsProcessed
  refine ⟨⟨fun e => ⟨rateUnits_neg e, rateUnits_near⟩, ?_⟩, ?_⟩
  · intro s ev rest c x hsel hev hgood v g hsteer hpend shifts er sum candidate limit word within n w result
    have hfilter : v.filter c = (candidate, sum) := v.filter_eq c
    have hrun : s.loopRun ev rest c = { s with
        steering := { w with counters := n }
        flight := { s.flight with goodEvents := rest, rateWords := s.flight.rateWords ++ [word] } } :=
      State.filtered_eq (by exact hfilter)
    constructor
    · intro hst hno run
      have h := exec_phaseEvent_of_acquire hsel hev hgood hsteer hpend hst hno
      rw [hrun] at h
      refine ⟨fun hl => h.trans ?_, fun hl => h.trans ?_⟩
      · rw [State.lockTest_of_short (by exact hl)]
        simp only [List.append_nil]
        rfl
      · rw [State.lockTest_of_reached (by exact hl)]
        simp only [List.append_nil]
        rfl
    · intro hst ring
      have h := exec_phaseEvent_of_locked hsel hev hgood hsteer hpend hst
      rw [hrun, show s.steering.filter c = (candidate, sum) from hfilter] at h
      refine ⟨fun hs => h.trans ?_, fun hs hx => ⟨fun hl => h.trans ?_, fun hl => h.trans ?_⟩,
        fun hs hx => h.trans ?_⟩
      · rw [State.excursionTest_of_hard _ (by exact hs)]
        simp only [List.append_nil]
        rfl
      · rw [State.excursionTest_of_short _ (by exact hs) (by exact hx) (by exact hl)]
        simp only [List.append_nil]
        rfl
      · rw [State.excursionTest_of_reached _ (by exact hs) (by exact hx) (by exact hl)]
        simp only [List.append_nil]
        rfl
      · rw [State.excursionTest_of_within _ (by exact hs) (by exact hx)]
        simp only [List.append_nil]
        rfl
  · intro s ev rest c x hsel hev hgood v
    rw [exec_steeringPhaseEvent hsel hev hgood]
    refine ⟨fun hst hsteer hpend hp hx => ?_, fun h => ?_⟩
    · have hproc : (s.goodEventTaken rest).steering.processes ev.source = true :=
        Steering.processes_iff.mpr ⟨.inl hst, hsteer, hpend⟩
      have hstep : (s.goodEventTaken rest).steering.decidesStep x = true :=
        Steering.decidesStep_iff.mpr ⟨hst, hp, hx⟩
      rw [State.takeGoodEvent_of_decidesStep hproc hstep]
      rfl
    · have hproc : (s.goodEventTaken rest).steering.processes ev.source = false :=
        Steering.processes_eq_false_iff.mpr h
      rw [State.takeGoodEvent_of_not_processes hproc]
      rfl

end Sys2Proof.Machine

/-! SUPPORT. The writes of the steering options, mask and settings, of the port maps, and of the epoch length (R89,
R106, R107, R115, R126, R178). -/

namespace Sys2Proof.Machine

open Sys2Proof.Config Sys2Proof.Safety

/-! ### Steering (R89, R106, R107) -/

/-- A numeric steering setting, from how it is stored and read. -/
theorem steeringSetting_numericWrite {s : State} {r : Running} {index bytes : Nat} {lo hi : Int}
    {f : Int → SteeringSettings → SteeringSettings} (hrow : ∀ value, writeRow 3 index value = .writeEntry)
    (hb : fieldWidth lo hi = bytes) (h0 : 0 ≤ lo) (hlh : lo ≤ hi)
    (hs : ∀ value, s.writeSteering index value =
      storeNum lo hi value fun m => s.modSteering fun t => { t with settings := f m t.settings })
    (hr : ∀ n : Nat, (s.modSteering fun t => { t with settings := f n t.settings }).readSteering index =
      some (beBytes bytes n))
    (hl : s.readSteering index ≠ none) :
    NumericWrite .writeEntry s r 3 index bytes lo hi fun m =>
      s.modSteering fun t => { t with settings := f m t.settings } := by
  refine numericWrite_of_storeNum (row := .writeEntry) rfl hrow (by omega) hl hb hlh hs fun m hm _ => ?_
  lift m to Nat using h0.trans hm
  rw [if_neg (Int.not_lt.mpr h0)]
  exact hr m

/-- The byte of a set of options below 8 reads back as it was written (R168). -/
theorem one_code_stepOptionsOf {b : Byte} (h : b.toNat < 8) : one (stepOptionsOf b).code = [b] := by
  obtain ⟨n, hn, rfl⟩ : ∃ n < 8, b = BitVec.ofNat 8 n := ⟨b.toNat, h, by simp⟩
  interval_cases n <;> rfl

/-- A set of options is one of the eight bytes that name no more than the three (R89). -/
theorem stepOptions_enumWrite {s : State} {r : Running} {index : Nat} {store : StepOptions → State}
    (hrow : ∀ value, writeRow 3 index value = .steeringOptions) (hl : s.readSteering index ≠ none)
    (hs : ∀ value, s.writeSteering index value = storeSet 3 value fun b => store (stepOptionsOf b))
    (hr : ∀ o, (store o).readSteering index = some (one o.code)) :
    EnumWrite .steeringOptionsWrite s r 3 index 8 fun b => store (stepOptionsOf b) := by
  refine enumWrite_of_storeEnum (row := .steeringOptions) rfl hrow (by omega) hl
    (fun value => (hs value).trans (storeSet_eq_storeEnum 3 value _)) fun b hb => ?_
  exact (hr _).trans (congrArg some (one_code_stepOptionsOf hb))

/-! ### Port maps (R115) -/

/-- The bank of a number (R116). -/
def bankName (bank : Fin 2) : BankName :=
  if bank.val = 0 then .a else .b

theorem mapIndex_map (bank : Fin 2) (p : Port) :
    mapIndex (256 * bank.val + 8 + p.val) = some (bankName bank, p) := by
  revert bank p; decide

theorem Bank.read_map (k : Bank) (p : Port) : k.read (8 + p.val) = some (mapRead k.maps[p]) := by
  rw [Bank.read, if_neg (by omega), if_neg (by omega), dif_pos (by omega), mapBytes_eq_mapRead]
  simp

theorem State.readPlans_map (s : State) (bank : Fin 2) (p : Port) :
    s.readPlans (256 * bank.val + 8 + p.val) = some (mapRead (s.plans.bank (bankName bank)).maps[p]) := by
  fin_cases bank
  · refine (if_pos (by dsimp only; omega)).trans ?_
    have h : 256 * 0 + 8 + p.val = 8 + p.val := by omega
    exact (congrArg s.plans.a.read h).trans (s.plans.a.read_map p)
  · refine (if_neg (by dsimp only; omega)).trans ((if_pos (by dsimp only; omega)).trans ?_)
    have h : 256 * 1 + 8 + p.val - 256 = 8 + p.val := by omega
    exact (congrArg s.plans.b.read h).trans (s.plans.b.read_map p)

theorem PlanStore.modBank_bank (p : PlanStore) (nm : BankName) (f : Bank → Bank) :
    (p.modBank nm f).bank nm = f (p.bank nm) := by
  cases nm <;> rfl

/-- A map stored reads back (R115, R116). -/
theorem State.readPlans_stored (s : State) (bank : Fin 2) (p : Port) (map : List SlotEntry) :
    State.readPlans
      { s with plans := s.plans.modBank (bankName bank) fun k => { k with maps := k.maps.set p map } }
      (256 * bank.val + 8 + p.val) = some (mapRead map) := by
  rw [State.readPlans_map, PlanStore.modBank_bank]
  simp

theorem slotEntryOf_eq_some {b : Byte} {e : SlotEntry} : slotEntryOf b = some e ↔ b = BitVec.ofNat 8 e.code := by
  unfold slotEntryOf
  constructor
  · intro h
    split at h <;> cases h <;> exact BitVec.eq_of_toNat_eq (by assumption)
  · rintro rfl
    cases e <;> rfl

theorem slotEntries_eq {bs : List Byte} (h : ∀ b ∈ bs, (slotEntryOf b).isSome = true) :
    (bs.filterMap slotEntryOf).map (fun e => BitVec.ofNat 8 e.code) = bs := by
  induction bs with
  | nil => rfl
  | cons b bs ih =>
    obtain ⟨hb, hbs⟩ := List.forall_mem_cons.mp h
    obtain ⟨e, he⟩ := Option.isSome_iff_exists.mp hb
    rw [List.filterMap_cons_some he, List.map_cons, ih hbs, ← slotEntryOf_eq_some.mp he]

/-- A value carries a map exactly when it is the count byte of forty and forty slot entries (R115). -/
theorem readMap_eq_some {value : List Byte} {map : List SlotEntry} : readMap value = some map ↔
    map.length = 40 ∧ value = 40#8 :: map.map fun e => BitVec.ofNat 8 e.code := by
  constructor
  · intro h
    unfold readMap at h
    split at h
    · cases h
    · next n bs =>
      split_ifs at h with hn
      obtain ⟨rfl, hl, hall⟩ := hn
      cases h
      have hbs := slotEntries_eq (List.all_eq_true.mp hall)
      refine ⟨?_, by rw [hbs]⟩
      rw [← List.length_map (f := fun e : SlotEntry => BitVec.ofNat 8 e.code), hbs, hl]
  · rintro ⟨hl, rfl⟩
    have hf : slotEntryOf ∘ (fun e : SlotEntry => BitVec.ofNat 8 e.code) = some :=
      funext fun e => slotEntryOf_eq_some.mpr rfl
    have hm : (map.map fun e => BitVec.ofNat 8 e.code).filterMap slotEntryOf = map := by
      rw [List.filterMap_map, hf, List.filterMap_some]
    refine (if_pos ⟨rfl, by rw [List.length_map, hl], ?_⟩).trans (congrArg some hm)
    exact List.all_eq_true.mpr fun b hb => by
      obtain ⟨e, -, rfl⟩ := List.mem_map.mp hb
      rw [slotEntryOf_eq_some.mpr rfl]
      rfl

/-- A permitted write of a map comes to what the bank and the value allow (R115). -/
theorem exec_portMapWrite {s : State} {r : Running} {bank : Fin 2} {p : Port} {value : List Byte}
    (hr : Runs s r (.writeEntry 5 (256 * bank.val + 8 + p.val) value))
    (hp : Permitted s r 5 (256 * bank.val + 8 + p.val)) :
    exec .portMapWrite s = .next
      (match s.writeMap (bankName bank) p value with
      | .readOnly => s.respond r .refused []
      | .refuse st => s.respond r st []
      | .store t clamped =>
        t.respond r (if clamped then .okClamped else .ok) (t.valueAt 5 (256 * bank.val + 8 + p.val))) := by
  have hrow : writeRow 5 (256 * bank.val + 8 + p.val) value = .portMap := by
    rw [writeRow, mapIndex_map]
    rfl
  have hl : s.readEntry 5 (256 * bank.val + 8 + p.val) 0 ≠ none := by
    rw [State.readEntry, s.readPlans_map bank p]
    exact Option.some_ne_none _
  have hs : s.storeEntry 5 (256 * bank.val + 8 + p.val) value = s.writeMap (bankName bank) p value := by
    rw [State.storeEntry, State.writePlans, mapIndex_map]
  have h : exec .portMapWrite s = .next (s.runWriteEntry r 5 (256 * bank.val + 8 + p.val) value) :=
    congrArg Host.Outcome.next (State.writeAs_of_runs hr hrow)
  rw [h, State.runWriteEntry_of_mayWrite (mayWrite_of_permitted hp) (by omega) hl, hs]
  rfl

theorem epoch_numericWrite (s : State) (r : Running) :
    NumericWrite .epochLengthWrite s r 5 512 2 1 3600
      fun m => { s with cycleTimer := { s.cycleTimer with epoch := m.toNat } } := by
  refine numericWrite_of_storeNum (row := .epochLength) rfl (fun _ => rfl) (by omega) (Option.some_ne_none _)
    (by decide) (by omega) s.writePlans_epoch fun m h0 _ => ?_
  lift m to Nat using by omega
  exact congrArg some (encField_natCast ..)

/-- Settles O42: the steering entries one by one, then a map by its bank's role and value, then the epoch. -/
theorem optionsMapsAndEpochWritten : Obligations.OptionsMapsAndEpochWritten := by
  unfold Obligations.OptionsMapsAndEpochWritten
  refine ⟨fun s r => ?_, ?_, epoch_numericWrite⟩
  · intro options set numeric
    refine ⟨?_, ?_, ?_, ?_, ?_, ?_, ?_, ?_, ?_, ?_, ?_, ?_, ?_⟩
    · exact stepOptions_enumWrite (store := fun o => s.modSteering fun t => { t with options := o })
        (fun _ => rfl) (Option.some_ne_none _) (fun _ => rfl) fun _ => rfl
    · exact stepOptions_enumWrite (store := fun o => s.modSteering fun t => { t with mask := o })
        (fun _ => rfl) (Option.some_ne_none _) (fun _ => rfl) fun _ => rfl
    · exact steeringSetting_numericWrite (f := fun m c => { c with ts := m }) (fun _ => rfl) (by decide)
        (by omega) (by omega) (fun _ => rfl) (fun _ => congrArg some (encField_natCast ..)) (Option.some_ne_none _)
    · exact steeringSetting_numericWrite (f := fun m c => { c with tl := m }) (fun _ => rfl) (by decide)
        (by omega) (by omega) (fun _ => rfl) (fun _ => congrArg some (encField_natCast ..)) (Option.some_ne_none _)
    · exact steeringSetting_numericWrite (f := fun m c => { c with lockCount := m.toNat }) (fun _ => rfl)
        (by decide) (by omega) (by omega) (fun _ => rfl) (fun _ => congrArg some (one_eq_beBytes _))
        (Option.some_ne_none _)
    · exact steeringSetting_numericWrite (f := fun m c => { c with tx := m }) (fun _ => rfl) (by decide)
        (by omega) (by omega) (fun _ => rfl) (fun _ => congrArg some (encField_natCast ..)) (Option.some_ne_none _)
    · exact steeringSetting_numericWrite (f := fun m c => { c with excursionCount := m.toNat }) (fun _ => rfl)
        (by decide) (by omega) (by omega) (fun _ => rfl) (fun _ => congrArg some (one_eq_beBytes _))
        (Option.some_ne_none _)
    · exact steeringSetting_numericWrite (f := fun m c => { c with pa := m.toNat }) (fun _ => rfl)
        (by decide) (by omega) (by omega) (fun _ => rfl) (fun _ => congrArg some (one_eq_beBytes _))
        (Option.some_ne_none _)
    · exact steeringSetting_numericWrite (f := fun m c => { c with ia := m.toNat }) (fun _ => rfl)
        (by decide) (by omega) (by omega) (fun _ => rfl) (fun _ => congrArg some (one_eq_beBytes _))
        (Option.some_ne_none _)
    · exact steeringSetting_numericWrite (f := fun m c => { c with pt := m.toNat }) (fun _ => rfl)
        (by decide) (by omega) (by omega) (fun _ => rfl) (fun _ => congrArg some (one_eq_beBytes _))
        (Option.some_ne_none _)
    · exact steeringSetting_numericWrite (f := fun m c => { c with it := m.toNat }) (fun _ => rfl)
        (by decide) (by omega) (by omega) (fun _ => rfl) (fun _ => congrArg some (one_eq_beBytes _))
        (Option.some_ne_none _)
    · exact steeringSetting_numericWrite (f := fun m c => { c with holdoverStep := m.toNat }) (fun _ => rfl)
        (by decide) (by omega) (by omega) (fun _ => rfl) (fun _ => congrArg some (encField_natCast ..))
        (Option.some_ne_none _)
    · exact steeringSetting_numericWrite (f := fun m c => { c with holdoverLimit := m.toNat }) (fun _ => rfl)
        (by decide) (by omega) (by omega) (fun _ => rfl) (fun _ => congrArg some (encField_natCast ..))
        (Option.some_ne_none _)
  · intro s r bank p value index nm carries hr hp
    rw [exec_portMapWrite hr hp, State.writeMap]
    refine ⟨fun hrole => ?_, fun hrole hno => ?_, fun map hrole hmap => ?_⟩
    · rw [if_pos (by exact hrole)]
    · have hnone : readMap value = none := by
        rw [Option.eq_none_iff_forall_ne_some]
        exact fun map h => hno map (readMap_eq_some.mp h)
      rw [if_neg (not_not.mpr (by exact hrole)), hnone]
    · rw [if_neg (not_not.mpr (by exact hrole)), readMap_eq_some.mpr hmap]
      have hvalue : mapRead map = value := by
        obtain ⟨hl, hv⟩ := hmap
        rw [hv, mapRead, hl]
        rfl
      have hread : State.valueAt { s with plans := s.plans.modBank nm fun k => { k with maps := k.maps.set p map } }
          5 index = value := by
        rw [← hvalue]
        exact congrArg (Option.getD · []) (s.readPlans_stored bank p map)
      exact congrArg (fun v => Host.Outcome.next (State.respond _ r .ok v)) hread

end Sys2Proof.Machine

/-! SUPPORT. What serving a plan reads of the part (the plan store, the ports, the events on their way to them), and
the updates that leave all of it alone (R114 to R135). -/

namespace Sys2Proof.Machine

open Sys2Proof.Config Sys2Proof.Safety

/-- What serving a plan reads of the part: the plan store, the ports, and the events on their way to the ports. -/
structure Dispatch where
  plans : PlanStore
  ports : Vector PortUnit 6
  toPort : Vector (List PortEvent) 6

def State.dispatch (s : State) : Dispatch where
  plans := s.plans
  ports := s.ports
  toPort := s.flight.toPort

/-! ### The updates of one block -/

section Updates

variable {s : State}

/-- A change of the events in flight that keeps those on their way to the ports. -/
@[simp] theorem State.modFlight_dispatch {f : Flight → Flight}
    (h : (f s.flight).toPort = s.flight.toPort) : (s.modFlight f).dispatch = s.dispatch := by
  unfold State.dispatch
  rw [State.modFlight_flight, h]
  rfl

variable (s)

@[simp] theorem State.modInput_dispatch (u : InUnit) (f : InputUnit → InputUnit) :
    (s.modInput u f).dispatch = s.dispatch := rfl

@[simp] theorem State.modUplink_dispatch (u : UpUnit) (f : UplinkUnit → UplinkUnit) :
    (s.modUplink u f).dispatch = s.dispatch := rfl

@[simp] theorem State.modEntry_dispatch (e : Ext) (f : SourceEntry → SourceEntry) :
    (s.modEntry e f).dispatch = s.dispatch := rfl

@[simp] theorem State.modSelector_dispatch (f : Selector → Selector) :
    (s.modSelector f).dispatch = s.dispatch := rfl

@[simp] theorem State.modSteering_dispatch (f : Steering → Steering) :
    (s.modSteering f).dispatch = s.dispatch := rfl

@[simp] theorem State.modPulse_dispatch (k : PulseOut) (f : PulseUnit → PulseUnit) :
    (s.modPulse k f).dispatch = s.dispatch := rfl

@[simp] theorem State.modCoded_dispatch (m : CodedOut) (f : CodedUnit → CodedUnit) :
    (s.modCoded m f).dispatch = s.dispatch := rfl

@[simp] theorem State.modLink_dispatch (l : Link) (f : LinkUnit → LinkUnit) :
    (s.modLink l f).dispatch = s.dispatch := rfl

@[simp] theorem State.modNotice_dispatch (l : Link) (f : NoticeLink → NoticeLink) :
    (s.modNotice l f).dispatch = s.dispatch := rfl

@[simp] theorem State.logFault_dispatch (b : FaultOrigin) (c e d : Nat) :
    (s.logFault b c e d).dispatch = s.dispatch := rfl

@[simp] theorem State.latch_dispatch (c : NoticeClass) : (s.latch c).dispatch = s.dispatch := rfl

@[simp] theorem State.toSelector_dispatch (e : Ext) (v : UnitEvent) :
    (s.toSelector e v).dispatch = s.dispatch := rfl

@[simp] theorem State.handRate_dispatch (w : Int) : (s.handRate w).dispatch = s.dispatch := rfl

@[simp] theorem State.portReport_dispatch (p : Port) (r : PortReport) :
    (s.portReport p r).dispatch = s.dispatch := rfl

@[simp] theorem State.respond_dispatch (r : Running) (st : Status) (b : List Byte) :
    (s.respond r st b).dispatch = s.dispatch := rfl

end Updates

end Sys2Proof.Machine

/-! SUPPORT. What leaves the plan store, the ports and the events on their way to them alone (R114 to R135): every
operation of the other blocks, chapter by chapter. -/

namespace Sys2Proof.Machine

open Sys2Proof.Config Sys2Proof.Safety

section DispatchFrame

variable (s : State)

/-! ### Answers of the executor -/

@[simp] theorem State.answer_dispatch (r : Running) (st : Status) : (s.answer r st).dispatch = s.dispatch := rfl

/-- A checked write moves what serving a plan reads only as its continuation does. -/
theorem State.checkedWrite_dispatch {s : State} {r : Running} {sect index : Nat} {k : State}
    (hk : k.dispatch = s.dispatch) : (s.checkedWrite r sect index k).dispatch = s.dispatch := by
  rcases s.checkedWrite_cases r sect index k with ⟨-, h⟩ | ⟨-, -, h⟩ | ⟨-, h⟩ <;> simp [h, hk]

/-- A row of the executor keeps what serving a plan reads when every command it accepts does. -/
theorem State.onCommand_dispatch {s : State} {f : Running → Command → Option State}
    (hf : ∀ r c t, f r c = some t → t.dispatch = s.dispatch) : (s.onCommand f).dispatch = s.dispatch := by
  rcases s.onCommand_cases f with h | ⟨r, t, -, h, h'⟩
  · rw [h]
  · rw [h', hf r _ t h]

/-! ### Input units (chapter 2) -/

@[simp] theorem State.followScale_dispatch (e : Ext) : (s.followScale e).dispatch = s.dispatch := by
  unfold State.followScale; split <;> rfl

@[simp] theorem State.formPair_dispatch (u : InUnit) (tod : TimeOfDay) (c : Stamp) :
    (s.formPair u tod c).dispatch = s.dispatch := by
  unfold State.formPair; dsimp only; split <;> simp

@[simp] theorem unpaired_dispatch (u : InUnit) : (unpaired s u).dispatch = s.dispatch := by
  unfold unpaired; dsimp only; split <;> rfl

@[simp] theorem State.emitUnpaired_dispatch (u : InUnit) : (s.emitUnpaired u).dispatch = s.dispatch := by
  simp [State.emitUnpaired_eq]

@[simp] theorem State.settleHeld_dispatch (u : InUnit) (now : Stamp) :
    (s.settleHeld u now).dispatch = s.dispatch := by
  unfold State.settleHeld; split <;> simp

@[simp] theorem State.orphan_dispatch (u : InUnit) : (s.orphan u).dispatch = s.dispatch := rfl

@[simp] theorem State.pairPulse_dispatch (u : InUnit) (c : Stamp) : (s.pairPulse u c).dispatch = s.dispatch := by
  unfold State.pairPulse
  split
  · simp
  · split <;> simp

@[simp] theorem State.pairSentence_dispatch (u : InUnit) (tod : TimeOfDay) (now : Stamp) :
    (s.pairSentence u tod now).dispatch = s.dispatch := by
  unfold State.pairSentence
  dsimp only
  split
  · split <;> simp
  · simp

@[simp] theorem State.acceptPulse_dispatch (u : InUnit) (c : Stamp) (n : Count) :
    (s.acceptPulse u c n).dispatch = s.dispatch := by
  simp [State.acceptPulse]

@[simp] theorem State.pulse_dispatch (u : InUnit) (c : Stamp) : (s.pulse u c).dispatch = s.dispatch := by
  unfold State.pulse
  dsimp only
  split
  · simp
  · simp
  · split <;> simp

@[simp] theorem State.miss_dispatch (u : InUnit) : (s.miss u).dispatch = s.dispatch := rfl

/-! ### Source selector (chapter 4) -/

@[simp] theorem State.modInputOf_dispatch (e : Ext) (f : InputUnit → InputUnit) :
    (s.modInputOf e f).dispatch = s.dispatch := by
  unfold State.modInputOf; split <;> rfl

@[simp] theorem State.modUplinkOf_dispatch (e : Ext) (f : UplinkUnit → UplinkUnit) :
    (s.modUplinkOf e f).dispatch = s.dispatch := by
  unfold State.modUplinkOf; split <;> rfl

@[simp] theorem State.selectSource_dispatch (i : Source) : (s.selectSource i).dispatch = s.dispatch := by
  rw [State.selectSource_eq]; split <;> rfl

@[simp] theorem State.push_dispatch (e : Ext) (c : Cause) : (s.push e c).dispatch = s.dispatch := rfl

@[simp] theorem State.maskOptions_dispatch : s.maskOptions.dispatch = s.dispatch := rfl

@[simp] theorem State.failureSwitch_dispatch : s.failureSwitch.dispatch = s.dispatch := by
  simp [State.failureSwitch]

@[simp] theorem State.leaveTrial_dispatch (e : Ext) : (s.leaveTrial e).dispatch = s.dispatch := by
  simp [State.leaveTrial]

@[simp] theorem State.faultEntry_dispatch (e : Ext) (c : Cause) : (s.faultEntry e c).dispatch = s.dispatch := by
  unfold State.faultEntry; dsimp only; split <;> simp

@[simp] theorem State.revertTest_dispatch (n : Nat) : (s.revertTest n).dispatch = s.dispatch :=
  State.revertTest_induct (P := fun v => v.dispatch = s.dispatch) s n rfl
    (fun _ _ _ h _ _ => h) (fun v t _ h _ _ _ => (v.selectSource_dispatch (toSource t.source)).trans h)

@[simp] theorem State.revert_dispatch : s.revert.dispatch = s.dispatch :=
  s.revertTest_dispatch _

@[simp] theorem State.upgradeTest_dispatch : s.upgradeTest.dispatch = s.dispatch := by
  rcases s.upgradeTest_cases with h | ⟨b, -, -, h⟩ <;> simp [h]

/-- A change that may move an effective class moves what serving a plan reads only as the change itself does. -/
theorem State.withClassChange_dispatch {s : State} {e : Ext} {f : State → State}
    (hf : (f s).dispatch = s.dispatch) : (s.withClassChange e f).dispatch = s.dispatch := by
  rcases s.withClassChange_cases e f with h | h <;> simp [h, hf]

@[simp] theorem State.enterTrial_dispatch (e : Ext) (b : Bool) : (s.enterTrial e b).dispatch = s.dispatch := by
  simp [State.enterTrial]

@[simp] theorem State.becomeUsable_dispatch (e : Ext) : (s.becomeUsable e).dispatch = s.dispatch := by
  unfold State.becomeUsable
  dsimp only
  split_ifs <;> simp

@[simp] theorem State.heardReport_dispatch (e : Ext) (k : ReportKind) :
    (s.heardReport e k).dispatch = s.dispatch := by
  unfold State.heardReport
  cases k with
  | accepted => rfl
  | stray => rfl
  | miss => dsimp only; split_ifs <;> simp

@[simp] theorem State.takeReport_dispatch (e : Ext) (k : ReportKind) :
    (s.takeReport e k).dispatch = s.dispatch := by
  unfold State.takeReport; split <;> simp

@[simp] theorem State.takeGood_dispatch (e : Ext) (c : Int) : (s.takeGood e c).dispatch = s.dispatch := by
  unfold State.takeGood
  dsimp only
  split
  · split_ifs <;> simp
  · simp

@[simp] theorem State.takeBad_dispatch (e : Ext) (c : BadCause) : (s.takeBad e c).dispatch = s.dispatch := by
  unfold State.takeBad; dsimp only; split <;> simp

@[simp] theorem State.takePhase_dispatch (e : Ext) (ev : PhaseEvent) :
    (s.takePhase e ev).dispatch = s.dispatch := by
  unfold State.takePhase
  split
  · rfl
  · dsimp only
    generalize hv : (if s.selector.entries[e].state = .absent then s.enterTrial e false else s) = v
    have h : v.dispatch = s.dispatch := by
      rw [← hv]; split <;> simp
    split
    · simp [h]
    · split <;> simp [h]

@[simp] theorem State.enableSource_dispatch (e : Ext) : (s.enableSource e).dispatch = s.dispatch := by
  unfold State.enableSource; split <;> simp

@[simp] theorem State.switchOff_dispatch (e : Ext) : (s.switchOff e).dispatch = s.dispatch := by
  unfold State.switchOff; dsimp only; split <;> simp

@[simp] theorem State.disableSource_dispatch (e : Ext) : (s.disableSource e).dispatch = s.dispatch := by
  have hj : (s.withClassChange e fun t => t.switchOff e).dispatch = s.dispatch :=
    State.withClassChange_dispatch (s.switchOff_dispatch e)
  unfold State.disableSource
  dsimp only
  split_ifs <;> simp [hj]

@[simp] theorem State.countTimers_dispatch (e : Ext) : (s.countTimers e).dispatch = s.dispatch := by
  unfold State.countTimers
  dsimp only
  split
  · split
    · split <;> simp
    · rfl
  · simp
  · rfl

/-- A fold of operations that each keep what serving a plan reads keeps it. -/
theorem foldl_dispatch {α : Type} {f : State → α → State} (hf : ∀ v a, (f v a).dispatch = v.dispatch)
    (l : List α) (s : State) : (l.foldl f s).dispatch = s.dispatch := by
  induction l generalizing s with
  | nil => rfl
  | cons a l ih => rw [List.foldl_cons, ih, hf]

@[simp] theorem State.selectorCycle_dispatch : s.selectorCycle.dispatch = s.dispatch := by
  unfold State.selectorCycle
  split
  · rfl
  · simp [foldl_dispatch State.countTimers_dispatch]

@[simp] theorem State.manualSwitch_dispatch (i : Source) : (s.manualSwitch i).dispatch = s.dispatch := by
  unfold State.manualSwitch; split <;> simp

@[simp] theorem State.runSwitchSource_dispatch (r : Running) (n : Nat) :
    (s.runSwitchSource r n).dispatch = s.dispatch := by
  refine State.checkedWrite_dispatch ?_
  split
  · dsimp only
    split
    · rfl
    · split_ifs <;> simp
  · rfl

@[simp] theorem State.runDiscardFallback_dispatch (r : Running) :
    (s.runDiscardFallback r).dispatch = s.dispatch := by
  refine State.checkedWrite_dispatch ?_
  split <;> simp

/-! ### Serial lines (chapter 2) and uplink units (chapter 3) -/

@[simp] theorem State.takeDescriptor_dispatch (u : InUnit) (body : List Byte) :
    (s.takeDescriptor u body).dispatch = s.dispatch := by
  unfold State.takeDescriptor
  split
  · rfl
  · exact State.withClassChange_dispatch rfl

@[simp] theorem State.sentence_dispatch (u : InUnit) (k : Byte) (n : Nat) (body : List Byte) (c : Byte)
    (now : Stamp) : (s.sentence u k n body c now).dispatch = s.dispatch := by
  unfold State.sentence; dsimp only; split_ifs <;> simp

@[simp] theorem State.deliver_dispatch (u : InUnit) (c : Byte) (now : Stamp) :
    (s.deliver u c now).dispatch = s.dispatch := by
  unfold State.deliver; split <;> simp

@[simp] theorem State.release_dispatch (u : UpUnit) (t1 t2 : Stamp) :
    (s.release u t1 t2).dispatch = s.dispatch := rfl

@[simp] theorem State.confirm_dispatch (u : UpUnit) (m : MarkFields) (t1 t2 : Stamp) :
    (s.confirm u m t1 t2).dispatch = s.dispatch := by
  unfold State.confirm
  split
  · simp
  · simp
  · split
    · rfl
    · dsimp only; split <;> simp
  · rfl

@[simp] theorem State.takeMark_dispatch (u : UpUnit) (m : MarkFields) (a : Stamp) :
    (s.takeMark u m a).dispatch = s.dispatch := by
  simp [State.takeMark]

@[simp] theorem State.takeUpstream_dispatch (u : UpUnit) (c : Nat) (sc : Int) :
    (s.takeUpstream u c sc).dispatch = s.dispatch := by
  unfold State.takeUpstream
  rw [State.followScale_dispatch]
  exact State.withClassChange_dispatch rfl

@[simp] theorem State.uplinkCycle_dispatch (u : UpUnit) (n : Nat) (d : Stamp) :
    (s.uplinkCycle u n d).dispatch = s.dispatch := by
  unfold State.uplinkCycle
  dsimp only
  split
  · split <;> rfl
  · rfl

@[simp] theorem State.takeUplinkCycle_dispatch (u : UpUnit) : (s.takeUplinkCycle u).dispatch = s.dispatch := by
  unfold State.takeUplinkCycle; split <;> simp

/-! ### Steering unit (chapter 5) -/

@[simp] theorem State.requestStep_dispatch (e : Ext) (d : Int) : (s.requestStep e d).dispatch = s.dispatch := rfl

@[simp] theorem State.lockTest_dispatch (c : Int) : (s.lockTest c).dispatch = s.dispatch := by
  unfold State.lockTest; dsimp only; split_ifs <;> rfl

@[simp] theorem State.reportExcursion_dispatch (e : Ext) (h : Bool) :
    (s.reportExcursion e h).dispatch = s.dispatch := rfl

@[simp] theorem State.excursionTest_dispatch (e : Ext) (c : Int) :
    (s.excursionTest e c).dispatch = s.dispatch := by
  unfold State.excursionTest; dsimp only; split_ifs <;> rfl

@[simp] theorem State.steer_dispatch (e : Ext) (c : Int) : (s.steer e c).dispatch = s.dispatch := by
  unfold State.steer; dsimp only; split <;> simp

@[simp] theorem State.takeGoodEvent_dispatch (e : Ext) (c x : Int) :
    (s.takeGoodEvent e c x).dispatch = s.dispatch := by
  unfold State.takeGoodEvent; dsimp only; split_ifs <;> simp

@[simp] theorem State.takeStepAnnouncement_dispatch (o : StepOrigin) :
    (s.takeStepAnnouncement o).dispatch = s.dispatch := by
  unfold State.takeStepAnnouncement; dsimp only; split <;> rfl

@[simp] theorem State.acquireSource_dispatch (e : Ext) : (s.acquireSource e).dispatch = s.dispatch := by
  unfold State.acquireSource; dsimp only; split <;> rfl

@[simp] theorem State.leaveSource_dispatch : s.leaveSource.dispatch = s.dispatch := by
  unfold State.leaveSource
  split
  · rfl
  · dsimp only; split <;> rfl

@[simp] theorem State.ageHoldover_dispatch (n : Nat) : (s.ageHoldover n).dispatch = s.dispatch := by
  unfold State.ageHoldover; split_ifs <;> rfl

@[simp] theorem State.steeringCycle_dispatch : s.steeringCycle.dispatch = s.dispatch := by
  unfold State.steeringCycle; split <;> simp

/-! ### Management links and the executor's own commands (chapter 10) -/

@[simp] theorem State.badFrame_dispatch (l : Link) (tag : Byte) (st : Status) :
    (s.badFrame l tag st).dispatch = s.dispatch := by
  unfold State.badFrame; dsimp only; split <;> rfl

@[simp] theorem State.takeCommand_dispatch (l : Link) (f : List Byte) :
    (s.takeCommand l f).dispatch = s.dispatch := by
  unfold State.takeCommand
  split
  · simp
  · rfl

@[simp] theorem State.grant_dispatch (l : Link) : (s.grant l).dispatch = s.dispatch := by
  unfold State.grant
  split
  · rfl
  · exact (State.takeCommand_dispatch _ _ _).trans rfl

@[simp] theorem State.runReadEntry_dispatch (r : Running) (i j : Nat) (x : Elapsed) :
    (s.runReadEntry r i j x).dispatch = s.dispatch := by
  unfold State.runReadEntry
  split_ifs
  · rfl
  · rfl
  · split <;> rfl

@[simp] theorem State.runReadTime_dispatch (r : Running) (x : Elapsed) :
    (s.runReadTime r x).dispatch = s.dispatch := by
  unfold State.runReadTime; split <;> rfl

@[simp] theorem State.runLockAccess_dispatch (r : Running) : (s.runLockAccess r).dispatch = s.dispatch := by
  unfold State.runLockAccess; split_ifs <;> rfl

@[simp] theorem State.runLinkReset_dispatch (r : Running) : (s.runLinkReset r).dispatch = s.dispatch := rfl

/-! ### Notices (chapter 11) -/

@[simp] theorem State.mapNotice_dispatch (f : NoticeLink → NoticeLink) :
    (s.mapNotice f).dispatch = s.dispatch := rfl

@[simp] theorem State.judgeCycle_dispatch : s.judgeCycle.dispatch = s.dispatch := by
  unfold State.judgeCycle; split <;> rfl

@[simp] theorem State.noticeCycle_dispatch (n : Nat) : (s.noticeCycle n).dispatch = s.dispatch :=
  (State.judgeCycle_dispatch _).trans rfl

@[simp] theorem State.noticeSlot_dispatch (k : Nat) (b : Bool) : (s.noticeSlot k b).dispatch = s.dispatch := by
  simp [State.noticeSlot]

@[simp] theorem State.runTakeNotice_dispatch (r : Running) : (s.runTakeNotice r).dispatch = s.dispatch := by
  unfold State.runTakeNotice; dsimp only; split <;> rfl

@[simp] theorem State.runEndService_dispatch (r : Running) : (s.runEndService r).dispatch = s.dispatch := by
  unfold State.runEndService; split <;> rfl

@[simp] theorem State.runPeekFault_dispatch (r : Running) : (s.runPeekFault r).dispatch = s.dispatch := rfl

@[simp] theorem State.runPopFault_dispatch (r : Running) : (s.runPopFault r).dispatch = s.dispatch := rfl

@[simp] theorem State.runClearFaultOverflow_dispatch (r : Running) :
    (s.runClearFaultOverflow r).dispatch = s.dispatch := rfl

end DispatchFrame

/-! ### The cycle timer (R34) -/

section

variable (s : State)

@[simp] theorem State.countRequests_dispatch (u : InUnit) : (s.countRequests u).dispatch = s.dispatch := by
  unfold State.countRequests; split <;> rfl

/-! ### Entry writes (R178) -/

variable (value : List Byte)

theorem State.writeInput_dispatch (u : InUnit) (off : Nat) :
    (s.writeInput u off value).Forall fun t => t.dispatch = s.dispatch := by
  unfold State.writeInput; dsimp only; split <;> simp

theorem State.writeUplink_dispatch (u : UpUnit) (off : Nat) :
    (s.writeUplink u off value).Forall fun t => t.dispatch = s.dispatch := by
  unfold State.writeUplink; dsimp only; split <;> simp

theorem State.writeSource_dispatch (e : Ext) (off : Nat) :
    (s.writeSource e off value).Forall fun t => t.dispatch = s.dispatch := by
  have hc (n : Nat) : (s.setClass e n).dispatch = s.dispatch := State.withClassChange_dispatch rfl
  unfold State.writeSource
  split
  · rw [forall_storeEnum]
    intro b _ _
    split <;> simp
  · simp
  · simp [hc]
  · split <;> simp
  · simp
  · unfold State.writeUnit
    split
    · exact s.writeInput_dispatch value _ off
    · exact s.writeUplink_dispatch value _ off
    · trivial

theorem State.writeSources_dispatch (index : Nat) :
    (s.writeSources index value).Forall fun t => t.dispatch = s.dispatch := by
  have ha (on : Bool) : (s.setAutoUpgrade on).dispatch = s.dispatch := by
    unfold State.setAutoUpgrade; dsimp only; split <;> simp
  unfold State.writeSources
  split_ifs
  · exact s.writeSource_dispatch value _ _
  · trivial
  · unfold State.writeSelector; dsimp only; split <;> simp [ha]

theorem State.writeSteering_dispatch (index : Nat) :
    (s.writeSteering index value).Forall fun t => t.dispatch = s.dispatch := by
  unfold State.writeSteering; dsimp only; split <;> simp

theorem State.writeTimeSection_dispatch (index : Nat) :
    (s.writeTimeSection index value).Forall fun t => t.dispatch = s.dispatch := by
  unfold State.writeTimeSection
  split
  · exact forall_storeNum.mpr fun _ _ => rfl
  · exact forall_storeNum.mpr fun _ _ => rfl
  · trivial

theorem State.writeOutputs_dispatch (index : Nat) :
    (s.writeOutputs index value).Forall fun t => t.dispatch = s.dispatch := by
  unfold State.writeOutputs State.writePulse State.writeCoded
  split_ifs
  · split <;> simp
  · split <;> simp
  · trivial

theorem State.writeControl_dispatch (index : Nat) :
    (s.writeControl index value).Forall fun t => t.dispatch = s.dispatch := by
  unfold State.writeControl State.writeNotice
  split
  · split <;> simp
  · trivial

theorem State.writeAccess_dispatch (index : Nat) :
    (s.writeAccess index value).Forall fun t => t.dispatch = s.dispatch := by
  unfold State.writeAccess
  split_ifs
  · split
    · exact (Stored.forall_store _ _).mpr rfl
    · trivial
  · split
    · exact (Stored.forall_store _ _).mpr rfl
    · trivial
  · trivial

/-- Of the nine sections only PLANS and PORTS move what serving a plan reads. -/
theorem State.storeEntry_dispatch {sect : Nat} (hplans : sect ≠ 5) (hports : sect ≠ 6) (index : Nat) :
    (s.storeEntry sect index value).Forall fun t => t.dispatch = s.dispatch := by
  unfold State.storeEntry
  split
  · exact s.writeControl_dispatch value index
  · exact s.writeSources_dispatch value index
  · exact s.writeSteering_dispatch value index
  · exact s.writeTimeSection_dispatch value index
  · exact absurd rfl hplans
  · exact absurd rfl hports
  · exact s.writeOutputs_dispatch value index
  · exact s.writeAccess_dispatch value index
  · trivial

end

/-! ### The commands -/

/-- A command that may change the plan store, a port, or what is on its way to one: the rows of chapters 6 and 7,
ticks and steps, which may reach a departure's instant, an entry write, and the resets. -/
def movesDispatch : Instr → Bool
  | .cycleStart | .slotStart | .cycleCut | .armPlan | .disarmPlan => true
  | .portCycleStart _ | .answerEntryExpiry _ | .portSlotStart _ | .markDeparture _ _ | .replyDeparture _ _ _
  | .queryReceived _ _ _ | .portUnexpectedFrame _ _ | .portCut _ | .portLinkDown _ | .portLinkUp _
  | .clearPortFlags => true
  | .oscillatorTick | .stepRequestApplied _ | .stepTime _ => true
  | .rateLimitWrite | .pairingModeWrite | .autoRateArmWrite | .sourceEnable | .sourceDisable
  | .autoUpgradeWrite | .programmedClassWrite | .steeringOptionsWrite | .portMapWrite | .epochLengthWrite
  | .portEnable | .portDisable | .writeEntry | .accessTableWrite | .guardEntryWrite | .noticeMaskWrite
  | .nestModeWrite => true
  | .serviceReset _ | .powerOnReset _ _ _ => true
  | _ => false

/-- No other command changes them. -/
theorem exec_dispatch {c : Instr} {s t : State} (hc : movesDispatch c = false) (h : exec c s = .next t) :
    t.dispatch = s.dispatch := by
  cases c
  case cycleStart | slotStart | cycleCut | armPlan | disarmPlan | portCycleStart | answerEntryExpiry |
      portSlotStart | markDeparture | replyDeparture | queryReceived | portUnexpectedFrame | portCut |
      portLinkDown | portLinkUp | clearPortFlags | oscillatorTick | stepRequestApplied | stepTime |
      rateLimitWrite | pairingModeWrite | autoRateArmWrite | sourceEnable | sourceDisable | autoUpgradeWrite |
      programmedClassWrite | steeringOptionsWrite | portMapWrite | epochLengthWrite | portEnable |
      portDisable | writeEntry | accessTableWrite | guardEntryWrite | noticeMaskWrite | nestModeWrite |
      serviceReset | powerOnReset => cases hc
  case rateWordTaken =>
    simp only [exec, execRateWordTaken] at h
    split at h <;> cases h <;> rfl
  case readTime | switchSource | discardFallback | readEntry | lockAccess | linkReset | takeNotice |
      endService | peekFault | popFault | clearFaultOverflow =>
    cases h
    refine State.onCommand_dispatch fun r c t hf => ?_
    split at hf <;> cases hf
    simp
  -- rows without a branch of their own
  case pulseEdge | pairingWindowEnd | uplinkCycleStart | uplinkLinkDown | uplinkLinkUp | selectorCycleStart |
      steeringCycleStart | pulseFall | responseDelivered | commandFrameReceived | selectReleased =>
    cases h; simp
  -- rows that do nothing unless their event is there
  case autoRateMeasurement | breakDetected | breakEnd | codedDueTime | codedOutputStep |
      codedTransmissionDone | descriptorRequestDone | falseStart | faultOffered | framingError |
      holdoverExpiry | measuredLeadEnd | noticeCycleStart | noticeLatch | noticeSlotStart |
      pulseOutputStep | pulseRiseTime | pulseWindowMiss | queryLost |
      receiveFallingEdge | retryTimerExpiry | selectAsserted | selectorPhaseEvent | selectorPulseReport |
      selectorStep | steeringStepAnnouncement | uplinkMark | uplinkQuerySlot | uplinkReply |
      uplinkStateMark | uplinkUnexpectedFrame =>
    cases h; split <;> simp
  -- rows whose event, when it is there, is taken in one of two ways
  case inputUnitStep | steeringPhaseEvent | uplinkStep | characterReceived | steeringSelectExternal |
      steeringSelectLocal | commandGrant =>
    cases h; split
    any_goals rfl
    split <;> simp
  case portCompletionReport =>
    cases h; split
    · rfl
    · exact (State.judgeCycle_dispatch _).trans rfl
  case requestTimerExpiry =>
    cases h; split_ifs <;> simp
  case excursionReport =>
    cases h; split
    · rfl
    · dsimp only
      split_ifs <;> simp

end Sys2Proof.Machine

/-! SUPPORT. The plan store's own operations (R113 to R118, R120, R127): none makes two banks ACTIVE or two changes
pending, and none leaves the part without an ACTIVE bank. -/

namespace Sys2Proof.Machine

open Sys2Proof.Config Sys2Proof.Safety

/-! ### The promise, in the roles of a bank and of the other -/

theorem PlanStore.activeBank_isSome {p : PlanStore} (nm : BankName) :
    p.activeBank.isSome = true ↔ (p.bank nm).role = .active ∨ (p.bank nm.other).role = .active := by
  have h : p.activeBank.isSome = true ↔ p.a.role = .active ∨ p.b.role = .active := by
    unfold PlanStore.activeBank
    split_ifs <;> simp [*]
  cases nm
  · exact h
  · exact h.trans or_comm

theorem PlanStore.pendingBank_isSome {p : PlanStore} (nm : BankName) :
    p.pendingBank.isSome = true ↔ (p.bank nm).role = .pending ∨ (p.bank nm.other).role = .pending := by
  have h : p.pendingBank.isSome = true ↔ p.a.role = .pending ∨ p.b.role = .pending := by
    unfold PlanStore.pendingBank
    split_ifs <;> simp [*]
  cases nm
  · exact h
  · exact h.trans or_comm

/-- The promise of R114 and R117 of two banks' roles, and of whether a relabel waits. -/
abbrev RolesSound (r r' : Role) (relabel : Bool) : Prop :=
  ¬(r = .active ∧ r' = .active) ∧ ¬(r = .pending ∧ r' = .pending) ∧
  ¬((r = .pending ∨ r' = .pending) ∧ relabel = true) ∧ (relabel = true → r = .active ∨ r' = .active)

/-- What `PlansSound` promises, of the plan store alone. -/
def PlanStore.Sound (p : PlanStore) : Prop :=
  RolesSound p.a.role p.b.role p.relabel.isSome

theorem plansSound_iff {s : State} : PlansSound s ↔ s.plans.Sound := by
  unfold PlansSound
  rw [PlanStore.activeBank_isSome .a, PlanStore.pendingBank_isSome .a]
  rfl

theorem rolesSound_comm {r r' : Role} {relabel : Bool} : RolesSound r r' relabel ↔ RolesSound r' r relabel := by
  unfold RolesSound; tauto

/-- A relabel may be dropped. -/
theorem RolesSound.unlabelled : ∀ {r r' : Role} {relabel : Bool}, RolesSound r r' relabel → RolesSound r r' false
  | _, _, _, ⟨hactive, hpending, _, _⟩ => ⟨hactive, hpending, by simp, by simp⟩

/-- The promise may be read from either bank. -/
theorem PlanStore.sound_iff {p : PlanStore} (nm : BankName) :
    p.Sound ↔ RolesSound (p.bank nm).role (p.bank nm.other).role p.relabel.isSome := by
  cases nm
  · exact .rfl
  · exact rolesSound_comm

/-- The plan store `q` that comes of `p` is sound when `p` is, and has an ACTIVE bank when `p` has one. -/
structure PlanStore.Keeps (p q : PlanStore) : Prop where
  sound : p.Sound → q.Sound
  active : p.activeBank.isSome = true → q.activeBank.isSome = true

theorem PlanStore.Keeps.refl (p : PlanStore) : p.Keeps p := ⟨id, id⟩

theorem PlanStore.Keeps.of_eq {p q : PlanStore} (h : q = p) : p.Keeps q := h ▸ .refl p

/-- What an operation on the bank `nm` keeps, from the roles of the two banks and the relabel after it. -/
theorem PlanStore.Keeps.of_roles {p q : PlanStore} (nm : BankName) {r r' : Role} {relabel : Bool}
    (hr : (q.bank nm).role = r) (hr' : (q.bank nm.other).role = r') (hrelabel : q.relabel.isSome = relabel)
    (sound : RolesSound (p.bank nm).role (p.bank nm.other).role p.relabel.isSome → RolesSound r r' relabel)
    (active : (p.bank nm).role = .active ∨ (p.bank nm.other).role = .active → r = .active ∨ r' = .active) :
    p.Keeps q := by
  subst hr hr' hrelabel
  constructor
  · rwa [PlanStore.sound_iff nm, PlanStore.sound_iff nm]
  · rwa [PlanStore.activeBank_isSome nm, PlanStore.activeBank_isSome nm]

theorem PlanStore.modBank_other (p : PlanStore) (nm : BankName) (f : Bank → Bank) :
    (p.modBank nm f).bank nm.other = p.bank nm.other := by
  cases nm <;> rfl

theorem PlanStore.modBank_relabel (p : PlanStore) (nm : BankName) (f : Bank → Bank) :
    (p.modBank nm f).relabel = p.relabel := by
  cases nm <;> rfl

/-! ### The operations -/

/-- A bank changed and its role kept. -/
theorem PlanStore.modBank_keeps {p : PlanStore} {nm : BankName} {f : Bank → Bank}
    (h : (f (p.bank nm)).role = (p.bank nm).role) : p.Keeps (p.modBank nm f) :=
  .of_roles nm (by rw [PlanStore.modBank_bank, h]) (by rw [PlanStore.modBank_other])
    (by rw [PlanStore.modBank_relabel]) id id

/-- ARM PLAN of an INACTIVE bank needs no change pending; of an ACTIVE one no bank PENDING (R117). -/
theorem PlanStore.arm_keeps {p q : PlanStore} {nm : BankName} {planId : Nat} (h : p.arm nm planId = some q) :
    p.Keeps q := by
  unfold PlanStore.arm at h
  split at h
  · next hr =>
    split_ifs at h with hc
    cases h
    rw [PlanStore.hasPending_iff, PlanStore.pendingBank_isSome nm] at hc
    refine .of_roles nm (by rw [PlanStore.modBank_bank]) (by rw [PlanStore.modBank_other])
      (by rw [PlanStore.modBank_relabel]) ?_ ?_ <;> rw [hr] <;> grind
  · cases h
    exact PlanStore.modBank_keeps rfl
  · next hr =>
    split_ifs at h with hc
    cases h
    rw [PlanStore.pendingBank_isSome nm] at hc
    refine .of_roles nm (q := { p with relabel := some planId }) (r := .active)
      (r' := (p.bank nm.other).role) ?_ ?_ rfl ?_ ?_
    · cases nm <;> exact hr
    · cases nm <;> rfl
    · grind
    · grind

/-- DISARM PLAN withdraws what is pending and touches no ACTIVE bank (R118). -/
theorem PlanStore.disarm_keeps {p q : PlanStore} (h : p.disarm = some q) : p.Keeps q := by
  unfold PlanStore.disarm at h
  split at h
  · next nm hp =>
    cases h
    have hr := PlanStore.bank_role_of_pendingBank hp
    refine .of_roles nm (by rw [PlanStore.modBank_bank]) (by rw [PlanStore.modBank_other])
      (by rw [PlanStore.modBank_relabel]) ?_ ?_ <;> rw [hr] <;> grind
  · split_ifs at h
    cases h
    exact .of_roles .a rfl rfl rfl RolesSound.unlabelled id

/-- At an activation point a PENDING bank replaces the ACTIVE one, or the ACTIVE one is relabelled (R120). -/
theorem PlanStore.activate_keeps (p : PlanStore) : p.Keeps p.activate := by
  unfold PlanStore.activate
  split
  · next nm hp =>
    have hr := PlanStore.bank_role_of_pendingBank hp
    refine .of_roles nm (r := .active) (r' := (p.bank nm.other).role.activated) ?_ ?_ rfl ?_ fun _ => .inl rfl
    · cases nm <;> exact congrArg Role.activated hr
    · cases nm <;> rfl
    · rintro ⟨-, hpending, -, -⟩
      rw [Role.activated_of_ne_pending fun h => hpending ⟨hr, h⟩]
      exact ⟨by simp, by simp, by simp, fun _ => .inl rfl⟩
  · split
    · next i nm hi ha =>
      refine .of_roles nm (r := (p.bank nm).role) (r' := (p.bank nm.other).role) ?_ ?_ rfl ?_ id
      · cases nm <;> rfl
      · cases nm <;> rfl
      · exact RolesSound.unlabelled
    · exact .refl p

/-- A service reset drops what is pending (R127). -/
theorem PlanStore.serviceReset_keeps (p : PlanStore) : p.Keeps p.serviceReset := by
  have kept (r : Role) : (if r = .pending then .inactive else r) = .active ↔ r = .active := by
    cases r <;> simp
  have gone (r : Role) : (if r = .pending then .inactive else r) ≠ .pending := by
    cases r <;> simp
  refine .of_roles .a (r := if p.a.role = .pending then .inactive else p.a.role)
    (r' := if p.b.role = .pending then .inactive else p.b.role) rfl rfl rfl ?_ ?_
  · rintro ⟨hactive, -, -, -⟩
    exact ⟨by rwa [kept, kept], fun h => gone _ h.1, by simp [PlanStore.serviceReset],
      by simp [PlanStore.serviceReset]⟩
  · rw [kept, kept]
    exact id

/-- The plan store's part in a cycle start is that of an activation point, or none (R113, R120). -/
theorem State.planned_keeps (s : State) (n : Nat) : s.plans.Keeps (s.planned n).plans := by
  unfold State.planned State.activatePlan
  dsimp only
  split_ifs
  · exact s.plans.activate_keeps
  · exact s.plans.activate_keeps
  · exact .refl _

end Sys2Proof.Machine

/-! SUPPORT. Serving follows the plan store (R121, R129): every operation of the plan store, the cycle timer and the
ports keeps the two promises made of them. -/

namespace Sys2Proof.Machine

open Sys2Proof.Config Sys2Proof.Safety

/-! ### What keeps the two promises -/

/-- From `s` to `t` the plan store stays sound (R114, R117), and so do the ports and the events on their way to them
with what it names (R129). -/
structure ServesOn (s t : State) : Prop where
  plans : PlansSound s → PlansSound t
  serving : ServingSound s → ServingSound t

section ServesOn

variable {s t v : State}

theorem ServesOn.refl (s : State) : ServesOn s s := ⟨id, id⟩

theorem ServesOn.trans (h : ServesOn s t) (h' : ServesOn t v) : ServesOn s v :=
  ⟨h'.plans ∘ h.plans, h'.serving ∘ h.serving⟩

/-- No port begins to serve, and a port is told of no bank that it was not told of before, unless one is ACTIVE. -/
theorem ServesOn.of_keeps (hp : s.plans.Keeps t.plans)
    (hstate : ∀ p : Port, t.ports[p].state = .serving → s.ports[p].state = .serving)
    (htold : ∀ p : Port, ∀ e ∈ t.flight.toPort[p], namesBank e = true →
      e ∈ s.flight.toPort[p] ∨ t.plans.activeBank.isSome = true) : ServesOn s t := by
  refine ⟨?_, fun hs p => ⟨fun h => hp.active ((hs p).1 (hstate p h)), fun e he hn => ?_⟩⟩
  · rw [plansSound_iff, plansSound_iff]
    exact hp.sound
  · exact (htold p e he hn).elim (fun he => hp.active ((hs p).2 e he hn)) id

/-- While a bank is ACTIVE, any port may serve and be told of it. -/
theorem ServesOn.of_active (hp : s.plans.Keeps t.plans)
    (h : ServingSound s → s.plans.activeBank.isSome = true) : ServesOn s t := by
  refine ⟨?_, fun hs p => ⟨fun _ => hp.active (h hs), fun _ _ _ => hp.active (h hs)⟩⟩
  rw [plansSound_iff, plansSound_iff]
  exact hp.sound

/-- The promises read the plan store, the ports and the events on their way to them alone. -/
theorem ServesOn.of_dispatch (h : t.dispatch = s.dispatch) : ServesOn s t := by
  have hplans : t.plans = s.plans := congrArg Dispatch.plans h
  have hports : t.ports = s.ports := congrArg Dispatch.ports h
  have hto : t.flight.toPort = s.flight.toPort := congrArg Dispatch.toPort h
  exact .of_keeps (.of_eq hplans) (fun p => by rw [hports]; exact id) fun p e he _ => .inl (by rwa [← hto])

/-- What leaves the plan store, the ports and their events alone may come after, or before. -/
theorem ServesOn.then_dispatch (h : ServesOn s t) (hv : v.dispatch = t.dispatch) : ServesOn s v :=
  h.trans (.of_dispatch hv)

theorem ServesOn.after (h : ServesOn t v) (ht : t.dispatch = s.dispatch) : ServesOn s v :=
  (ServesOn.of_dispatch ht).trans h

/-- The plan store changed alone. -/
theorem ServesOn.of_plans {q : PlanStore} (h : s.plans.Keeps q) : ServesOn s { s with plans := q } :=
  .of_keeps h (fun _ => id) fun _ _ he _ => .inl he

/-- A port changed that does not begin to serve. -/
theorem ServesOn.modPort {p : Port} {f : PortUnit → PortUnit}
    (h : (f s.ports[p]).state = .serving → s.ports[p].state = .serving) : ServesOn s (s.modPort p f) := by
  refine .of_keeps (.refl _) (fun q => ?_) fun _ _ he _ => .inl he
  show (s.ports.set p (f s.ports[p]))[q].state = .serving → _
  rw [getElem_set_apply]
  split_ifs with hpq
  · subst hpq
    exact h
  · exact id

/-- Every port keeps which departures' instants have come (R134, R135). -/
theorem ServesOn.of_reach {now : Stamp} (hp : t.plans = s.plans) (hto : t.flight.toPort = s.flight.toPort)
    (h : t.ports = s.ports.map fun q => q.reach now) : ServesOn s t := by
  refine .of_keeps (.of_eq hp) (fun p => ?_) fun p e he _ => .inl (by rwa [← hto])
  simp [h]

/-- The oldest event on its way to a port taken. -/
theorem ServesOn.takeEvent {p : Port} {e : PortEvent} {rest : List PortEvent} (h : s.flight.toPort[p] = e :: rest) :
    ServesOn s (s.modFlight fun f => { f with toPort := f.toPort.set p rest }) := by
  refine .of_keeps (.refl _) (fun _ => id) fun q e' he _ => .inl ?_
  replace he : e' ∈ (s.flight.toPort.set p rest)[q] := he
  rw [getElem_set_apply _ p q fun _ => rest] at he
  split_ifs at he with hpq
  · subst hpq
    rw [h]
    exact List.mem_cons_of_mem _ he
  · exact he

/-- An event that every port is handed, and that names a bank only while one is ACTIVE. -/
theorem ServesOn.handEvent {e : PortEvent} (hp : s.plans.Keeps t.plans) (hports : t.ports = s.ports)
    (hto : t.flight.toPort = s.flight.toPort.map (· ++ [e]))
    (he : namesBank e = true → t.plans.activeBank.isSome = true) : ServesOn s t := by
  refine .of_keeps hp (fun p => by rw [hports]; exact id) fun p e' he' hn => ?_
  rw [hto] at he'
  have he' : e' ∈ s.flight.toPort[p] ++ [e] := by simpa using he'
  rcases List.mem_append.mp he' with he' | he'
  · exact .inl he'
  · rw [List.mem_singleton.mp he'] at hn
    exact .inr (he hn)

end ServesOn

section Operations

variable (s : State)

/-! ### Cycle timer and plan store (chapter 6) -/

theorem PlanStore.named_isSome (p : PlanStore) : p.named.isSome = p.activeBank.isSome :=
  Option.isSome_map

/-- The ports are told of the bank that the plan store then names (R110, R121). -/
theorem State.startCycle_servesOn (n : Nat) (instant : Stamp) : ServesOn s (s.startCycle n instant) := by
  obtain ⟨v, hv, -⟩ := (s.begun n).countRequests_both
  rw [State.startCycle_eq, hv, State.begun_frame]
  refine .handEvent (e := .start n (s.planned n).plans.named) (s.planned_keeps n) rfl rfl fun h => ?_
  exact (PlanStore.named_isSome _).symm.trans h

theorem State.startSlot_servesOn (k : Nat) (instant : Stamp) : ServesOn s (s.startSlot k instant) := by
  unfold State.startSlot
  split
  · exact .refl s
  · exact .handEvent (.refl _) rfl rfl nofun

theorem State.cutCycle_servesOn : ServesOn s s.cutCycle :=
  .handEvent (e := .cut) (.refl _) rfl rfl nofun

theorem State.runArmPlan_servesOn (r : Running) (bank planId : Nat) : ServesOn s (s.runArmPlan r bank planId) := by
  have refused (st : Status) : ServesOn s (s.answer r st) := .of_dispatch (s.answer_dispatch r st)
  unfold State.runArmPlan
  split
  · exact refused _
  · split
    · exact refused _
    · split_ifs
      · exact refused _
      · exact refused _
      · split
        · exact refused _
        · next h => exact (ServesOn.of_plans (PlanStore.arm_keeps h)).then_dispatch (State.respond_dispatch _ _ _ _)

/-- A checked write keeps the promises when its continuation does. -/
theorem State.checkedWrite_servesOn {s k : State} (hk : ServesOn s k) (r : Running) (sect index : Nat) :
    ServesOn s (s.checkedWrite r sect index k) := by
  rcases s.checkedWrite_cases r sect index k with ⟨-, h⟩ | ⟨-, -, h⟩ | ⟨-, h⟩ <;> rw [h]
  · exact .of_dispatch (s.respond_dispatch ..)
  · exact .of_dispatch (s.respond_dispatch ..)
  · exact hk

theorem State.runDisarmPlan_servesOn (r : Running) : ServesOn s (s.runDisarmPlan r) := by
  refine State.checkedWrite_servesOn ?_ r 5 514
  split
  · exact .of_dispatch (s.answer_dispatch ..)
  · next h => exact (ServesOn.of_plans (PlanStore.disarm_keeps h)).then_dispatch (State.respond_dispatch _ _ _ _)

/-! ### Distribution ports (chapter 7) -/

@[simp] theorem PortUnit.schedule_state (q : PortUnit) (d : Departure) : (q.schedule d).state = q.state := by
  unfold PortUnit.schedule; split_ifs <;> rfl

@[simp] theorem PortUnit.serveSlot_state (q : PortUnit) (k n : Nat) (now : Stamp) :
    (q.serveSlot k n now).state = q.state := by
  unfold PortUnit.serveSlot
  split
  · exact q.schedule_state _
  · rfl

/-- A port that does not serve a cycle does not begin to. -/
theorem State.idleCycle_servesOn (p : Port) (n : Nat) :
    ServesOn s ((s.modPort p fun q => q.idleCycle n).portReport p ⟨n, .notServing⟩) :=
  (ServesOn.modPort id).then_dispatch (State.portReport_dispatch _ _ _)

/-- Only a port that is told of a bank serves the cycle, and none is told of one unless a bank is ACTIVE (R129). -/
theorem State.takePortCycle_servesOn (p : Port) : ServesOn s (s.takePortCycle p) := by
  unfold State.takePortCycle
  split
  · next n named rest hto =>
    unfold State.portCycle
    split
    · next nm planId =>
      split
      · refine .of_active (.of_eq ?_) fun hs => (hs p).2 _ (hto ▸ List.mem_cons_self) rfl
        dsimp only
        split <;> rfl
      · exact (ServesOn.takeEvent hto).trans (State.idleCycle_servesOn _ p n)
    · exact (ServesOn.takeEvent hto).trans (State.idleCycle_servesOn _ p n)
  · exact .refl s

theorem State.sendMark_servesOn (p : Port) (slot : Nat) (isState : Bool) (x : Elapsed) :
    ServesOn s (s.sendMark p slot isState x) := by
  unfold State.sendMark
  dsimp only
  split
  · exact (ServesOn.modPort id).then_dispatch (State.portReport_dispatch _ _ _)
  · exact ServesOn.modPort id

theorem State.departMark_servesOn (p : Port) (slot : Nat) (isState : Bool) (x : Elapsed) :
    ServesOn s (s.departMark p slot isState x) := by
  unfold State.departMark
  dsimp only
  split
  · exact (ServesOn.modPort id).trans (ServesOn.modPort id)
  · exact (ServesOn.modPort id).trans (State.sendMark_servesOn _ p slot isState x)

theorem State.departReply_servesOn (p : Port) (d : Departure) (taken : Option (List Answer)) (n : Nat) :
    ServesOn s (s.departReply p d taken n) := by
  unfold State.departReply
  dsimp only
  split
  · exact .refl s
  · exact ServesOn.modPort id

theorem State.takeQuery_servesOn (p : Port) (requester : Nat) (seq : Seq) (arrival : Stamp) :
    ServesOn s (s.takeQuery p requester seq arrival) := by
  unfold State.takeQuery
  dsimp only
  split_ifs
  · exact ServesOn.modPort id
  · exact ServesOn.modPort id
  · exact ServesOn.modPort id
  · exact (ServesOn.modPort id).then_dispatch (State.logFault_dispatch _ _ _ _ _)

theorem State.portDown_servesOn (p : Port) : ServesOn s (s.portDown p) := by
  unfold State.portDown
  dsimp only
  split_ifs
  · exact .refl s
  · exact (ServesOn.modPort fun h => nomatch (h : PortState.down = .serving)).then_dispatch
      (State.logFault_dispatch _ _ _ _ _)
  · exact ServesOn.modPort id

theorem PortUnit.linkUp_serving {q : PortUnit} (h : q.linkUp.state = .serving) : q.state = .serving := by
  unfold PortUnit.linkUp at h
  grind

theorem PortUnit.enable_serving {q : PortUnit} (h : q.enable.state = .serving) : q.state = .serving := by
  unfold PortUnit.enable at h
  grind

theorem PortUnit.disable_serving {q : PortUnit} : q.disable.state ≠ .serving := by
  unfold PortUnit.disable
  grind

theorem State.runClearPortFlags_servesOn (r : Running) (numbers : List Nat) :
    ServesOn s (s.runClearPortFlags r numbers) := by
  have cleared (l : List Port) (v : State) :
      ServesOn v (l.foldl (fun v p => v.modPort p fun q => { q with overrun := false }) v) := by
    induction l generalizing v with
    | nil => exact .refl v
    | cons p l ih => exact (ServesOn.modPort id).trans (ih _)
  unfold State.runClearPortFlags
  dsimp only
  split_ifs
  on_goal 5 => exact (cleared _ s).then_dispatch (State.respond_dispatch _ _ _ _)
  all_goals exact .of_dispatch (s.answer_dispatch ..)

/-! ### Ticks and steps (chapter 1) -/

theorem State.tick_servesOn : ServesOn s s.tick :=
  .of_reach s.tick_plans (by rw [State.tick_flight]) s.tick_ports

theorem State.applyStep_servesOn (o : StepOrigin) (d : Int) (x : Elapsed) : ServesOn s (s.applyStep o d x) :=
  .of_reach rfl rfl (s.applyStep_ports o d x)

theorem State.runStepTime_servesOn (r : Running) (sec ns : Int) (x : Elapsed) :
    ServesOn s (s.runStepTime r sec ns x) := by
  obtain ⟨v, st, p, h, rfl | rfl⟩ := s.runStepTime_cases r sec ns x <;> rw [h]
  · exact .of_dispatch (State.respond_dispatch _ _ _ _)
  · exact (s.applyStep_servesOn ..).then_dispatch (State.respond_dispatch _ _ _ _)

/-! ### Entry writes (R115, R128, R132, R178) -/

section EntryWrites

variable (value : List Byte)

/-- A map stored changes no role (R115). -/
theorem State.writePlans_servesOn (index : Nat) : (s.writePlans index value).Forall (ServesOn s) := by
  unfold State.writePlans State.writeMap
  split
  · split
    · trivial
    · split
      · trivial
      · exact (Stored.forall_store _ _).mpr (.of_plans (PlanStore.modBank_keeps rfl))
  · split
    · exact forall_storeNat.mpr fun _ _ => .of_dispatch rfl
    · trivial

/-- A port enabled waits for a cycle start to serve; one disabled does not serve (R128, R132). -/
theorem State.writePorts_servesOn (index : Nat) : (s.writePorts index value).Forall (ServesOn s) := by
  unfold State.writePorts State.writePort
  dsimp only
  split
  · split
    · refine forall_storeEnum.mpr fun b _ _ => .modPort fun h => ?_
      split at h
      · exact PortUnit.enable_serving h
      · exact absurd h PortUnit.disable_serving
    all_goals simp [ServesOn.modPort]
  · trivial

theorem State.storeEntry_servesOn (sect index : Nat) : (s.storeEntry sect index value).Forall (ServesOn s) := by
  by_cases hplans : sect = 5
  · subst hplans
    exact s.writePlans_servesOn value index
  by_cases hports : sect = 6
  · subst hports
    exact s.writePorts_servesOn value index
  exact (s.storeEntry_dispatch value hplans hports index).mono fun _ => .of_dispatch

theorem State.writeAs_servesOn (row : WriteRow) : ServesOn s (s.writeAs row) := by
  rcases s.writeAs_cases row with h | ⟨r, sect, index, value, -, -, h⟩ <;> rw [h]
  · exact .refl s
  · exact State.runWriteEntry_induct (.refl s) (s.storeEntry_servesOn value sect index) fun t r' p ht =>
      ht.then_dispatch (t.respond_dispatch ..)

end EntryWrites

/-! ### Service reset (R127, R151, R183) -/

/-- No block's reset reaches the events on their way to a port. -/
theorem State.resetBlock_toPort (done : List ResetBlock) (b : ResetBlock) :
    (s.resetBlock done b).flight.toPort = s.flight.toPort := by
  have kept {t : State} (h : t.dispatch = s.dispatch) : t.flight.toPort = s.flight.toPort :=
    congrArg Dispatch.toPort h
  cases b with
  | input u => exact kept (State.followScale_dispatch _ _)
  | uplink u => exact kept (State.followScale_dispatch _ _)
  | selector =>
    obtain ⟨v, hv, -⟩ := State.foldl_leaveIfTrial_eq allExt s
    show (s.resetSelector _).flight.toPort = _
    unfold State.resetSelector
    rw [hv]
    dsimp only
    split <;> rfl
  | timebase | steering | planStore | port _ | outputs | notice => rfl

/-- The plan store's reset drops what is pending, a port's turns it OFF (R127, R151). -/
theorem State.resetBlock_servesOn (done : List ResetBlock) (b : ResetBlock) :
    ServesOn s (s.resetBlock done b) := by
  have hr := s.resetBlock_reset done b
  refine .of_keeps ?_ (fun p => ?_) fun p e he _ => .inl (by rwa [← s.resetBlock_toPort done b])
  · rw [hr.plans]
    split_ifs
    · exact s.plans.serviceReset_keeps
    · exact .refl _
  · rw [hr.port p]
    split_ifs
    · exact nofun
    · exact id

theorem State.runServiceReset_servesOn (r : Running) (blocks : List ResetBlock) :
    ServesOn s (s.runServiceReset r blocks) := by
  have hb : ServesOn s (s.resetBlocks r.resetTaken blocks).1 :=
    State.resetBlocks_induct (P := fun v _ => ServesOn s v) s r.resetTaken blocks (.refl s)
      fun v d b hv _ => hv.trans (v.resetBlock_servesOn d b)
  unfold State.runServiceReset
  dsimp only
  generalize s.resetBlocks r.resetTaken blocks = out at hb
  have hgo : ServesOn s (if resetComplete out.2 then out.1.finishReset r
      else { out.1 with executor := { out.1.executor with running := some { r with resetTaken := out.2 } } }) := by
    split
    · exact hb.then_dispatch rfl
    · exact hb.then_dispatch rfl
  split
  · exact State.checkedWrite_servesOn hgo r 1 0
  · exact hgo

end Operations

end Sys2Proof.Machine

/-! SUPPORT. Every command keeps the plan store and the ports in line (R114, R117, R129). -/

namespace Sys2Proof.Machine

open Sys2Proof.Config Sys2Proof.Safety

/-- A row of the executor keeps the promises when every command it accepts does. -/
theorem State.onCommand_servesOn {s : State} {f : Running → Command → Option State}
    (hf : ∀ r c t, f r c = some t → ServesOn s t) : ServesOn s (s.onCommand f) := by
  rcases s.onCommand_cases f with h | ⟨r, t, -, h, h'⟩
  · rw [h]; exact .refl s
  · rw [h']; exact hf r _ t h

/-- After power-on reset no bank is ACTIVE and no port told of one (R127, R151). -/
theorem ServesOn.powerOn (s : State) (strap : Level) (ups : Vector LinkLevel 2) (links : Vector LinkLevel 6)
    (pending : List Instr) : ServesOn s (State.powerOn strap ups links pending) := by
  obtain ⟨-, -, -, hplans, -, -, -, -, -, -, -, hserving, -, -⟩ :=
    resetMeetsEveryPromise strap ups links pending
  exact ⟨fun _ => hplans, fun _ => hserving⟩

/-- Every command that may change the plan store, a port, or what is on its way to one keeps the promises. -/
theorem exec_servesOn {c : Instr} {s t : State} (hc : movesDispatch c = true) (h : exec c s = .next t) :
    ServesOn s t := by
  cases c <;> cases hc
  case stepRequestApplied x =>
    simp only [exec, execStepRequestApplied] at h
    split at h <;> cases h
    · exact .refl s
    · exact ServesOn.after (State.applyStep_servesOn _ _ _ _) rfl
  all_goals cases h
  case powerOnReset strap ups links => exact .powerOn s strap ups links _
  case oscillatorTick => exact s.tick_servesOn
  case rateLimitWrite | pairingModeWrite | autoRateArmWrite | sourceEnable | sourceDisable |
      autoUpgradeWrite | programmedClassWrite | steeringOptionsWrite | portMapWrite | epochLengthWrite |
      portEnable | portDisable | writeEntry | accessTableWrite | guardEntryWrite | noticeMaskWrite |
      nestModeWrite => exact s.writeAs_servesOn _
  -- commands of the executor
  case stepTime x =>
    refine State.onCommand_servesOn fun r c t hf => ?_
    split at hf <;> cases hf
    exact s.runStepTime_servesOn r _ _ x
  case armPlan =>
    refine State.onCommand_servesOn fun r c t hf => ?_
    split at hf <;> cases hf
    exact s.runArmPlan_servesOn r _ _
  case disarmPlan =>
    refine State.onCommand_servesOn fun r c t hf => ?_
    split at hf <;> cases hf
    exact s.runDisarmPlan_servesOn r
  case clearPortFlags =>
    refine State.onCommand_servesOn fun r c t hf => ?_
    split at hf <;> cases hf
    exact s.runClearPortFlags_servesOn r _
  case serviceReset blocks =>
    refine State.onCommand_servesOn fun r c t hf => ?_
    split at hf <;> cases hf
    exact s.runServiceReset_servesOn r blocks
  -- the cycle timer, when its event is there
  case cycleStart =>
    split
    · exact ServesOn.after (State.startCycle_servesOn _ _ _) (State.modFlight_dispatch rfl)
    · exact .refl s
  case slotStart =>
    split
    · exact ServesOn.after (State.startSlot_servesOn _ _ _) (State.modFlight_dispatch rfl)
    · exact .refl s
  case cycleCut =>
    split
    · exact ServesOn.after (State.cutCycle_servesOn _) (State.modFlight_dispatch rfl)
    · exact .refl s
  -- the ports
  case portCycleStart p => exact s.takePortCycle_servesOn p
  case answerEntryExpiry p =>
    split
    · exact s.takePortCycle_servesOn p
    · exact .refl s
  case portSlotStart p =>
    split
    · next hto =>
      dsimp only
      split
      · exact (ServesOn.takeEvent hto).trans (.modPort (by rw [PortUnit.serveSlot_state]; exact id))
      · exact .takeEvent hto
    · exact .refl s
  case markDeparture p x =>
    split
    · split
      · split
        · exact s.departMark_servesOn _ _ _ _
        · exact s.departMark_servesOn _ _ _ _
        · exact .refl s
      · exact .refl s
    · exact .refl s
  case replyDeparture p n x =>
    split
    · split
      · split
        · exact s.departReply_servesOn _ _ _ _
        · exact .refl s
      · exact .refl s
    · exact .refl s
  case queryReceived p bytes x =>
    split
    · exact s.takeQuery_servesOn _ _ _ _
    · exact .refl s
  case portUnexpectedFrame p bytes =>
    split
    · exact .modPort id
    · exact .refl s
    · exact .modPort id
    · exact .refl s
  case portCut p =>
    split
    · next hto =>
      dsimp only
      split
      · exact (ServesOn.takeEvent hto).trans (.modPort id)
      · exact .takeEvent hto
    · exact .refl s
  case portLinkDown p => exact s.portDown_servesOn p
  case portLinkUp p => exact .modPort PortUnit.linkUp_serving

/-- A step keeps the promises, whatever its command. -/
theorem step_servesOn {s t : State} (h : step s = .next t) : ServesOn s t := by
  rcases step_cases h with ⟨-, rfl⟩ | ⟨c, rest, -, h'⟩
  · exact .refl t
  · have hs : ServesOn s { s with pending := rest } := .of_dispatch rfl
    refine hs.trans ?_
    cases hc : movesDispatch c
    · exact .of_dispatch (exec_dispatch hc h')
    · exact exec_servesOn hc h'

/-- Settles O6: a command leaves the plan store, the ports and their events alone, or is one of those that keep the
two promises. -/
theorem banksAndServingStaySound : Obligations.BanksAndServingStaySound :=
  ⟨fun _ _ hs h => (step_servesOn h).plans hs, fun _ _ hs h => (step_servesOn h).serving hs⟩

end Sys2Proof.Machine

/-! SUPPORT. The effective map (R114, R122), and ARM PLAN and DISARM PLAN check by check (R117, R118). -/

namespace Sys2Proof.Machine

open Sys2Proof.Config Sys2Proof.Safety

/-! ### The effective map (R122) -/

/-- Settles O45, by induction on the map: an entry that fits is kept and charged to the budget, and from the first
that does not fit every entry is IDLE. -/
theorem effectiveMapKeepsToBudget : Obligations.EffectiveMapKeepsToBudget := by
  refine ⟨rfl, fun budget map => ?_⟩
  induction map generalizing budget with
  | nil => exact ⟨0, le_rfl, rfl, Nat.zero_le _, nofun⟩
  | cons e es ih =>
    by_cases hfits : e.weight ≤ budget
    · obtain ⟨k, hk, htrim, hkept, hnext⟩ := ih (budget - e.weight)
      refine ⟨k + 1, Nat.succ_le_succ hk, ?_, ?_, fun e' he' => ?_⟩
      · simp [trimMap, hfits, htrim]
      · simp only [List.take_succ_cons, List.map_cons, List.sum_cons]
        omega
      · obtain ⟨hover, hidle⟩ := hnext e' he'
        simp only [List.take_succ_cons, List.map_cons, List.sum_cons]
        exact ⟨by omega, hidle⟩
    · refine ⟨0, Nat.zero_le _, by simp [trimMap, hfits], Nat.zero_le _, fun e' he' => ?_⟩
      obtain rfl : e = e' := by simpa using he'
      refine ⟨by simpa using hfits, ?_⟩
      rintro rfl
      exact hfits (Nat.zero_le _)

/-! ### ARM PLAN and DISARM PLAN (R117, R118) -/

theorem exec_armPlan {s : State} {r : Running} {bank planId : Nat} (h : Runs s r (.armPlan bank planId)) :
    exec .armPlan s = .next (s.runArmPlan r bank planId) :=
  congrArg Host.Outcome.next (State.onCommand_of_runs h rfl)

theorem exec_disarmPlan {s : State} {r : Running} (h : Runs s r .disarmPlan) :
    exec .disarmPlan s = .next (s.runDisarmPlan r) :=
  congrArg Host.Outcome.next (State.onCommand_of_runs h rfl)

theorem bankOf_eq_none {bank : Nat} (h : 1 < bank) : bankOf bank = none := by
  obtain ⟨k, rfl⟩ : ∃ k, bank = k + 2 := ⟨bank - 2, by omega⟩
  rfl

theorem bankOf_eq_some {bank : Nat} (h : ¬1 < bank) : bankOf bank = some (if bank = 0 then .a else .b) := by
  interval_cases bank <;> rfl

section Arm

variable {s : State} {r : Running} {bank planId : Nat} {nm : BankName}

/-- ARM PLAN that passes its checks meets another change pending (R117). -/
theorem State.runArmPlan_of_pending (hw : s.access.canWrite r.link 5 = true) (hb : bankOf bank = some nm)
    (hg : s.access.guarded 5 (256 * bank) = false) (hi : ¬255 < planId) (h : s.plans.arm nm planId = none) :
    s.runArmPlan r bank planId = s.respond r .pendingExists [] := by
  simp only [State.runArmPlan, hw, hb, hg, if_neg hi, h]
  rfl

/-- ARM PLAN that passes its checks arms the plan store (R117). -/
theorem State.runArmPlan_of_arms {p : PlanStore} (hw : s.access.canWrite r.link 5 = true)
    (hb : bankOf bank = some nm) (hg : s.access.guarded 5 (256 * bank) = false) (hi : ¬255 < planId)
    (h : s.plans.arm nm planId = some p) :
    s.runArmPlan r bank planId = State.respond { s with plans := p } r .ok
      ([byte p.a.role.code, byte p.b.role.code] ++ p.pendingBytes) := by
  simp only [State.runArmPlan, hw, hb, hg, if_neg hi, h]
  rfl

end Arm

/-! ### ARM PLAN's table, by the bank's role (R117) -/

section Table

variable {p : PlanStore} {nm : BankName}

theorem PlanStore.arm_of_inactive (h : (p.bank nm).role = .inactive) (planId : Nat) :
    p.arm nm planId = if p.pendingBank ≠ none ∨ p.relabel ≠ none then none
      else some (p.modBank nm fun k => { k with role := .pending, planId := planId }) := by
  simp only [PlanStore.arm, h, PlanStore.hasPending_iff, Option.isSome_iff_ne_none]

theorem PlanStore.arm_of_pending (h : (p.bank nm).role = .pending) (planId : Nat) :
    p.arm nm planId = some (p.modBank nm fun k => { k with planId := planId }) := by
  simp only [PlanStore.arm, h]

theorem PlanStore.arm_of_active (h : (p.bank nm).role = .active) (planId : Nat) :
    p.arm nm planId = if p.pendingBank ≠ none then none else some { p with relabel := some planId } := by
  simp only [PlanStore.arm, h, Option.isSome_iff_ne_none]

end Table

/-! ### The commands, check by check (R117, R118) -/

/-- Settles O44: ARM PLAN by its checks and then by the bank's role, DISARM PLAN by its checks and then by what is
pending. -/
theorem armAndDisarmPlan : Obligations.ArmAndDisarmPlan := by
  unfold Obligations.ArmAndDisarmPlan
  refine ⟨fun s r bank planId hr => ?_, fun s r hr => ?_⟩
  · intro answers
    have refused {st : Status} (h : s.runArmPlan r bank planId = s.respond r st []) : answers st :=
      (exec_armPlan hr).trans (congrArg _ h)
    by_cases hw : s.access.canWrite r.link 5 = false
    · rw [if_pos hw]
      exact refused (by simp [State.runArmPlan, hw, State.answer])
    rw [if_neg hw]
    rw [Bool.not_eq_false] at hw
    by_cases hbank : 1 < bank
    · rw [if_pos hbank]
      exact refused (by simp [State.runArmPlan, hw, bankOf_eq_none hbank, State.answer])
    rw [if_neg hbank]
    have hb := bankOf_eq_some hbank
    by_cases hg : s.access.guarded 5 (256 * bank) = true
    · rw [if_pos hg]
      exact refused (by simp [State.runArmPlan, hw, hb, hg, State.answer])
    rw [if_neg hg]
    rw [Bool.not_eq_true] at hg
    by_cases hi : 255 < planId
    · rw [if_pos hi]
      exact refused (by simp [State.runArmPlan, hw, hb, hg, hi, State.answer])
    rw [if_neg hi]
    intro nm role arms
    have pending (h : s.plans.arm nm planId = none) : answers .pendingExists :=
      refused (State.runArmPlan_of_pending hw hb hg hi h)
    have armed {p : PlanStore} (h : s.plans.arm nm planId = some p) : arms p :=
      (exec_armPlan hr).trans (congrArg _ (State.runArmPlan_of_arms hw hb hg hi h))
    refine ⟨fun hrole => ?_, fun hrole => armed (PlanStore.arm_of_pending hrole planId), fun hrole => ?_⟩
    · have harm := PlanStore.arm_of_inactive hrole planId
      by_cases hc : s.plans.pendingBank ≠ none ∨ s.plans.relabel ≠ none
      · rw [if_pos hc]
        exact pending (harm.trans (if_pos hc))
      · rw [if_neg hc]
        exact armed (harm.trans (if_neg hc))
    · have harm := PlanStore.arm_of_active hrole planId
      by_cases hc : s.plans.pendingBank ≠ none
      · rw [if_pos hc]
        exact pending (harm.trans (if_pos hc))
      · rw [if_neg hc]
        exact armed (harm.trans (if_neg hc))
  · intro answers done
    have runs {t : State} (h : s.runDisarmPlan r = t) : exec .disarmPlan s = .next t :=
      (exec_disarmPlan hr).trans (congrArg _ h)
    by_cases hw : s.access.canWrite r.link 5 = false
    · rw [if_pos hw]
      exact runs (State.checkedWrite_of_denied hw _)
    rw [if_neg hw]
    rw [Bool.not_eq_false] at hw
    by_cases hg : s.access.guarded 5 514 = true
    · rw [if_pos hg]
      exact runs (State.checkedWrite_of_guarded hw hg _)
    rw [if_neg hg]
    rw [Bool.not_eq_true] at hg
    have disarms : s.runDisarmPlan r = _ := State.checkedWrite_of_permitted ⟨hw, hg⟩ _
    refine ⟨fun nm hp => runs (disarms.trans ?_), fun hp hi => runs (disarms.trans ?_),
      fun hp hi => runs (disarms.trans ?_)⟩
    · simp only [PlanStore.disarm, hp]
      rfl
    · simp only [PlanStore.disarm, hp, Option.isSome_iff_ne_none.mpr hi]
      rfl
    · simp only [PlanStore.disarm, hp, hi]
      rfl

end Sys2Proof.Machine

/-! SUPPORT. A port's cycle: the cycle start it serves or passes over, its slot starts, and the departures of its
marks and replies (R121 to R125, R129, R133 to R139, R144 to R146). -/

namespace Sys2Proof.Machine

open Sys2Proof.Config Sys2Proof.Safety

/-! ### One port changed -/

theorem State.modPort_congr {s : State} {p : Port} {f g : PortUnit → PortUnit} (h : f s.ports[p] = g s.ports[p]) :
    s.modPort p f = s.modPort p g := by
  unfold State.modPort
  rw [h]

theorem State.modPort_modPort (s : State) (p : Port) (f g : PortUnit → PortUnit) :
    (s.modPort p f).modPort p g = s.modPort p fun q => g (f q) := by
  simp [State.modPort]

theorem State.modPort_getElem (s : State) (p : Port) (f : PortUnit → PortUnit) :
    (s.modPort p f).ports[p] = f s.ports[p] := by
  simp

/-- A port put back as it is. -/
theorem State.modPort_same (s : State) (p : Port) : (s.modPort p fun _ => s.ports[p]) = s := by
  simp [State.modPort]

/-! ### Cycle starts (R121 to R124, R129, R133) -/

/-- The oldest event on its way to the port taken. -/
def State.portTook (s : State) (p : Port) (rest : List PortEvent) : State :=
  s.modFlight fun f => { f with toPort := f.toPort.set p rest }

theorem exec_portCycleStart {s : State} {p : Port} {n : Nat} {named : Option (BankName × Nat)}
    {rest : List PortEvent} (h : s.flight.toPort[p] = .start n named :: rest) :
    exec (.portCycleStart p) s = .next ((s.portTook p rest).portCycle p n named) := by
  simp only [exec, execPortCycleStart, State.takePortCycle, h]
  rfl

theorem PortUnit.serves_iff {q : PortUnit} {named : Option (BankName × Nat)} :
    q.serves named = true ↔ named.isSome = true ∧ (q.state = .serving ∨ (q.state = .armed ∧ q.link = .up)) := by
  simp [PortUnit.serves]

/-- A port that does not serve the cycle clears what it held of the one before (R121, R123, R130). -/
theorem State.portCycle_of_not_serves {s : State} {p : Port} {named : Option (BankName × Nat)}
    (h : s.ports[p].serves named = false) (n : Nat) :
    s.portCycle p n named = (s.modPort p fun q => q.idleCycle n).portReport p ⟨n, .notServing⟩ := by
  unfold State.portCycle
  split
  · exact if_neg (by simpa using h)
  · rfl

/-- A port that serves the cycle stands at `v` after its start's phases, and at `w` with slot 0 scheduled (R121 to
R124, R133). -/
theorem State.portCycle_of_serves {s : State} {p : Port} {nm : BankName} {planId : Nat} {v w : PortUnit}
    (h : s.ports[p].serves (some (nm, planId)) = true) (n : Nat)
    (hv : s.ports[p].serveCycle n planId (s.plans.bank nm).maps[p] = v)
    (hw : v.serveSlot 0 n s.timebase.time.stamp = w) :
    s.portCycle p n (some (nm, planId)) =
      (if v.trimmed && !s.ports[p].trimmed then
        (s.modPort p fun _ => w).logFault (.port p) 32 (portNumber p) planId
      else s.modPort p fun _ => w).portReport p
        ⟨n, if (v.map.getD []).any SlotEntry.isMark then .marksDue else .noneDue⟩ := by
  subst hv hw
  exact if_pos h

theorem PortUnit.dueAt_eq (q : PortUnit) (k n : Nat) :
    q.dueAt k n = (Stamp.mk n (k * 25000000) 0).plus (q.stagger * 16000) := by
  unfold PortUnit.dueAt slotNanos
  push_cast
  rfl

/-- The departure a slot calls for, put into an empty departure queue (R134). -/
theorem PortUnit.serveSlot_of_empty {q : PortUnit} (h : q.departures = []) (k n : Nat) (now : Stamp) :
    q.serveSlot k n now = { q with departures := ((q.calledFor k).map fun w =>
      ⟨q.dueAt k n, decide (q.stagger = 0) || decide (0 ≤ now.diff (q.dueAt k n)), w⟩).toList } := by
  unfold PortUnit.serveSlot
  cases hc : q.calledFor k with
  | none => cases q; cases h; rfl
  | some w =>
    simp only [PortUnit.schedule, h]
    rfl

theorem any_isMark {map : List SlotEntry} :
    map.any SlotEntry.isMark = true ↔ SlotEntry.mark ∈ map ∨ SlotEntry.state ∈ map := by
  rw [List.any_eq_true]
  constructor
  · rintro ⟨e, he, hm⟩
    cases e with
    | mark => exact .inl he
    | state => exact .inr he
    | idle | answer => cases hm
  · rintro (h | h)
    · exact ⟨_, h, rfl⟩
    · exact ⟨_, h, rfl⟩

/-- A cycle start at which an entry of the answer queue expires is handled whole (R144). -/
theorem exec_answerEntryExpiry {s : State} {p : Port} {n : Nat} {named : Option (BankName × Nat)}
    {rest : List PortEvent} (h : s.flight.toPort[p] = .start n named :: rest)
    (hs : s.ports[p].serves named = true) (ha : ∃ a ∈ s.ports[p].answers, a.remaining ≤ 1) :
    exec (.answerEntryExpiry p) s = exec (.portCycleStart p) s := by
  have hdue : s.answerExpiryDue p = true := by
    simpa only [State.answerExpiryDue, h, hs, Bool.true_and, List.any_eq_true, decide_eq_true_eq] using ha
  simp only [exec, execAnswerEntryExpiry, hdue]
  rfl

/-! ### Slot starts (R134) -/

theorem exec_portSlotStart {s : State} {p : Port} {k n : Nat} {cut : Bool} {rest : List PortEvent}
    (h : s.flight.toPort[p] = .slot k n cut :: rest) :
    exec (.portSlotStart p) s = .next
      (if s.ports[p].state = .serving ∧ cut = false then
        (s.portTook p rest).modPort p fun q => q.serveSlot k n s.timebase.time.stamp
      else s.portTook p rest) := by
  simp only [exec, execPortSlotStart, h]
  rfl

/-- Settles O46: a cycle start passed over and one served, and a slot start by what its entry calls for. -/
theorem portServesCycle : Obligations.PortServesCycle := by
  unfold Obligations.PortServesCycle
  refine ⟨fun s p n named rest h => ?_, fun s p k n cut rest h => ?_⟩
  · intro q able taken
    refine ⟨fun hn => ?_, fun nm planId hnamed hable => ?_⟩
    · rw [exec_portCycleStart h, State.portCycle_of_not_serves]
      · rfl
      · rw [← Bool.not_eq_true]
        intro hs
        obtain ⟨hsome, hable⟩ := PortUnit.serves_iff.mp hs
        rcases hn with rfl | hn
        · cases hsome
        · exact hn hable
    · subst hnamed
      intro map eff left v due came first w t report logged marks
      have hs : q.serves (some (nm, planId)) = true := PortUnit.serves_iff.mpr ⟨rfl, hable⟩
      refine ⟨?_, exec_answerEntryExpiry h hs⟩
      have hv : q.serveCycle n planId map = v := by
        simp only [PortUnit.serveCycle, PortUnit.ageAnswers, PortUnit.cancelDepartures, List.length_map]
        rfl
      have hdue : v.dueAt 0 n = due := by rw [PortUnit.dueAt_eq, Nat.zero_mul]
      have hfirst : ((v.calledFor 0).map fun e => ⟨due, came, e⟩).toList = first := by
        simp only [PortUnit.calledFor, first, v, Option.getD_some]
        rcases eff[0]? with _ | (_ | _ | _ | _) <;> rfl
      have hw : v.serveSlot 0 n s.timebase.time.stamp = w := by
        rw [PortUnit.serveSlot_of_empty rfl, hdue]
        exact congrArg (fun l => { v with departures := l }) hfirst
      have hlogged : (if v.trimmed && !q.trimmed then t.logFault (.port p) 32 (portNumber p) planId else t) =
          logged := by
        simp only [logged, report]
        by_cases hc : eff ≠ map ∧ q.trimmed = false
        · rw [if_pos hc, if_pos (by simpa [v] using hc)]
          rfl
        · rw [if_neg hc, if_neg (by simpa [v] using hc), List.append_nil]
      have hmarks : (if (v.map.getD []).any SlotEntry.isMark then Report.marksDue else .noneDue) =
          if marks then .marksDue else .noneDue := if_congr any_isMark rfl rfl
      rw [exec_portCycleStart h, State.portCycle_of_serves (s := s.portTook p rest) hs n hv hw, ← hmarks, ← hlogged]
      rfl
  · intro q taken becomes due came
    have runs {v : PortUnit} (hq : q.state = .serving) (hc : cut = false)
        (hv : q.serveSlot k n s.timebase.time.stamp = v) : becomes v := by
      show exec _ _ = _
      rw [exec_portSlotStart h, if_pos ⟨hq, hc⟩]
      exact congrArg _ (State.modPort_congr hv)
    refine ⟨fun hn => ?_, fun map e w hq hc hmap he => ⟨fun hidle => runs hq hc ?_, fun hw => runs hq hc ?_⟩⟩
    · show exec _ _ = _
      rw [exec_portSlotStart h, if_neg fun hs => hn.elim (· hs.1) (by simp [hs.2])]
      exact congrArg _ (State.modPort_same _ p).symm
    · simp [PortUnit.serveSlot, PortUnit.calledFor, hmap, he, hidle]
    · have hcall : q.calledFor k = some w := by
        rcases hw with ⟨rfl, rfl⟩ | ⟨rfl, rfl⟩ | ⟨rfl, rfl⟩ <;> simp [PortUnit.calledFor, hmap, he]
      rw [PortUnit.serveSlot, hcall]
      dsimp only
      rw [PortUnit.dueAt_eq]
      rfl

end Sys2Proof.Machine

/-! SUPPORT. A port's departures: the mark that is muted or leaves, and the replies of a group (R124, R125, R134 to
R139, R145, R146, R166). -/

namespace Sys2Proof.Machine

open Sys2Proof.Config Sys2Proof.Safety

/-! ### Departures whose instant has come, or not (R134, R135) -/

theorem State.isDue_iff {s : State} {d : Departure} {x : Elapsed} :
    s.isDue d x = true ↔ d.came = true ∨ 0 ≤ (s.reading x).diff d.due := by
  simp [State.isDue]

section Departures

variable {s : State} {p : Port} {x : Elapsed} {d : Departure} {rest : List Departure}

theorem exec_markDeparture_of_waiting (hd : s.ports[p].departures = d :: rest) (hw : s.isDue d x = false) :
    exec (.markDeparture p x) s = .next s := by
  simp only [exec, execMarkDeparture, hd]
  split
  · next h => cases h; simp [hw]
  · rfl

theorem exec_replyDeparture_of_waiting (hd : s.ports[p].departures = d :: rest) (hw : s.isDue d x = false)
    (n : Nat) : exec (.replyDeparture p n x) s = .next s := by
  simp only [exec, execReplyDeparture, hd]
  split
  · next h => cases h; simp [hw]
  · rfl

theorem exec_markDeparture (hs : s.ports[p].state = .serving) (hd : s.ports[p].departures = d :: rest)
    (hdue : s.isDue d x = true) {slot : Nat} (hw : d.what = .mark slot ∨ d.what = .state slot) :
    exec (.markDeparture p x) s = .next (s.departMark p slot (decide (d.what = .state slot)) x) := by
  simp only [exec, execMarkDeparture, hs, hd, if_pos hdue]
  rcases hw with hw | hw <;> simp [hw]

theorem exec_replyDeparture (hs : s.ports[p].state = .serving) (hd : s.ports[p].departures = d :: rest)
    (hdue : s.isDue d x = true) {taken : Option (List Answer)} (hw : d.what = .reply taken) (n : Nat) :
    exec (.replyDeparture p n x) s = .next (s.departReply p d taken n) := by
  simp only [exec, execReplyDeparture, hs, hd, if_pos hdue, hw]

end Departures

/-- With no reply to leave nothing is taken (log entry 19). -/
theorem exec_replyDeparture_zero (s : State) (p : Port) (x : Elapsed) :
    exec (.replyDeparture p 0 x) s = .next s := by
  simp only [exec, execReplyDeparture, State.departReply, if_pos]
  split
  · split_ifs
    · split <;> rfl
    · rfl
  · rfl

/-! ### Marks (R124, R125, R136 to R139) -/

/-- A mark closes the cycle when no mark stands after its slot (R125). -/
theorem closesCycle_eq (map : List SlotEntry) (slot : Nat) : closesCycle map slot =
    decide (SlotEntry.mark ∉ map.drop (slot + 1) ∧ SlotEntry.state ∉ map.drop (slot + 1)) := by
  rw [closesCycle, Bool.eq_iff_iff, Bool.not_eq_true', ← Bool.not_eq_true, any_isMark, decide_eq_true_iff, not_or]

/-- A mark whose class reaches the mute threshold does not leave (R139). -/
theorem State.departMark_of_muted {s : State} {p : Port} (h : s.ports[p].settings.mute ≤ s.outputClass) (slot : Nat)
    (isState : Bool) (x : Elapsed) : s.departMark p slot isState x = s.modPort p fun q =>
      { q with departures := q.departures.drop 1, counters := { q.counters with muted := q.counters.muted + 1 } } := by
  unfold State.departMark
  rw [if_pos h]
  exact State.modPort_modPort ..

/-- A departure's port, with the departure out of the queue. -/
def State.departed (s : State) (p : Port) : State :=
  s.modPort p fun q => { q with departures := q.departures.drop 1 }

/-- Another mark leaves, with its fields as they read with the departure out of the queue, and in a STATE the
trailer; the last of the map is reported (R136, R138, R189). -/
theorem State.departMark_of_sent {s : State} {p : Port} {slot : Nat} {isState : Prop} [Decidable isState]
    {x : Elapsed} {m : MarkFields} {trailer : Trailer} (h : ¬s.ports[p].settings.mute ≤ s.outputClass)
    (hm : (s.departed p).markFieldsAt p slot x = m) (ht : (s.departed p).trailerAt p slot = trailer) :
    s.departMark p slot (decide isState) x =
      let t := s.modPort p fun q =>
        { q with
          departures := q.departures.drop 1, seq := m.seq, openingSent := true
          sent := q.sent ++ [etherFrame (portAddress p) (if isState then .state m trailer else .mark m)]
          counters := { q.counters with
            marks := q.counters.marks + 1
            states := q.counters.states + if isState then 1 else 0 } }
      if m.closing then t.portReport p ⟨s.ports[p].cycle, .closed⟩ else t := by
  subst hm ht
  refine (if_neg h).trans ?_
  simp only [State.sendMark]
  rw [State.modPort_modPort, State.modPort_getElem]
  by_cases hst : isState
  · simp only [hst]
    rfl
  · simp only [hst, if_false, add_zero]
    rfl

section Fields

variable {s : State} {p : Port} {word : CycleWord}

/-- The fields of a mark as its map, its word and the station status give them (R124, R125, R136, R137). -/
theorem State.markFieldsAt_departed {map : List SlotEntry} (hmap : s.ports[p].map = some map)
    (hword : s.ports[p].word = some word) (slot : Nat) (x : Elapsed) : (s.departed p).markFieldsAt p slot x =
      { seconds := (s.reading x).sec, nanos := (s.reading x).ns
        correction := (s.reading x).fu + s.ports[p].settings.egress, seq := s.ports[p].seq + 1
        opening := !s.ports[p].openingSent
        closing := decide (SlotEntry.mark ∉ map.drop (slot + 1) ∧ SlotEntry.state ∉ map.drop (slot + 1))
        holdover := decide (s.steering.state = .holdover), untraceable := decide (s.outputClass = 7)
        cls := s.outputClass, word := word } := by
  simp only [State.markFieldsAt, State.departed, State.modPort_getElem, hmap, hword, closesCycle_eq]
  rfl

theorem State.trailerAt_departed (hword : s.ports[p].word = some word) (slot : Nat) :
    (s.departed p).trailerAt p slot =
      ⟨s.steering.state.code, s.selectedKind, s.presentedAge, s.steering.scale, word.plan.toNat, slot⟩ := by
  simp only [State.trailerAt, State.departed, State.modPort_getElem, hword]
  rfl

end Fields

/-! ### Replies (R145, R146) -/

/-- Settles O47: a mark muted or sent, a departure that waits, and the replies of a group. -/
theorem marksAndRepliesLeave : Obligations.MarksAndRepliesLeave := by
  unfold Obligations.MarksAndRepliesLeave
  refine ⟨?_, ?_, fun s p x => exec_replyDeparture_zero s p x, ?_⟩
  · intro s p x d slot rest map word hs hd hwhat hdue hmap hword q now
    rw [exec_markDeparture hs hd (State.isDue_iff.mpr hdue) hwhat]
    split_ifs with hmute
    · rw [State.departMark_of_muted hmute]
      refine congrArg _ (State.modPort_congr ?_)
      simp only [hd]
      rfl
    · intro closing m trailer isState t
      rw [State.departMark_of_sent hmute (State.markFieldsAt_departed hmap hword slot x)
        (State.trailerAt_departed hword slot)]
      refine congrArg (fun v : State => Host.Outcome.next
        (if closing = true then v.portReport p ⟨q.cycle, .closed⟩ else v)) (State.modPort_congr ?_)
      simp only [hd]
      rfl
  · intro s p n x d rest hd hcame hdiff
    have hw : s.isDue d x = false := by
      rw [← Bool.not_eq_true, State.isDue_iff]
      exact fun h => h.elim (by simp [hcame]) (by omega)
    exact ⟨exec_markDeparture_of_waiting hd hw, exec_replyDeparture_of_waiting hd hw n⟩
  · intro s p n x d taken rest h1 h4 hs hd hwhat hdue q group waiting
    rw [exec_replyDeparture hs hd (State.isDue_iff.mpr hdue) hwhat, State.departReply, if_neg (by omega)]
    refine congrArg _ (State.modPort_congr ?_)
    cases taken <;> simp only [List.isEmpty_iff, List.drop_eq_nil_iff, List.length_take, hd] <;> rfl

end Sys2Proof.Machine

/-! SUPPORT. What keeps a port's queues bounded, distinct, and empty unless it is SERVING (R130 to R135, R141, R144,
R145): the changes of one port, and every operation that changes a port. -/

namespace Sys2Proof.Machine

open Sys2Proof.Config Sys2Proof.Safety

/-! ### The queues of one port -/

/-- What tells an entry of the answer queue from another (R141). -/
def Answer.key (a : Answer) : Nat × Seq :=
  (a.requester, a.seq)

/-- The queues of a port within their bounds, the queries in them distinct, and both empty unless it is SERVING. -/
structure PortUnit.QueuesSound (q : PortUnit) : Prop where
  answers_le : q.answers.length ≤ 8
  distinct : (q.answers.map Answer.key).Nodup
  departures_le : q.departures.length ≤ 2
  idle : q.state ≠ .serving → q.answers = [] ∧ q.departures = []

theorem portSound_iff {s : State} {p : Port} : PortSound s p ↔ s.ports[p].QueuesSound :=
  ⟨fun ⟨ha, hk, hd, hi⟩ => ⟨ha, hk, hd, hi⟩, fun ⟨ha, hk, hd, hi⟩ => ⟨ha, hk, hd, hi⟩⟩

section QueuesSound

variable {q v : PortUnit}

/-- Queries and departures may leave, and a port may begin to serve; one that stops serving empties its queues. -/
theorem PortUnit.QueuesSound.mono (h : q.QueuesSound)
    (ha : (v.answers.map Answer.key).Sublist (q.answers.map Answer.key))
    (hd : v.departures.length ≤ q.departures.length) (hs : q.state = .serving → v.state = .serving) :
    v.QueuesSound := by
  have hlen : v.answers.length ≤ q.answers.length := by simpa using ha.length_le
  refine ⟨hlen.trans h.answers_le, ha.nodup h.distinct, hd.trans h.departures_le, fun hv => ?_⟩
  obtain ⟨hqa, hqd⟩ := h.idle (mt hs hv)
  rw [hqa] at hlen
  rw [hqd] at hd
  exact ⟨List.length_eq_zero_iff.mp (Nat.le_zero.mp hlen), List.length_eq_zero_iff.mp (Nat.le_zero.mp hd)⟩

theorem PortUnit.QueuesSound.of_same (h : q.QueuesSound) (ha : v.answers = q.answers)
    (hd : v.departures = q.departures) (hs : v.state = q.state) : v.QueuesSound :=
  h.mono (by rw [ha]) (by rw [hd]) (by rw [hs]; exact id)

theorem PortUnit.QueuesSound.of_empty (ha : v.answers = []) (hd : v.departures = []) : v.QueuesSound :=
  ⟨by simp [ha], by simp [ha], by simp [hd], fun _ => ⟨ha, hd⟩⟩

/-- A third departure is cancelled (R134). -/
theorem PortUnit.QueuesSound.schedule (h : q.QueuesSound) (hs : q.state = .serving) (d : Departure) :
    (q.schedule d).QueuesSound := by
  unfold PortUnit.schedule
  split_ifs with hroom
  · refine ⟨h.answers_le, h.distinct, ?_, fun hv => absurd hs hv⟩
    rw [List.length_append]
    exact hroom
  · exact h.of_same rfl rfl rfl

theorem PortUnit.QueuesSound.serveSlot (h : q.QueuesSound) (hs : q.state = .serving) (k n : Nat) (now : Stamp) :
    (q.serveSlot k n now).QueuesSound := by
  unfold PortUnit.serveSlot
  split
  · exact h.schedule hs _
  · exact h

/-- A query unlike those in the queue joins it while there is room (R141). -/
theorem PortUnit.QueuesSound.join (h : q.QueuesSound) (hs : q.state = .serving) {a : Answer}
    (hroom : q.answers.length < 8) (hnew : ∀ b ∈ q.answers, b.key ≠ a.key) :
    PortUnit.QueuesSound { q with answers := q.answers ++ [a] } := by
  refine ⟨?_, ?_, h.departures_le, fun hv => absurd hs hv⟩
  · rw [List.length_append]
    exact hroom
  · rw [List.map_append, List.map_singleton, ← List.concat_eq_append]
    exact h.distinct.concat (by simpa using hnew)

/-- Entries that grow older keep what tells them apart, and some expire (R144). -/
theorem PortUnit.ageAnswers_keys (q : PortUnit) :
    (q.ageAnswers.answers.map Answer.key).Sublist (q.answers.map Answer.key) := by
  have h := (List.filter_sublist (p := fun a : Answer => decide (a.remaining ≠ 0))
    (l := q.answers.map fun a => { a with remaining := a.remaining - 1 })).map Answer.key
  rw [List.map_map] at h
  exact h

theorem PortUnit.QueuesSound.serveCycle (h : q.QueuesSound) (n planId : Nat) (map : List SlotEntry) :
    (q.serveCycle n planId map).QueuesSound :=
  h.mono q.cancelDepartures.ageAnswers_keys (Nat.zero_le _) fun _ => rfl

theorem PortUnit.QueuesSound.linkUp (h : q.QueuesSound) : q.linkUp.QueuesSound := by
  refine h.mono (List.Sublist.refl _) le_rfl fun hs => ?_
  simp [PortUnit.linkUp, hs]

theorem PortUnit.QueuesSound.enable (h : q.QueuesSound) : q.enable.QueuesSound := by
  unfold PortUnit.enable
  split_ifs with hoff
  · exact h.mono (List.Sublist.refl _) le_rfl fun hs => by simp [hoff] at hs
  · exact h

theorem PortUnit.QueuesSound.disable (h : q.QueuesSound) : q.disable.QueuesSound := by
  unfold PortUnit.disable
  split_ifs
  · exact h
  · exact .of_empty rfl rfl

theorem PortUnit.QueuesSound.reach (h : q.QueuesSound) (now : Stamp) : (q.reach now).QueuesSound :=
  h.mono (List.Sublist.refl _) (by simp) id

end QueuesSound

/-! ### The queues of every port -/

/-- From `s` to `t` the queues of every port stay sound. -/
def KeepsQueues (s t : State) : Prop :=
  ∀ p : Port, s.ports[p].QueuesSound → t.ports[p].QueuesSound

section KeepsQueues

variable {s t v : State}

theorem KeepsQueues.refl (s : State) : KeepsQueues s s := fun _ => id

theorem KeepsQueues.trans (h : KeepsQueues s t) (h' : KeepsQueues t v) : KeepsQueues s v :=
  fun p => h' p ∘ h p

theorem KeepsQueues.of_ports (h : t.ports = s.ports) : KeepsQueues s t :=
  fun p => by rw [h]; exact id

theorem KeepsQueues.of_dispatch (h : t.dispatch = s.dispatch) : KeepsQueues s t :=
  .of_ports (congrArg Dispatch.ports h)

/-- What leaves the ports alone may come after, or before. -/
theorem KeepsQueues.then_dispatch (h : KeepsQueues s t) (hv : v.dispatch = t.dispatch) : KeepsQueues s v :=
  h.trans (.of_dispatch hv)

theorem KeepsQueues.after (h : KeepsQueues t v) (ht : t.ports = s.ports) : KeepsQueues s v :=
  (KeepsQueues.of_ports ht).trans h

theorem KeepsQueues.portsSound (h : KeepsQueues s t) (hs : PortsSound s) : PortsSound t :=
  fun p => portSound_iff.mpr (h p (portSound_iff.mp (hs p)))

theorem KeepsQueues.modPort {p : Port} {f : PortUnit → PortUnit}
    (h : s.ports[p].QueuesSound → (f s.ports[p]).QueuesSound) : KeepsQueues s (s.modPort p f) := by
  intro w
  rw [State.modPort_ports, getElem_set_apply]
  split_ifs with hw
  · subst hw
    exact h
  · exact id

/-- A change of one port that touches neither queue. -/
theorem KeepsQueues.modPort_same {p : Port} {f : PortUnit → PortUnit}
    (ha : (f s.ports[p]).answers = s.ports[p].answers) (hd : (f s.ports[p]).departures = s.ports[p].departures)
    (hs : (f s.ports[p]).state = s.ports[p].state) : KeepsQueues s (s.modPort p f) :=
  .modPort fun h => h.of_same ha hd hs

theorem KeepsQueues.of_reach {now : Stamp} (h : t.ports = s.ports.map fun q => q.reach now) : KeepsQueues s t := by
  intro p hp
  simpa [h] using hp.reach now

end KeepsQueues

section Operations

variable (s : State)

/-! ### Cycle timer and plan store (chapter 6) -/

theorem State.startCycle_ports (n : Nat) (instant : Stamp) : (s.startCycle n instant).ports = s.ports := by
  obtain ⟨v, hv, -⟩ := (s.begun n).countRequests_both
  rw [State.startCycle_eq, hv, State.begun_frame]
  rfl

theorem State.startSlot_ports (k : Nat) (instant : Stamp) : (s.startSlot k instant).ports = s.ports := by
  unfold State.startSlot
  split <;> rfl

theorem State.runArmPlan_ports (r : Running) (bank planId : Nat) :
    (s.runArmPlan r bank planId).ports = s.ports := by
  unfold State.runArmPlan
  split
  · rfl
  · split
    · rfl
    · split_ifs
      · rfl
      · rfl
      · split <;> rfl

theorem State.checkedWrite_keepsQueues {s k : State} (hk : KeepsQueues s k) (r : Running) (sect index : Nat) :
    KeepsQueues s (s.checkedWrite r sect index k) := by
  rcases s.checkedWrite_cases r sect index k with ⟨-, h⟩ | ⟨-, -, h⟩ | ⟨-, h⟩ <;> rw [h]
  · exact .of_ports rfl
  · exact .of_ports rfl
  · exact hk

theorem State.runDisarmPlan_keepsQueues (r : Running) : KeepsQueues s (s.runDisarmPlan r) := by
  refine State.checkedWrite_keepsQueues (.of_ports ?_) r 5 514
  split <;> rfl

/-! ### Distribution ports (chapter 7) -/

theorem State.portCycle_keepsQueues (p : Port) (n : Nat) (named : Option (BankName × Nat)) :
    KeepsQueues s (s.portCycle p n named) := by
  cases hs : s.ports[p].serves named with
  | false =>
    rw [State.portCycle_of_not_serves hs]
    exact (KeepsQueues.modPort_same rfl rfl rfl).then_dispatch (State.portReport_dispatch _ _ _)
  | true =>
    obtain ⟨⟨nm, planId⟩, rfl⟩ := Option.isSome_iff_exists.mp (PortUnit.serves_iff.mp hs).1
    rw [State.portCycle_of_serves hs n rfl rfl]
    refine KeepsQueues.then_dispatch ?_ (State.portReport_dispatch _ _ _)
    have hserved : KeepsQueues s (s.modPort p fun _ =>
        (s.ports[p].serveCycle n planId (s.plans.bank nm).maps[p]).serveSlot 0 n s.timebase.time.stamp) :=
      .modPort fun h => (h.serveCycle n planId _).serveSlot rfl 0 n _
    split_ifs
    · exact hserved.then_dispatch (State.logFault_dispatch _ _ _ _ _)
    · exact hserved

theorem State.takePortCycle_keepsQueues (p : Port) : KeepsQueues s (s.takePortCycle p) := by
  unfold State.takePortCycle
  split
  · exact KeepsQueues.after (State.portCycle_keepsQueues _ p _ _) (State.modFlight_ports ..)
  · exact .refl s

/-- The mark's departure leaves the queue, whether the mark is muted or sent (R136, R139). -/
theorem State.departMark_keepsQueues (p : Port) (slot : Nat) (isState : Bool) (x : Elapsed) :
    KeepsQueues s (s.departMark p slot isState x) := by
  have hdrop : KeepsQueues s (s.departed p) :=
    .modPort fun h => h.mono (List.Sublist.refl _) (by simp) id
  have hsend : KeepsQueues (s.departed p) ((s.departed p).sendMark p slot isState x) := by
    unfold State.sendMark
    dsimp only
    split
    · exact (KeepsQueues.modPort_same rfl rfl rfl).then_dispatch (State.portReport_dispatch _ _ _)
    · exact .modPort_same rfl rfl rfl
  unfold State.departMark
  dsimp only
  split
  · exact hdrop.trans (.modPort_same rfl rfl rfl)
  · exact hdrop.trans hsend

/-- A group begun leaves the answer queue, and stands in its departure's place until its last reply (R145). -/
theorem State.departReply_keepsQueues {p : Port} {d : Departure} {rest : List Departure}
    (hd : s.ports[p].departures = d :: rest) (taken : Option (List Answer)) (n : Nat) :
    KeepsQueues s (s.departReply p d taken n) := by
  unfold State.departReply
  dsimp only
  split
  · exact .refl s
  · refine .modPort fun h => h.mono ?_ ?_ id
    · dsimp only
      split_ifs
      · exact (List.drop_sublist _ _).map _
      · exact List.Sublist.refl _
    · rw [hd]
      split_ifs <;> simp

/-- A query known is counted, one for which there is room joins the queue, any other is an overrun (R141, R142). -/
theorem State.takeQuery_keepsQueues {p : Port} (hs : s.ports[p].state = .serving) (requester : Nat) (seq : Seq)
    (arrival : Stamp) : KeepsQueues s (s.takeQuery p requester seq arrival) := by
  unfold State.takeQuery
  dsimp only
  split_ifs with hknown hroom
  · exact .modPort_same rfl rfl rfl
  · refine .modPort fun h => (h.join hs hroom fun b hb hkey => hknown ?_).of_same rfl rfl rfl
    obtain ⟨hrequester, hseq⟩ := Prod.mk.inj hkey
    exact List.any_eq_true.mpr ⟨b, hb, by simp [hrequester, hseq]⟩
  · exact .modPort_same rfl rfl rfl
  · exact (KeepsQueues.modPort_same rfl rfl rfl).then_dispatch (State.logFault_dispatch _ _ _ _ _)

theorem State.portDown_keepsQueues (p : Port) : KeepsQueues s (s.portDown p) := by
  unfold State.portDown
  dsimp only
  split_ifs
  · exact .refl s
  · exact (KeepsQueues.modPort fun _ => .of_empty rfl rfl).then_dispatch (State.logFault_dispatch _ _ _ _ _)
  · exact .modPort_same rfl rfl rfl

theorem State.runClearPortFlags_keepsQueues (r : Running) (numbers : List Nat) :
    KeepsQueues s (s.runClearPortFlags r numbers) := by
  have cleared (l : List Port) (v : State) :
      KeepsQueues v (l.foldl (fun v p => v.modPort p fun q => { q with overrun := false }) v) := by
    induction l generalizing v with
    | nil => exact .refl v
    | cons p l ih => exact (KeepsQueues.modPort_same rfl rfl rfl).trans (ih _)
  unfold State.runClearPortFlags
  dsimp only
  split_ifs
  on_goal 5 => exact (cleared _ s).then_dispatch (State.respond_dispatch _ _ _ _)
  all_goals exact .of_ports rfl

/-! ### Steps (chapter 1) -/

theorem State.runStepTime_keepsQueues (r : Running) (sec ns : Int) (x : Elapsed) :
    KeepsQueues s (s.runStepTime r sec ns x) := by
  obtain ⟨v, st, p, h, rfl | rfl⟩ := s.runStepTime_cases r sec ns x <;> rw [h]
  · exact .of_ports rfl
  · exact (KeepsQueues.of_reach (s.applyStep_ports ..)).then_dispatch (State.respond_dispatch _ _ _ _)

/-! ### Entry writes (R115, R128, R132, R178) -/

theorem State.storeEntry_keepsQueues (value : List Byte) (sect index : Nat) :
    (s.storeEntry sect index value).Forall (KeepsQueues s) := by
  by_cases hplans : sect = 5
  · subst hplans
    show (s.writePlans index value).Forall _
    unfold State.writePlans State.writeMap
    split
    · split
      · trivial
      · split
        · trivial
        · exact (Stored.forall_store _ _).mpr (.of_ports rfl)
    · split
      · exact forall_storeNat.mpr fun _ _ => .of_ports rfl
      · trivial
  by_cases hports : sect = 6
  · subst hports
    show (s.writePorts index value).Forall _
    unfold State.writePorts State.writePort
    dsimp only
    split
    · split
      case h_1 =>
        refine forall_storeEnum.mpr fun b _ _ => .modPort fun h => ?_
        split
        · exact h.enable
        · exact h.disable
      case h_7 => trivial
      all_goals exact forall_storeNat.mpr fun _ _ => .modPort_same rfl rfl rfl
    · trivial
  exact (s.storeEntry_dispatch value hplans hports index).mono fun _ => .of_dispatch

theorem State.writeAs_keepsQueues (row : WriteRow) : KeepsQueues s (s.writeAs row) := by
  rcases s.writeAs_cases row with h | ⟨r, sect, index, value, -, -, h⟩ <;> rw [h]
  · exact .refl s
  · exact State.runWriteEntry_induct (.refl s) (s.storeEntry_keepsQueues value sect index) fun _ _ _ ht =>
      ht.then_dispatch (State.respond_dispatch _ _ _ _)

/-! ### Service reset (R151, R183) -/

theorem State.resetBlock_keepsQueues (done : List ResetBlock) (b : ResetBlock) :
    KeepsQueues s (s.resetBlock done b) := by
  intro p
  rw [(s.resetBlock_reset done b).port p]
  split_ifs
  · exact fun _ => .of_empty rfl rfl
  · exact id

theorem State.runServiceReset_keepsQueues (r : Running) (blocks : List ResetBlock) :
    KeepsQueues s (s.runServiceReset r blocks) := by
  have hb : KeepsQueues s (s.resetBlocks r.resetTaken blocks).1 :=
    State.resetBlocks_induct (P := fun v _ => KeepsQueues s v) s r.resetTaken blocks (.refl s)
      fun v d b hv _ => hv.trans (v.resetBlock_keepsQueues d b)
  unfold State.runServiceReset
  dsimp only
  generalize s.resetBlocks r.resetTaken blocks = out at hb
  have hgo : KeepsQueues s (if resetComplete out.2 then out.1.finishReset r
      else { out.1 with executor := { out.1.executor with running := some { r with resetTaken := out.2 } } }) := by
    refine hb.trans (.of_ports ?_)
    split <;> rfl
  split
  · exact State.checkedWrite_keepsQueues hgo r 1 0
  · exact hgo

end Operations

/-! ### Every command -/

theorem State.onCommand_keepsQueues {s : State} {f : Running → Command → Option State}
    (hf : ∀ r c t, f r c = some t → KeepsQueues s t) : KeepsQueues s (s.onCommand f) := by
  rcases s.onCommand_cases f with h | ⟨r, t, -, h, h'⟩
  · rw [h]; exact .refl s
  · rw [h']; exact hf r _ t h

theorem KeepsQueues.powerOn (s : State) (strap : Level) (ups : Vector LinkLevel 2) (links : Vector LinkLevel 6)
    (pending : List Instr) : KeepsQueues s (State.powerOn strap ups links pending) :=
  fun p _ => portSound_iff.mp (powerOn_portsSound strap ups links pending p)

/-- Every command that may change the plan store, a port, or what is on its way to one keeps the queues sound. -/
theorem exec_keepsQueues {c : Instr} {s t : State} (hc : movesDispatch c = true) (h : exec c s = .next t) :
    KeepsQueues s t := by
  cases c <;> cases hc
  case stepRequestApplied x =>
    simp only [exec, execStepRequestApplied] at h
    split at h <;> cases h
    · exact .refl s
    · exact .of_reach (State.applyStep_ports ..)
  all_goals cases h
  case powerOnReset strap ups links => exact .powerOn s strap ups links _
  case oscillatorTick => exact .of_reach s.tick_ports
  case rateLimitWrite | pairingModeWrite | autoRateArmWrite | sourceEnable | sourceDisable |
      autoUpgradeWrite | programmedClassWrite | steeringOptionsWrite | portMapWrite | epochLengthWrite |
      portEnable | portDisable | writeEntry | accessTableWrite | guardEntryWrite | noticeMaskWrite |
      nestModeWrite => exact s.writeAs_keepsQueues _
  -- commands of the executor
  case stepTime x =>
    refine State.onCommand_keepsQueues fun r c t hf => ?_
    split at hf <;> cases hf
    exact s.runStepTime_keepsQueues r _ _ x
  case armPlan =>
    refine State.onCommand_keepsQueues fun r c t hf => ?_
    split at hf <;> cases hf
    exact .of_ports (s.runArmPlan_ports r _ _)
  case disarmPlan =>
    refine State.onCommand_keepsQueues fun r c t hf => ?_
    split at hf <;> cases hf
    exact s.runDisarmPlan_keepsQueues r
  case clearPortFlags =>
    refine State.onCommand_keepsQueues fun r c t hf => ?_
    split at hf <;> cases hf
    exact s.runClearPortFlags_keepsQueues r _
  case serviceReset blocks =>
    refine State.onCommand_keepsQueues fun r c t hf => ?_
    split at hf <;> cases hf
    exact s.runServiceReset_keepsQueues r blocks
  -- the cycle timer changes no port
  case cycleStart =>
    split
    · exact .of_ports (State.startCycle_ports _ _ _)
    · exact .refl s
  case slotStart =>
    split
    · exact .of_ports (State.startSlot_ports _ _ _)
    · exact .refl s
  case cycleCut => split <;> exact .of_ports rfl
  -- the ports
  case portCycleStart p => exact s.takePortCycle_keepsQueues p
  case answerEntryExpiry p =>
    split
    · exact s.takePortCycle_keepsQueues p
    · exact .refl s
  case portSlotStart p =>
    split
    · dsimp only
      split
      · next hs => exact KeepsQueues.after (.modPort fun h => h.serveSlot hs.1 _ _ _) (State.modFlight_ports ..)
      · exact .of_ports rfl
    · exact .refl s
  case markDeparture p x =>
    split
    · split
      · split
        · exact s.departMark_keepsQueues _ _ _ _
        · exact s.departMark_keepsQueues _ _ _ _
        · exact .refl s
      · exact .refl s
    · exact .refl s
  case replyDeparture p n x =>
    split
    · next hd =>
      split
      · split
        · exact s.departReply_keepsQueues hd _ _
        · exact .refl s
      · exact .refl s
    · exact .refl s
  case queryReceived p bytes x =>
    split
    · next hs _ => exact s.takeQuery_keepsQueues hs _ _ _
    · exact .refl s
  case portUnexpectedFrame p bytes =>
    split
    · exact .modPort_same rfl rfl rfl
    · exact .refl s
    · exact .modPort_same rfl rfl rfl
    · exact .refl s
  case portCut p =>
    split
    · dsimp only
      split
      · exact KeepsQueues.after (.modPort fun h => h.mono (List.Sublist.refl _) (Nat.zero_le _) id)
          (State.modFlight_ports ..)
      · exact .of_ports rfl
    · exact .refl s
  case portLinkDown p => exact s.portDown_keepsQueues p
  case portLinkUp p => exact .modPort PortUnit.QueuesSound.linkUp

/-- Settles O11: a command leaves every port alone, or is one of those that keep the queues of each sound. -/
theorem portQueuesStayBounded : Obligations.PortQueuesStayBounded := by
  intro s t hs h
  rcases step_cases h with ⟨-, rfl⟩ | ⟨c, rest, -, hexec⟩
  · exact hs
  · cases hc : movesDispatch c
    · exact (KeepsQueues.of_dispatch (exec_dispatch hc hexec)).portsSound hs
    · exact (exec_keepsQueues hc hexec).portsSound hs

end Sys2Proof.Machine

/-! SUPPORT. Frames and cuts at a port: queries by what the answer queue holds, the frames that are counted, and the
cut of a cycle (R135, R140 to R142). -/

namespace Sys2Proof.Machine

open Sys2Proof.Config Sys2Proof.Safety

section Queries

variable {s : State} {p : Port} {bytes : List Byte}

/-! ### Queries (R141, R142) -/

/-- A query is known while an entry of its requester and sequence waits (R141). -/
def PortUnit.Knows (q : PortUnit) (requester : Nat) (seq : Seq) : Prop :=
  ∃ a ∈ q.answers, a.requester = requester ∧ a.seq = seq

theorem PortUnit.knows_iff {q : PortUnit} {requester : Nat} {seq : Seq} : q.Knows requester seq ↔
    (q.answers.any fun a => decide (a.requester = requester) && decide (a.seq = seq)) = true := by
  simp [PortUnit.Knows]

theorem exec_queryReceived {r : Nat} {q : Seq} (hs : s.ports[p].state = .serving)
    (hf : readFrame bytes = some (.query r q)) (x : Elapsed) :
    exec (.queryReceived p bytes x) s = .next (s.takeQuery p r q (s.reading x)) := by
  simp only [exec, execQueryReceived, hs, hf]

section TakeQuery

variable {requester : Nat} {seq : Seq}

theorem State.takeQuery_of_knows (h : s.ports[p].Knows requester seq) (arrival : Stamp) :
    s.takeQuery p requester seq arrival =
      s.modPort p fun q => q.count fun c => { c with duplicates := c.duplicates + 1 } :=
  if_pos (PortUnit.knows_iff.mp h)

theorem State.takeQuery_of_room (h : ¬s.ports[p].Knows requester seq) (hroom : s.ports[p].answers.length < 8)
    (arrival : Stamp) : s.takeQuery p requester seq arrival =
      s.modPort p fun q => { q.count (fun c => { c with taken := c.taken + 1 }) with
        answers := q.answers ++ [⟨requester, seq, arrival.plus (-(q.settings.ingress : Int)), 2⟩] } :=
  (if_neg (mt PortUnit.knows_iff.mpr h)).trans (if_pos hroom)

theorem State.takeQuery_of_full (h : ¬s.ports[p].Knows requester seq) (hfull : 8 ≤ s.ports[p].answers.length)
    (arrival : Stamp) : s.takeQuery p requester seq arrival =
      let t := s.modPort p fun q =>
        { q.count (fun c => { c with overruns := c.overruns + 1 }) with overrun := true }
      if s.ports[p].overrun then t else t.logFault (.port p) 48 (portNumber p) s.cycleDetail :=
  (if_neg (mt PortUnit.knows_iff.mpr h)).trans (if_neg (Nat.not_lt.mpr hfull))

end TakeQuery

/-- The faults logged are handed on behind those on their way. -/
def State.withFaults (s : State) (log : List (FaultOrigin × FaultEntry)) : State :=
  { s with flight := { s.flight with faults := s.flight.faults ++ log } }

theorem State.withFaults_nil (s : State) : s.withFaults [] = s := by
  rw [State.withFaults, List.append_nil]

/-! ### Frames counted, and frames not taken (R140, R141) -/

theorem exec_portUnexpectedFrame_of_bad (hs : s.ports[p].state = .serving) (hf : readFrame bytes = none) :
    exec (.portUnexpectedFrame p bytes) s =
      .next (s.modPort p fun q => q.count fun c => { c with badFrames := c.badFrames + 1 }) := by
  simp only [exec, execPortUnexpectedFrame, hs, hf]

theorem exec_portUnexpectedFrame_of_other {f : Frame} (hs : s.ports[p].state = .serving)
    (hf : readFrame bytes = some f) (hquery : ∀ r q, f ≠ .query r q) :
    exec (.portUnexpectedFrame p bytes) s =
      .next (s.modPort p fun q => q.count fun c => { c with unexpected := c.unexpected + 1 }) := by
  cases f with
  | query r q => exact absurd rfl (hquery r q)
  | mark | state | reply => simp only [exec, execPortUnexpectedFrame, hs, hf]

theorem exec_frame_of_not_serving (hs : s.ports[p].state ≠ .serving) (x : Elapsed) :
    exec (.queryReceived p bytes x) s = .next s ∧ exec (.portUnexpectedFrame p bytes) s = .next s := by
  simp only [exec, execQueryReceived, execPortUnexpectedFrame]
  constructor
  · split
    · next h _ => exact absurd h hs
    · rfl
  · split
    · next h _ => exact absurd h hs
    · rfl
    · next h _ => exact absurd h hs
    · rfl

/-! ### The cut (R112, R135) -/

theorem exec_portCut {rest : List PortEvent} (h : s.flight.toPort[p] = .cut :: rest) :
    exec (.portCut p) s = .next ((s.portTook p rest).modPort p fun q =>
      if q.state = .serving then q.cancelDepartures else q) := by
  have ht : (s.portTook p rest).ports[p] = s.ports[p] := rfl
  simp only [exec, execPortCut, h]
  refine congrArg Host.Outcome.next ?_
  split_ifs with hs
  · exact State.modPort_congr (if_pos hs).symm
  · refine (State.modPort_same (s.portTook p rest) p).symm.trans (State.modPort_congr ?_)
    rw [ht, if_neg hs]

end Queries

/-- Settles O48: a query by what the answer queue holds, then the other frames, then the cut. -/
theorem queriesAndCutsAtPorts : Obligations.QueriesAndCutsAtPorts := by
  unfold Obligations.QueriesAndCutsAtPorts
  refine ⟨?_, ?_, ?_⟩
  · intro s p bytes r sq x hs hf q becomes known
    have becomes_of {v : PortUnit} {log : List (FaultOrigin × FaultEntry)}
        (h : s.takeQuery p r sq (s.reading x) = (s.withFaults log).modPort p fun _ => v) : becomes v log :=
      (exec_queryReceived hs hf x).trans (congrArg _ h)
    refine ⟨fun hk => becomes_of ?_, fun hk hroom => becomes_of ?_, fun hk hfull => becomes_of ?_⟩
    · rw [State.takeQuery_of_knows hk, State.withFaults_nil]
      rfl
    · rw [State.takeQuery_of_room hk hroom, State.withFaults_nil]
      rfl
    · rw [State.takeQuery_of_full hk hfull]
      dsimp only
      split_ifs
      · rw [State.withFaults_nil]
        rfl
      · rfl
  · intro s p bytes x counted
    exact ⟨exec_portUnexpectedFrame_of_bad, fun f => exec_portUnexpectedFrame_of_other,
      fun hs => exec_frame_of_not_serving hs x⟩
  · intro s p rest h q taken
    exact exec_portCut h

end Sys2Proof.Machine

/-! SUPPORT. A port enabled and disabled, its link's changes, the writes of its settings, and CLEAR PORT FLAGS check by
check (R128, R130 to R132, R147 to R149, R178). -/

namespace Sys2Proof.Machine

open Sys2Proof.Config Sys2Proof.Safety

/-! ### The queues emptied (R130, R132) -/

/-- A port whose departures are cancelled and whose queries are dropped, both counted. -/
def PortUnit.emptied (q : PortUnit) : PortUnit :=
  { q with
    departures := [], answers := []
    counters := { q.counters with
      cancelled := q.counters.cancelled + BitVec.ofNat 32 (q.departures.map Departure.cancelCount).sum
      dropped := q.counters.dropped + BitVec.ofNat 32 q.answers.length } }

theorem PortUnit.emptied_eq (q : PortUnit) : q.cancelDepartures.dropAnswers = q.emptied := rfl

/-- An ARMED or SERVING port whose link is lost (R130). -/
def PortUnit.linkLost (q : PortUnit) : PortUnit :=
  { q.emptied with
    state := .down, link := .down
    counters := { q.emptied.counters with linkLosses := q.counters.linkLosses + 1 } }

theorem PortUnit.linkLost_eq (q : PortUnit) :
    { q.cancelDepartures.dropAnswers.count (fun c => { c with linkLosses := c.linkLosses + 1 }) with
      state := .down, link := .down } = q.linkLost := by
  rw [q.emptied_eq]
  rfl

/-! ### The write of the enabled field (R128, R132, R178) -/

section Writes

variable {s : State} {r : Running} {p : Port}

theorem writeRow_port (p : Port) {off : Nat} (h : off < 32) (value : List Byte) :
    writeRow 6 (32 * p.val + off) value =
      if off = 0 then enabledRow .portEnable .portDisable value else .writeEntry := by
  have := p.isLt
  have h1 : (32 * p.val + off) / 32 < 6 := by omega
  have h2 : (32 * p.val + off) % 32 = off := by omega
  simp [writeRow, h1, h2]

/-- A permitted write of the enabled field enables, disables, or is refused; its answer reads the state back. -/
theorem exec_portEnabledWrite {c : Instr} {row : WriteRow} {value : List Byte}
    (hc : exec c s = .next (s.writeAs row)) (hrow : enabledRow .portEnable .portDisable value = row)
    (hv : Runs s r (.writeEntry 6 (32 * p.val) value)) (hp : Permitted s r 6 (32 * p.val)) :
    exec c s = .next (match storeEnum 2 value fun n => s.modPort p fun q => if n = 1 then q.enable else q.disable with
      | .readOnly => s.respond r .refused []
      | .refuse st => s.respond r st []
      | .store t clamped => t.respond r (if clamped then .okClamped else .ok)
          (encBool (decide (t.ports[p].state ≠ .off)))) := by
  have hread (t : State) : t.readEntry 6 (32 * p.val) 0 = some (encBool (decide (t.ports[p].state ≠ .off))) :=
    t.readEntry_port p (off := 0) (by decide) 0
  have hs : s.storeEntry 6 (32 * p.val) value =
      storeEnum 2 value fun n => s.modPort p fun q => if n = 1 then q.enable else q.disable :=
    s.storeEntry_port p (off := 0) (by decide) value
  have hw : writeRow 6 (32 * p.val) value = row := (writeRow_port p (off := 0) (by decide) value).trans hrow
  rw [hc, State.writeAs_of_runs hv hw, State.runWriteEntry_of_mayWrite (mayWrite_of_permitted hp) (by decide)
    (by rw [hread]; exact Option.some_ne_none _), hs]
  unfold State.valueAt
  simp only [hread, Option.getD_some]
  rfl

theorem PortUnit.enable_eq (q : PortUnit) :
    q.enable = { q with state := if q.state = .off then .armed else q.state } := by
  unfold PortUnit.enable
  split_ifs <;> rfl

theorem PortUnit.enable_state_ne_off (q : PortUnit) : q.enable.state ≠ .off := by
  unfold PortUnit.enable
  split_ifs with h
  · exact nofun
  · exact h

theorem PortUnit.disable_eq (q : PortUnit) : q.disable =
    if q.state = .off then q
    else { q.emptied with
      state := .off, overrun := false, map := none, word := none, trimmed := false, openingSent := false } := by
  rw [PortUnit.disable, q.emptied_eq]

theorem PortUnit.disable_state (q : PortUnit) : q.disable.state = .off := by
  unfold PortUnit.disable
  split_ifs with h
  · exact h
  · rfl

/-- A write of the enabled field that is stored, answered as the port then stands. -/
theorem exec_portEnabledWrite_stored {c : Instr} {row : WriteRow} {value : List Byte} {f : PortUnit → PortUnit}
    {b : Bool} (hc : exec c s = .next (s.writeAs row)) (hrow : enabledRow .portEnable .portDisable value = row)
    (hs : storeEnum 2 value (fun n => s.modPort p fun q => if n = 1 then q.enable else q.disable) =
      .store (s.modPort p f) false)
    (hb : decide ((f s.ports[p]).state ≠ .off) = b)
    (hv : Runs s r (.writeEntry 6 (32 * p.val) value)) (hp : Permitted s r 6 (32 * p.val)) :
    exec c s = .next ((s.modPort p f).respond r .ok (encBool b)) := by
  rw [exec_portEnabledWrite hc hrow hv hp, hs]
  dsimp only
  rw [State.modPort_getElem, hb]
  rfl

theorem exec_portEnable (hv : Runs s r (.writeEntry 6 (32 * p.val) [1#8])) (hp : Permitted s r 6 (32 * p.val)) :
    exec .portEnable s = .next ((s.modPort p PortUnit.enable).respond r .ok [1#8]) :=
  exec_portEnabledWrite_stored (row := .portEnable) (f := PortUnit.enable) (b := true) rfl rfl rfl
    (decide_eq_true (PortUnit.enable_state_ne_off _)) hv hp

theorem exec_portDisable (hv : Runs s r (.writeEntry 6 (32 * p.val) [0#8])) (hp : Permitted s r 6 (32 * p.val)) :
    exec .portDisable s = .next ((s.modPort p PortUnit.disable).respond r .ok [0#8]) :=
  exec_portEnabledWrite_stored (row := .portDisable) (f := PortUnit.disable) (b := false) rfl rfl rfl
    (decide_eq_false (not_not.mpr (PortUnit.disable_state _))) hv hp

/-- A value that is neither NO nor YES is not stored (R178). -/
theorem storeEnum_two_of_ne {value : List Byte} (h0 : value ≠ [0#8]) (h1 : value ≠ [1#8]) (f : Nat → State) :
    storeEnum 2 value f = .refuse .badValue := by
  unfold storeEnum
  split
  · next b =>
    refine if_neg fun hb => ?_
    have hb' : b = 0#8 ∨ b = 1#8 := by bv_omega
    rcases hb' with rfl | rfl
    · exact h0 rfl
    · exact h1 rfl
  · rfl

theorem exec_portEnabledWrite_bad {value : List Byte} (h0 : value ≠ [0#8]) (h1 : value ≠ [1#8])
    (hv : Runs s r (.writeEntry 6 (32 * p.val) value)) (hp : Permitted s r 6 (32 * p.val)) :
    exec .writeEntry s = .next (s.respond r .badValue []) := by
  have hrow : enabledRow .portEnable .portDisable value = .writeEntry := (if_neg h1).trans (if_neg h0)
  rw [exec_portEnabledWrite (row := .writeEntry) rfl hrow hv hp, storeEnum_two_of_ne h0 h1]

/-! ### The settings (R148, R149) -/

/-- A numeric setting of a port, from how it is stored and read. -/
theorem portSetting_numericWrite {off bytes lo hi : Nat} {f : Nat → PortSettings → PortSettings} (h0 : off ≠ 0)
    (h : off < 32) (hb : fieldWidth lo hi = bytes) (hlh : lo ≤ hi)
    (hs : ∀ value, s.writePort p off value =
      storeNat lo hi value fun n => s.modPort p fun q => { q with settings := f n q.settings })
    (hr : ∀ (q : PortUnit) (n : Nat), { q with settings := f n q.settings }.read off = some (beBytes bytes n))
    (hl : s.ports[p].read off ≠ none) :
    NumericWrite .writeEntry s r 6 (32 * p.val + off) bytes lo hi fun m =>
      s.modPort p fun _ => { s.ports[p] with settings := f m.toNat s.ports[p].settings } := by
  refine numericWrite_of_storeNum (row := .writeEntry) rfl
    (fun value => (writeRow_port p h value).trans (if_neg h0)) (by omega) (by rwa [State.readEntry_port _ _ h]) hb
    (by exact_mod_cast hlh) (fun value => (s.storeEntry_port p h value).trans (hs value)) fun m hm _ => ?_
  lift m to Nat using by omega
  rw [State.readEntry_port _ _ h, State.modPort_getElem, hr, if_neg (by omega)]

end Writes

/-! ### Links (R130, R131) -/

theorem exec_portLinkDown_of_active {s : State} {p : Port} (hl : s.ports[p].link = .up)
    (hs : s.ports[p].state = .armed ∨ s.ports[p].state = .serving) :
    exec (.portLinkDown p) s = .next
      ((s.modPort p PortUnit.linkLost).logFault (.port p) 49 (portNumber p) s.cycleDetail) := by
  have hup : s.ports[p].link ≠ .down := by rw [hl]; exact nofun
  simp only [exec, execPortLinkDown, State.portDown, if_neg hup, if_pos hs]
  exact congrArg (fun v : State => Host.Outcome.next (v.logFault (.port p) 49 (portNumber p) s.cycleDetail))
    (State.modPort_congr (PortUnit.linkLost_eq _))

theorem exec_portLinkDown_of_inactive {s : State} {p : Port} (hl : s.ports[p].link = .up)
    (hs : ¬(s.ports[p].state = .armed ∨ s.ports[p].state = .serving)) :
    exec (.portLinkDown p) s = .next (s.modPort p fun q => { q with link := .down }) :=
  congrArg Host.Outcome.next ((if_neg (by rw [hl]; exact nofun)).trans (if_neg hs))

/-! ### CLEAR PORT FLAGS (R147) -/

theorem portOf_eq_none {n : Nat} : portOf n = none ↔ n = 0 ∨ 6 < n := by
  unfold portOf
  split
  · exact iff_of_false (Option.some_ne_none _) (by omega)
  · exact iff_of_true rfl (by omega)

theorem portOf_portNumber (p : Port) : portOf (portNumber p) = some p := by
  have := p.isLt
  rw [portOf, dif_pos (by unfold portNumber; omega)]
  rfl

/-- Some number named is no port's exactly when fewer ports than numbers are named. -/
theorem length_filterMap_portOf_ne {numbers : List Nat} :
    (numbers.filterMap portOf).length ≠ numbers.length ↔ ∃ n ∈ numbers, n = 0 ∨ 6 < n := by
  rw [Ne, List.filterMap_length_eq_length]
  simp only [not_forall, Bool.not_eq_true, Option.isSome_eq_false_iff, Option.isNone_iff_eq_none, portOf_eq_none,
    exists_prop]

/-- Numbers that are all ports' are the numbers of a list of ports. -/
theorem exists_ports_of_numbers {numbers : List Nat} (h : ¬∃ n ∈ numbers, n = 0 ∨ 6 < n) :
    ∃ l : List Port, numbers = l.map portNumber := by
  induction numbers with
  | nil => exact ⟨[], rfl⟩
  | cons n ns ih =>
    simp only [List.mem_cons, exists_eq_or_imp, not_or] at h
    obtain ⟨⟨hn0, hn6⟩, hns⟩ := h
    obtain ⟨l, rfl⟩ := ih hns
    refine ⟨⟨n - 1, by omega⟩ :: l, ?_⟩
    rw [List.map_cons, portNumber]
    congr 1
    dsimp only
    omega

theorem filterMap_portOf_portNumber (l : List Port) : (l.map portNumber).filterMap portOf = l := by
  rw [List.filterMap_map, show portOf ∘ portNumber = some from funext portOf_portNumber, List.filterMap_some]

/-- The overrun flag of every port named is cleared, and nothing else moves. -/
theorem State.foldl_clearOverrun (l : List Port) (s : State) :
    l.foldl (fun v p => v.modPort p fun q => { q with overrun := false }) s =
      { s with ports := Vector.ofFn fun p =>
          if p ∈ l then { s.ports[p] with overrun := false } else s.ports[p] } := by
  induction l generalizing s with
  | nil => simp
  | cons p l ih =>
    rw [List.foldl_cons, ih]
    refine congrArg (fun v => ({ s with ports := v } : State)) (congrArg Vector.ofFn (funext fun w => ?_))
    have hw : (s.modPort p fun q => { q with overrun := false }).ports[w] =
        if p = w then { s.ports[w] with overrun := false } else s.ports[w] :=
      getElem_set_apply s.ports p w fun q => { q with overrun := false }
    rw [hw]
    by_cases hpw : p = w
    · subst hpw
      simp
    · simp [hpw, Ne.symm hpw]

section ClearFlags

variable {s : State} {r : Running}

theorem exec_clearPortFlags {numbers : List Nat} (h : Runs s r (.clearPortFlags numbers)) :
    exec .clearPortFlags s = .next (s.runClearPortFlags r numbers) :=
  congrArg Host.Outcome.next (State.onCommand_of_runs h rfl)

section Refused

variable {numbers : List Nat}

theorem State.runClearPortFlags_of_denied (h : s.access.canWrite r.link 6 = false) :
    s.runClearPortFlags r numbers = s.respond r .denied [] :=
  if_pos (by simp [h])

theorem State.runClearPortFlags_of_count (hw : s.access.canWrite r.link 6 = true)
    (h : numbers = [] ∨ 6 < numbers.length) : s.runClearPortFlags r numbers = s.respond r .badValue [] :=
  (if_neg (by simp [hw])).trans (if_pos (by rwa [List.isEmpty_iff]))

theorem State.runClearPortFlags_of_number (hw : s.access.canWrite r.link 6 = true)
    (hl : ¬(numbers = [] ∨ 6 < numbers.length)) (h : ∃ n ∈ numbers, n = 0 ∨ 6 < n) :
    s.runClearPortFlags r numbers = s.respond r .badIndex [] :=
  (if_neg (by simp [hw])).trans
    ((if_neg (by rwa [List.isEmpty_iff])).trans (if_pos (length_filterMap_portOf_ne.mpr h)))

end Refused

/-- CLEAR PORT FLAGS of a list of ports, once its rights and its numbers have passed (R147). -/
theorem State.runClearPortFlags_of_ports {l : List Port} (hw : s.access.canWrite r.link 6 = true)
    (hl : ¬(l.map portNumber = [] ∨ 6 < (l.map portNumber).length)) :
    s.runClearPortFlags r (l.map portNumber) =
      if ∃ p ∈ l, s.access.guarded 6 (32 * p.val + 13) = true then s.respond r .guarded []
      else State.respond
        { s with ports := Vector.ofFn fun p => if p ∈ l then { s.ports[p] with overrun := false } else s.ports[p] }
        r .ok (l.flatMap fun p => byte (portNumber p) :: encBool s.ports[p].overrun) := by
  unfold State.runClearPortFlags
  rw [if_neg (by simp [hw]), if_neg (by rwa [List.isEmpty_iff]), filterMap_portOf_portNumber,
    if_neg (by simp), State.foldl_clearOverrun]
  simp only [List.any_eq_true]
  rfl

/-- What each number named is answered (R147). -/
theorem flatMap_overrun (l : List Port) :
    (l.flatMap fun p => byte (portNumber p) :: encBool s.ports[p].overrun) =
      (l.map portNumber).flatMap fun n =>
        [byte n, if ∃ p : Port, p.val + 1 = n ∧ s.ports[p].overrun = true then 1#8 else 0#8] := by
  rw [List.flatMap_map]
  refine congrArg (List.flatMap · l) (funext fun p => ?_)
  have hp : (∃ w : Port, w.val + 1 = portNumber p ∧ s.ports[w].overrun = true) ↔ s.ports[p].overrun = true := by
    constructor
    · rintro ⟨w, hw, ho⟩
      obtain rfl : w = p := Fin.ext (Nat.succ.inj hw)
      exact ho
    · exact fun ho => ⟨p, rfl, ho⟩
  rw [if_congr hp rfl rfl]
  rfl

end ClearFlags

theorem mem_map_portNumber {l : List Port} {p : Port} : p.val + 1 ∈ l.map portNumber ↔ p ∈ l := by
  rw [List.mem_map]
  constructor
  · rintro ⟨w, hw, h⟩
    obtain rfl : w = p := Fin.ext (Nat.succ.inj h)
    exact hw
  · exact fun h => ⟨p, h, rfl⟩

/-- Settles O49: the enabled field, the two link changes and the settings of one port, then CLEAR PORT FLAGS check by
check. -/
theorem portStatesAndFlags : Obligations.PortStatesAndFlags := by
  unfold Obligations.PortStatesAndFlags
  refine ⟨?_, ?_⟩
  · intro s p q emptied
    refine ⟨fun r hv hp => ?_, fun r hv hp => ?_, fun hl => ⟨fun hs => ?_, fun hs => ?_⟩, rfl, fun r =>
      ⟨fun value h0 h1 hv hp => exec_portEnabledWrite_bad h0 h1 hv hp, ?_, ?_, ?_, ?_, ?_⟩⟩
    · rw [exec_portEnable hv hp]
      exact congrArg (fun v : State => Host.Outcome.next (v.respond r .ok [1#8]))
        (State.modPort_congr (PortUnit.enable_eq _))
    · rw [exec_portDisable hv hp]
      exact congrArg (fun v : State => Host.Outcome.next (v.respond r .ok [0#8]))
        (State.modPort_congr (PortUnit.disable_eq _))
    · rw [exec_portLinkDown_of_active hl hs]
      exact congrArg (fun v : State => Host.Outcome.next (v.logFault (.port p) 49 (portNumber p) s.cycleDetail))
        (State.modPort_congr rfl)
    · refine exec_portLinkDown_of_inactive hl fun hactive => ?_
      rcases hs with hs | hs <;> rcases hactive with h | h <;> cases hs.symm.trans h
    · exact portSetting_numericWrite (lo := 1) (hi := 160) (f := fun n c => { c with budget := n })
        (by decide) (by decide) (by decide) (by omega) (fun _ => rfl) (fun _ _ => congrArg some (one_eq_beBytes _))
        (Option.some_ne_none _)
    · exact portSetting_numericWrite (lo := 0) (hi := 20000) (f := fun n c => { c with stagger := n })
        (by decide) (by decide) (by decide) (by omega) (fun _ => rfl)
        (fun _ _ => congrArg some (encField_natCast ..)) (Option.some_ne_none _)
    · exact portSetting_numericWrite (lo := 0) (hi := 8) (f := fun n c => { c with mute := n })
        (by decide) (by decide) (by decide) (by omega) (fun _ => rfl) (fun _ _ => congrArg some (one_eq_beBytes _))
        (Option.some_ne_none _)
    · exact portSetting_numericWrite (lo := 0) (hi := 1600000) (f := fun n c => { c with ingress := n })
        (by decide) (by decide) (by decide) (by omega) (fun _ => rfl)
        (fun _ _ => congrArg some (encField_natCast ..)) (Option.some_ne_none _)
    · exact portSetting_numericWrite (lo := 0) (hi := 1600000) (f := fun n c => { c with egress := n })
        (by decide) (by decide) (by decide) (by omega) (fun _ => rfl)
        (fun _ _ => congrArg some (encField_natCast ..)) (Option.some_ne_none _)
  · intro s r named hr answers
    have answered {st : Status} (h : s.runClearPortFlags r named = s.respond r st []) : answers st :=
      (exec_clearPortFlags hr).trans (congrArg _ h)
    by_cases hw : s.access.canWrite r.link 6 = false
    · rw [if_pos hw]
      exact answered (State.runClearPortFlags_of_denied hw)
    rw [if_neg hw]
    replace hw : s.access.canWrite r.link 6 = true := by simpa using hw
    by_cases hl : named = [] ∨ 6 < named.length
    · rw [if_pos hl]
      exact answered (State.runClearPortFlags_of_count hw hl)
    rw [if_neg hl]
    by_cases hi : ∃ n ∈ named, n = 0 ∨ 6 < n
    · rw [if_pos hi]
      exact answered (State.runClearPortFlags_of_number hw hl hi)
    rw [if_neg hi]
    obtain ⟨l, rfl⟩ := exists_ports_of_numbers hi
    have hrun := State.runClearPortFlags_of_ports hw hl
    have hg : (∃ n ∈ l.map portNumber, s.access.guarded 6 (32 * (n - 1) + 13) = true) ↔
        ∃ p ∈ l, s.access.guarded 6 (32 * p.val + 13) = true := by
      simp [portNumber]
    by_cases hguard : ∃ p ∈ l, s.access.guarded 6 (32 * p.val + 13) = true
    · rw [if_pos (hg.mpr hguard)]
      exact answered (hrun.trans (if_pos hguard))
    · rw [if_neg (mt hg.mp hguard), exec_clearPortFlags hr, hrun, if_neg hguard, flatMap_overrun]
      simp only [mem_map_portNumber]

end Sys2Proof.Machine

/-! SUPPORT. The time-of-day sentence a coded-time output sends, as a reference input reads it (R158, R164). -/

namespace Sys2Proof.Machine

open Sys2Proof.Config Sys2Proof.Safety

/-- Bytes closed by their check sum to 0 (R164, R167). -/
theorem byteSum_check (bs : List Byte) : byteSum (bs ++ [0#8 - byteSum bs]) = 0#8 := by
  rw [byteSum_append]
  show byteSum bs + (0#8 + (0#8 - byteSum bs)) = 0#8
  simp

/-- The status byte of a time-of-day sentence (R164). -/
def sentenceStatus (t : TimeOfDay) : Byte :=
  byte ((if t.locked then 128 else 0) + t.cls)

/-- The body of the sentence that a coded-time output sends (R158, R164). -/
def timeOfDayBody (t : TimeOfDay) : List Byte :=
  beBytes 6 t.seconds ++ beInt 1 t.scale ++ [sentenceStatus t]

theorem todSentence_eq (t : TimeOfDay) :
    todSentence t = [0xF0#8, 0x31#8, 8#8] ++ timeOfDayBody t ++
      [0#8 - byteSum (0x31#8 :: 8#8 :: timeOfDayBody t)] := rfl

theorem length_timeOfDayBody (t : TimeOfDay) : (timeOfDayBody t).length = 8 := by
  simp [timeOfDayBody]

/-- The sentence sent passes the checks of R164. -/
theorem sentenceOk_timeOfDayBody (t : TimeOfDay) :
    sentenceOk 0x31#8 8 (timeOfDayBody t) (0#8 - byteSum (0x31#8 :: 8#8 :: timeOfDayBody t)) = true := by
  have hsum : byteSum (0x31#8 :: byte 8 ::
      (timeOfDayBody t ++ [0#8 - byteSum (0x31#8 :: 8#8 :: timeOfDayBody t)])) = 0#8 :=
    byteSum_check (0x31#8 :: 8#8 :: timeOfDayBody t)
  have hlength : requiredLength 0x31#8 (timeOfDayBody t) = some 8 := rfl
  rw [sentenceOk, hsum, hlength]
  simp

theorem sentenceStatus_toNat {t : TimeOfDay} (h : t.cls ≤ 7) :
    (sentenceStatus t).toNat = (if t.locked then 128 else 0) + t.cls := by
  have hlt : (if t.locked then 128 else 0) + t.cls < 256 := by split_ifs <;> omega
  exact (BitVec.toNat_ofNat _ _).trans (Nat.mod_eq_of_lt hlt)

theorem sentenceStatus_locked {t : TimeOfDay} (h : t.cls ≤ 7) : (sentenceStatus t).getLsbD 7 = t.locked := by
  rw [BitVec.getLsbD, sentenceStatus_toNat h, Nat.testBit_eq_decide_div_mod_eq]
  cases t.locked
  · exact decide_eq_false (by simp; omega)
  · exact decide_eq_true (by simp; omega)

theorem sentenceStatus_class {t : TimeOfDay} (h : t.cls ≤ 7) : (sentenceStatus t).toNat % 8 = t.cls := by
  rw [sentenceStatus_toNat h]
  split_ifs <;> omega

/-- The body read field by field. -/
theorem readTimeOfDay_body {t : TimeOfDay} (h : TimeOfDayFits t) : readTimeOfDay (timeOfDayBody t) = t := by
  obtain ⟨hsec, hlo, hhi, hcls⟩ := h
  have hseconds : slice (timeOfDayBody t) 0 6 = beBytes 6 t.seconds := by
    rw [timeOfDayBody, List.append_assoc, slice_append_left (by simp)]
    exact List.take_of_length_le (by simp)
  have hscale : slice (timeOfDayBody t) 6 1 = beInt 1 t.scale := by
    have hright := slice_append_right (beBytes 6 t.seconds) (beInt 1 t.scale ++ [sentenceStatus t]) 0 1
    rw [length_beBytes] at hright
    rw [timeOfDayBody, List.append_assoc, hright, slice_append_left (by simp)]
    exact List.take_of_length_le (by simp)
  have hstatus : (timeOfDayBody t)[7]? = some (sentenceStatus t) :=
    List.getElem?_append_right (by simp)
  unfold readTimeOfDay
  rw [hseconds, hscale, hstatus]
  dsimp only [Option.getD_some]
  rw [ofBytes_beBytes, Nat.mod_eq_of_lt (by omega), intOfBytes_beInt (by omega) (by omega),
    sentenceStatus_locked hcls, sentenceStatus_class hcls]

/-- Settles O16: the checks by the check byte, the fields one by one. -/
theorem codedSentenceReadBack : Obligations.CodedSentenceReadBack := by
  unfold Obligations.CodedSentenceReadBack
  exact fun t h => ⟨timeOfDayBody t, _, todSentence_eq t, length_timeOfDayBody t, sentenceOk_timeOfDayBody t,
    readTimeOfDay_body h⟩

end Sys2Proof.Machine


/-! SUPPORT. Where a rise time and a due time are placed, one output changed, and the writes of its settings (R152,
R156, R157, R159, R160, R178). -/

namespace Sys2Proof.Machine

open Sys2Proof.Config Sys2Proof.Safety

/-- A write of an output's setting has no row of its own (R160, R178). -/
theorem writeRow_output (index : Nat) (value : List Byte) : writeRow 7 index value = .writeEntry := rfl

/-! ### Placing (R152, R157) -/

/-- Settles O50: the second is one past the floor of the time left at the offset's place. -/
theorem placingIsFirstTimeAfter : Obligations.PlacingIsFirstTimeAfter := by
  unfold Obligations.PlacingIsFirstTimeAfter
  intro start offset
  have hbelow := Int.ediv_mul_le ((start : Int) - offset * 2 ^ 32) (b := 1000000000 * 2 ^ 32) (by norm_num)
  have habove := Int.lt_ediv_add_one_mul_self ((start : Int) - offset * 2 ^ 32) (b := 1000000000 * 2 ^ 32)
    (by norm_num)
  exact ⟨((start : Int) - offset * 2 ^ 32) / (1000000000 * 2 ^ 32) + 1, rfl, by omega, by omega⟩

/-! ### One pulse output -/

/-- Two changes of one pulse output agree when they agree on the output as it stands. -/
theorem State.modPulse_congr {s : State} {k : PulseOut} {f g : PulseUnit → PulseUnit}
    (h : f s.pulses[k] = g s.pulses[k]) : s.modPulse k f = s.modPulse k g := by
  unfold State.modPulse
  rw [h]

theorem State.modPulse_getElem (s : State) (k : PulseOut) (f : PulseUnit → PulseUnit) :
    (s.modPulse k f).pulses[k] = f s.pulses[k] := by
  simp

/-- A pulse output put back as it is. -/
theorem State.modPulse_same (s : State) (k : PulseOut) : (s.modPulse k fun _ => s.pulses[k]) = s := by
  simp [State.modPulse]

/-- A numeric setting of a pulse output, from how it is stored and read. -/
theorem pulseSetting_numericWrite {s : State} {r : Running} {k : PulseOut} {off bytes : Nat} {lo hi : Int}
    {f : Int → PulseUnit → PulseUnit} (h : off < 16) (hb : fieldWidth lo hi = bytes) (hlh : lo ≤ hi)
    (hs : ∀ value, s.writePulse k off value = storeNum lo hi value fun m => s.modPulse k (f m))
    (hr : ∀ (o : PulseUnit) (m : Int), lo ≤ m → (f m o).read off =
      some (if lo < 0 then beInt bytes m else beBytes bytes m.toNat))
    (hl : s.pulses[k].read off ≠ none) :
    NumericWrite .writeEntry s r 7 (16 * k.val + off) bytes lo hi fun m =>
      s.modPulse k fun _ => f m s.pulses[k] := by
  refine numericWrite_of_storeNum (row := .writeEntry) rfl (writeRow_output _) (by omega)
    (by rwa [State.readEntry_pulse _ _ h]) hb hlh
    (fun value => (s.storeEntry_pulse k h value).trans (hs value)) fun m hm _ => ?_
  rw [State.readEntry_pulse _ _ h, State.modPulse_getElem, hr _ _ hm]

/-! ### One coded-time output -/

/-- Two changes of one coded-time output agree when they agree on the output as it stands. -/
theorem State.modCoded_congr {s : State} {m : CodedOut} {f g : CodedUnit → CodedUnit}
    (h : f s.coded[m] = g s.coded[m]) : s.modCoded m f = s.modCoded m g := by
  unfold State.modCoded
  rw [h]

theorem State.modCoded_getElem (s : State) (m : CodedOut) (f : CodedUnit → CodedUnit) :
    (s.modCoded m f).coded[m] = f s.coded[m] := by
  simp

/-- A coded-time output put back as it is. -/
theorem State.modCoded_same (s : State) (m : CodedOut) : (s.modCoded m fun _ => s.coded[m]) = s := by
  simp [State.modCoded]

/-- A numeric setting of a coded-time output, from how it is stored and read. -/
theorem codedSetting_numericWrite {s : State} {r : Running} {m : CodedOut} {off bytes lo hi : Nat}
    {f : Nat → CodedUnit → CodedUnit} (h : off < 16) (hb : fieldWidth lo hi = bytes) (hlh : lo ≤ hi)
    (hs : ∀ value, s.writeCoded m off value = storeNat lo hi value fun n => s.modCoded m (f n))
    (hr : ∀ (o : CodedUnit) (n : Nat), (f n o).read off = some (beBytes bytes n))
    (hl : s.coded[m].read off ≠ none) :
    NumericWrite .writeEntry s r 7 (64 + 16 * m.val + off) bytes lo hi fun n =>
      s.modCoded m fun _ => f n.toNat s.coded[m] := by
  refine numericWrite_of_storeNum (row := .writeEntry) rfl (writeRow_output _) (by omega)
    (by rwa [State.readEntry_coded _ _ h]) hb (by exact_mod_cast hlh)
    (fun value => (s.storeEntry_coded m h value).trans (hs value)) fun n hn _ => ?_
  lift n to Nat using by omega
  rw [State.readEntry_coded _ _ h, State.modCoded_getElem, hr, if_neg (by omega), Int.toNat_natCast]

/-- The parity setting of a coded-time output (R160; log entry 30). -/
theorem codedParity_enumWrite (s : State) (r : Running) (m : CodedOut) :
    EnumWrite .writeEntry s r 7 (64 + 16 * m.val + 2) 3 fun b => s.modCoded m fun _ =>
      { s.coded[m] with parity := if b = 0#8 then .none else if b = 1#8 then .even else .odd } := by
  refine enumWrite_of_storeEnum (row := .writeEntry) rfl (writeRow_output _) (by omega)
    (by rw [State.readEntry_coded _ _ (by omega)]; exact Option.some_ne_none _)
    (fun value => (s.storeEntry_coded m (by omega) value).trans ?_) fun b hb => ?_
  · refine storeEnum_congr (f := fun n => s.modCoded m fun o => { o with parity := parityOf n }) fun n hn => ?_
    interval_cases n <;> rfl
  · rw [State.readEntry_coded _ _ (by omega), State.modCoded_getElem]
    have hb' : b = 0#8 ∨ b = 1#8 ∨ b = 2#8 := by bv_omega
    rcases hb' with rfl | rfl | rfl <;> rfl

end Sys2Proof.Machine

/-! SUPPORT. Pulse outputs: a rise time decided, the fall, a step announcement taken (R152 to R156, R161). -/

namespace Sys2Proof.Machine

open Sys2Proof.Config Sys2Proof.Safety

/-! ### The decision at a rise time (R153) -/

section Decision

variable {o : PulseUnit} {p : Passing} {cls : Nat} {acquisition : Bool}

theorem PulseUnit.decideRise_of_busy (h : p.busy = true) :
    o.decideRise p cls acquisition = { o with overlapped := o.overlapped + 1 } :=
  if_pos h

theorem PulseUnit.decideRise_of_squelched (h : p.busy = false) (hs : o.squelch ≤ cls ∨ acquisition = true) :
    o.decideRise p cls acquisition = { o with high := false, squelched := o.squelched + 1 } :=
  (if_neg (by simp [h])).trans (if_pos hs)

theorem PulseUnit.decideRise_of_sent (h : p.busy = false) (hs : ¬(o.squelch ≤ cls ∨ acquisition = true)) :
    o.decideRise p cls acquisition =
      { o with high := true, fall := o.width * 125, risePart := p.part, sent := o.sent + 1 } :=
  (if_neg (by simp [h])).trans (if_neg hs)

/-- A decision leaves the offset by which the next rise time is placed. -/
theorem PulseUnit.decideRise_offset : (o.decideRise p cls acquisition).offset = o.offset := by
  unfold PulseUnit.decideRise
  split_ifs <;> rfl

/-- A rise time decided, and the next one placed from it (R152, R153). -/
theorem PulseUnit.rise_eq {v : PulseUnit} (hv : o.decideRise p cls acquisition = v) :
    o.rise p cls acquisition =
      let next := (placeAfter (o.next.fuCount * 2 ^ 28) o.offset).2
      { v with
        next := next, passed := passedBy (o.next.fuCount * 2 ^ 28) p.since next (v.highAfter p) } := by
  have hoffset : v.offset = o.offset := hv ▸ PulseUnit.decideRise_offset
  rw [PulseUnit.rise, hv, PulseUnit.place, hoffset]
  rfl

theorem PulseUnit.highAfter_of_busy (h : p.busy = true) (part : Elapsed) :
    o.highAfter p part = true ↔ ¬(o.fall = 0 ∧ o.risePart ≤ part) := by
  simp [PulseUnit.highAfter, h, imp_iff_not_or]

theorem PulseUnit.highAfter_of_low (h : p.busy = false) (part : Elapsed) :
    o.highAfter p part = o.high := by
  simp [PulseUnit.highAfter, h]

theorem PulseUnit.highAt_iff {part : Elapsed} :
    o.highAt part = true ↔ o.high = true ∧ ¬(o.fall = 0 ∧ o.risePart ≤ part) := by
  simp [PulseUnit.highAt, imp_iff_not_or]

end Decision

/-! ### The commands -/

section Commands

variable {s : State} {k : PulseOut}

theorem State.acquisitionSquelch_iff :
    s.acquisitionSquelch = true ↔ s.steering.state = .acquire ∧ s.steering.options.squelch = true := by
  simp [State.acquisitionSquelch]

theorem exec_pulseRiseTime_of_none (h : s.pulses[k].passed = none) : exec (.pulseRiseTime k) s = .next s := by
  simp only [exec, execPulseRiseTime, h]

theorem exec_pulseRiseTime_of_some {p : Passing} (h : s.pulses[k].passed = some p) :
    exec (.pulseRiseTime k) s =
      .next (s.modPulse k fun o => o.rise p s.outputClass s.acquisitionSquelch) := by
  simp only [exec, execPulseRiseTime, h]

/-- A rise time that has passed leaves what was decided, with the next rise time placed from it and tested
against the advance since, the line as the decision left it (R152, R161). -/
theorem exec_pulseRiseTime_decided {p : Passing} {v : PulseUnit} {P : Elapsed → Prop}
    (h : s.pulses[k].passed = some p)
    (hv : s.pulses[k].decideRise p s.outputClass s.acquisitionSquelch = v)
    (hP : ∀ part, v.highAfter p part = true ↔ P part) :
    let start := s.pulses[k].next.fuCount * 2 ^ 28
    let next := (placeAfter start s.pulses[k].offset).2
    ∃ again, Passes start p.since next P again ∧
      exec (.pulseRiseTime k) s = .next (s.modPulse k fun _ => { v with next := next, passed := again }) := by
  intro start next
  refine ⟨_, passedBy_passes hP, (exec_pulseRiseTime_of_some h).trans ?_⟩
  exact congrArg Host.Outcome.next (State.modPulse_congr (PulseUnit.rise_eq hv))

theorem exec_pulseFall (s : State) (k : PulseOut) :
    exec (.pulseFall k) s = .next (s.modPulse k fun _ =>
      { s.pulses[k] with high := if s.pulses[k].fall = 0 then false else s.pulses[k].high }) := by
  refine congrArg Host.Outcome.next (State.modPulse_congr ?_)
  split_ifs <;> rfl

/-- A rise time that has passed is decided before a step is taken (R155, R161). -/
theorem exec_pulseOutputStep_of_some {p : Passing} (h : s.pulses[k].passed = some p) :
    exec (.pulseOutputStep k) s = .next s := by
  simp only [exec, execPulseOutputStep, h]

theorem exec_pulseOutputStep {a : StepAnnouncement} {rest : List StepAnnouncement}
    (hp : s.pulses[k].passed = none) (ha : s.flight.stepsToPulse[k] = a :: rest) :
    exec (.pulseOutputStep k) s = .next
      ((s.modFlight fun f => { f with stepsToPulse := f.stepsToPulse.set k rest }).modPulse k fun o =>
        o.stepped a (advanceSince a.after.units rest s.timebase.time)) := by
  simp only [exec, execPulseOutputStep, hp, ha]

end Commands

/-- Settles O51: a rise time by the decision it meets, the fall, the step, then the settings one by one. -/
theorem pulseOutputsRiseAndFall : Obligations.PulseOutputsRiseAndFall := by
  unfold Obligations.PulseOutputsRiseAndFall
  intro s k o becomes start next squelched
  have stays {c : Instr} (h : exec c s = .next s) : becomes c o :=
    h.trans (congrArg _ (s.modPulse_same k).symm)
  have hsquelched : o.squelch ≤ s.outputClass ∨ s.acquisitionSquelch = true ↔ squelched :=
    or_congr_right State.acquisitionSquelch_iff
  refine ⟨fun h => stays (exec_pulseRiseTime_of_none h), fun p h => ⟨fun hb => ?_, fun hb hs => ?_,
    fun hb hs => ?_, stays (exec_pulseOutputStep_of_some h)⟩, exec_pulseFall s k, ?_, fun r => ⟨?_, ?_, ?_⟩⟩
  · exact exec_pulseRiseTime_decided h (PulseUnit.decideRise_of_busy hb) (PulseUnit.highAfter_of_busy hb)
  · refine exec_pulseRiseTime_decided h (PulseUnit.decideRise_of_squelched hb (hsquelched.mpr hs)) fun part => ?_
    simp [PulseUnit.highAfter_of_low hb]
  · refine exec_pulseRiseTime_decided h (PulseUnit.decideRise_of_sent hb (mt hsquelched.mp hs)) fun part => ?_
    simp [PulseUnit.highAfter_of_low hb]
  · intro a rest ha hp taken placed
    refine ⟨_, passedBy_passes fun _ => PulseUnit.highAt_iff, (exec_pulseOutputStep hp ha).trans ?_⟩
    exact congrArg Host.Outcome.next (State.modPulse_congr rfl)
  · exact pulseSetting_numericWrite (off := 0) (lo := -500000000) (hi := 500000000)
      (f := fun m o => { o with offset := m }) (by omega) (by decide) (by omega) (fun _ => rfl)
      (fun _ _ _ => rfl) (Option.some_ne_none _)
  · refine pulseSetting_numericWrite (f := fun m o => { o with width := m.toNat }) (by omega) (by decide)
      (by omega) (fun _ => rfl) (fun o m hm => ?_) (Option.some_ne_none _)
    exact congrArg some (encField_natCast 1 500000 m.toNat)
  · refine pulseSetting_numericWrite (f := fun m o => { o with squelch := m.toNat }) (by omega) (by decide)
      (by omega) (fun _ => rfl) (fun o m hm => ?_) (Option.some_ne_none _)
    exact congrArg some (one_eq_beBytes m.toNat)

end Sys2Proof.Machine

/-! SUPPORT. The bits of a transmission on the wire (R35, R158). -/

namespace Sys2Proof.Machine

open Sys2Proof.Config

/-- In a list of blocks of one length, block `i` begins at `i` times that length. -/
theorem getElem?_flatMap_blocks {α β : Type} {f : α → List β} {n : Nat} (hf : ∀ a, (f a).length = n)
    {l : List α} {i j : Nat} {a : α} (ha : l[i]? = some a) (hj : j < n) :
    (l.flatMap f)[i * n + j]? = (f a)[j]? := by
  induction l generalizing i with
  | nil => simp at ha
  | cons b bs ih =>
    rw [List.flatMap_cons]
    cases i with
    | zero =>
      obtain rfl : b = a := by simpa using ha
      rw [Nat.zero_mul, Nat.zero_add, List.getElem?_append_left (by rwa [hf])]
    | succ i =>
      rw [Nat.succ_mul, List.getElem?_append_right (by rw [hf]; omega), hf,
        show i * n + n + j - n = i * n + j by omega]
      exact ih (by simpa using ha)

/-! ### One character (R24, R158) -/

section Character

variable (p : Parity) (c : Byte)

theorem length_characterLevels : (characterLevels p c).length = characterBits p := by
  cases p <;> simp [characterLevels, parityLevels, characterBits]

theorem characterLevels_start : (characterLevels p c)[0]? = some false := rfl

theorem characterLevels_data {b : Nat} (hb : b < 8) : (characterLevels p c)[b + 1]? = some (c.getLsbD b) := by
  rw [characterLevels, List.getElem?_cons_succ, List.getElem?_append_left (by simpa using hb)]
  simp [hb]

theorem characterLevels_even : (characterLevels .even c)[9]? = some (decide (onesIn c % 2 = 1)) := rfl

theorem characterLevels_odd : (characterLevels .odd c)[9]? = some (decide (onesIn c % 2 = 0)) := rfl

theorem characterLevels_stop {j : Nat} (hj : j + 1 = characterBits p) :
    (characterLevels p c)[j]? = some true := by
  obtain rfl : j = characterBits p - 1 := by omega
  cases p <;> rfl

end Character

/-! ### The whole transmission (R35, R158) -/

section Transmission

variable (p : Parity) (chars : List Byte)

theorem wireLevels_break {k : Nat} (hk : k < 13) : (wireLevels p chars)[k]? = some false := by
  rw [wireLevels, List.getElem?_append_left (by simpa using hk), List.getElem?_replicate_of_lt hk]

theorem wireLevels_gap : (wireLevels p chars)[13]? = some true := rfl

theorem wireLevels_character {i j : Nat} {c : Byte} (hj : j < characterBits p) (hc : chars[i]? = some c) :
    (wireLevels p chars)[14 + i * characterBits p + j]? = (characterLevels p c)[j]? := by
  rw [wireLevels, List.getElem?_append_right (by simp; omega), List.length_replicate,
    show 14 + i * characterBits p + j - 13 = i * characterBits p + j + 1 by omega, List.getElem?_cons_succ]
  exact getElem?_flatMap_blocks (length_characterLevels p) hc hj

end Transmission

/-- The level of the wire is that of the bit in which the transmission stands (R158). -/
theorem CodedLine.wire_of_bit {d n k : Nat} {p : Parity} {chars : List Byte} {level : Bool}
    (hk : (transmissionTicks d p chars.length - n) / (16 * (d + 1)) = k)
    (hl : (wireLevels p chars)[k]? = some level) : (CodedLine.sending d p chars n).wire = level := by
  show ((wireLevels p chars)[(transmissionTicks d p chars.length - n) / (16 * (d + 1))]?).getD true = level
  rw [hk, hl, Option.getD_some]

end Sys2Proof.Machine

/-! SUPPORT. Coded-time outputs: a due time decided, the transmission's end, a step announcement taken (R157 to R159,
R161). -/

namespace Sys2Proof.Machine

open Sys2Proof.Config Sys2Proof.Safety

/-! ### The decision at a due time (R157) -/

theorem CodedUnit.place_eq (o : CodedUnit) (start adv : Nat) (sending : Elapsed → Bool) :
    o.place start adv sending =
      { o with
        next := (placeAfter start (o.lead * 1000000)).2, names := (placeAfter start (o.lead * 1000000)).1
        passed := passedBy start adv (placeAfter start (o.lead * 1000000)).2 sending } := by
  have hlead : ((o.lead * nanosPerMilli : Nat) : Int) = o.lead * 1000000 := by simp [nanosPerMilli]
  rw [CodedUnit.place, hlead]

theorem transmissionTicks_pos (d : Nat) (p : Parity) (n : Nat) : 0 < transmissionTicks d p n :=
  Nat.mul_pos (by omega) (Nat.mul_pos (by omega) d.succ_pos)

section Decision

variable {o : CodedUnit} {p : Passing} {tod : TimeOfDay}

theorem CodedUnit.decideDue_of_busy (h : p.busy = true) :
    o.decideDue p tod = { o with skipped := o.skipped + 1 } :=
  if_pos h

theorem CodedUnit.decideDue_of_idle (h : p.busy = false) :
    o.decideDue p tod =
      { o with
        line := .sending o.divisor o.parity (todSentence tod) (transmissionTicks o.divisor o.parity 12)
        beginPart := p.part, sent := o.sent + 1 } :=
  if_neg (by simp [h])

/-- A decision leaves the lead by which the next due time is placed. -/
theorem CodedUnit.decideDue_lead : (o.decideDue p tod).lead = o.lead := by
  unfold CodedUnit.decideDue
  split_ifs <;> rfl

/-- A due time decided, and the next one placed from it (R157). -/
theorem CodedUnit.due_eq {v : CodedUnit} (hv : o.decideDue p tod = v) :
    o.due p tod =
      let r := placeAfter (o.next.fuCount * 2 ^ 28) (o.lead * 1000000)
      { v with
        next := r.2, names := r.1
        passed := passedBy (o.next.fuCount * 2 ^ 28) p.since r.2 (v.sendingAfter p) } := by
  have hlead : v.lead = o.lead := hv ▸ CodedUnit.decideDue_lead
  rw [CodedUnit.due, hv, CodedUnit.place_eq, hlead]
  rfl

/-- With ticks left, the line is SENDING at every place of the tick. -/
theorem CodedUnit.sendingAfter_of_ticksLeft {d n : Nat} {q : Parity} {chars : List Byte}
    (h : o.line = .sending d q chars n) (hn : 0 < n) (part : Elapsed) : o.sendingAfter p part = true := by
  obtain ⟨n, rfl⟩ := Nat.exists_eq_add_one_of_ne_zero hn.ne'
  simp [CodedUnit.sendingAfter, h]

theorem CodedUnit.sendingAfter_of_busy (h : p.busy = true) (part : Elapsed) :
    o.sendingAfter p part = true ↔
      (∃ d q chars n, o.line = .sending d q chars (n + 1)) ∨ part < o.beginPart := by
  unfold CodedUnit.sendingAfter
  cases o.line with
  | idle => simp [h]
  | sending d q chars n => cases n <;> simp [h]

theorem CodedUnit.sendingAt_iff (part : Elapsed) :
    o.sendingAt part = true ↔
      ∃ d q chars n, o.line = .sending d q chars n ∧ ¬(n = 0 ∧ o.beginPart ≤ part) := by
  unfold CodedUnit.sendingAt
  cases o.line with
  | idle => simp
  | sending d q chars n => cases n <;> simp

end Decision

/-! ### The commands -/

section Commands

variable {s : State} {m : CodedOut}

theorem exec_codedDueTime_of_none (h : s.coded[m].passed = none) : exec (.codedDueTime m) s = .next s := by
  simp only [exec, execCodedDueTime, h]

theorem exec_codedDueTime_of_some {p : Passing} (h : s.coded[m].passed = some p) :
    exec (.codedDueTime m) s = .next (s.modCoded m fun o => o.due p (s.sentenceNow o.names)) := by
  simp only [exec, execCodedDueTime, h]

/-- A due time that has passed leaves what was decided, with the next due time placed from it and tested
against the advance since, the line as the decision left it (R157, R161). -/
theorem exec_codedDueTime_decided {p : Passing} {v : CodedUnit} {P : Elapsed → Prop}
    (h : s.coded[m].passed = some p)
    (hv : s.coded[m].decideDue p (s.sentenceNow s.coded[m].names) = v)
    (hP : ∀ part, v.sendingAfter p part = true ↔ P part) :
    let start := s.coded[m].next.fuCount * 2 ^ 28
    let r := placeAfter start (s.coded[m].lead * 1000000)
    ∃ again, Passes start p.since r.2 P again ∧
      exec (.codedDueTime m) s =
        .next (s.modCoded m fun _ => { v with next := r.2, names := r.1, passed := again }) := by
  intro start r
  refine ⟨_, passedBy_passes hP, (exec_codedDueTime_of_some h).trans ?_⟩
  exact congrArg Host.Outcome.next (State.modCoded_congr (CodedUnit.due_eq hv))

/-- The line is IDLE again after the last bit, and no earlier (R158). -/
theorem exec_codedTransmissionDone {d n : Nat} {p : Parity} {chars : List Byte}
    (h : s.coded[m].line = .sending d p chars n) :
    exec (.codedTransmissionDone m) s = .next (s.modCoded m fun _ =>
      { s.coded[m] with line := if n = 0 then .idle else s.coded[m].line }) := by
  simp only [exec, execCodedTransmissionDone, h]
  cases n with
  | zero => exact congrArg Host.Outcome.next (State.modCoded_congr rfl)
  | succ n =>
    refine congrArg Host.Outcome.next ((s.modCoded_same m).symm.trans (State.modCoded_congr ?_))
    rw [if_neg n.succ_ne_zero, ← h]

/-- A due time that has passed is decided before a step is taken (R159, R161). -/
theorem exec_codedOutputStep_of_some {p : Passing} (h : s.coded[m].passed = some p) :
    exec (.codedOutputStep m) s = .next s := by
  simp only [exec, execCodedOutputStep, h]

theorem exec_codedOutputStep {a : StepAnnouncement} {rest : List StepAnnouncement}
    (hp : s.coded[m].passed = none) (ha : s.flight.stepsToCoded[m] = a :: rest) :
    exec (.codedOutputStep m) s = .next
      ((s.modFlight fun f => { f with stepsToCoded := f.stepsToCoded.set m rest }).modCoded m fun o =>
        o.stepped a (advanceSince a.after.units rest s.timebase.time)) := by
  simp only [exec, execCodedOutputStep, hp, ha]

end Commands

/-- Settles O52: a due time by the line it meets, the transmission's end, the step and the settings; then the
wire, bit by bit. -/
theorem codedOutputsSendSentences : Obligations.CodedOutputsSendSentences := by
  unfold Obligations.CodedOutputsSendSentences
  refine ⟨?_, rfl, ?_⟩
  · intro s m o start v tod becomes
    have stays {c : Instr} (h : exec c s = .next s) : becomes c o :=
      h.trans (congrArg _ (s.modCoded_same m).symm)
    refine ⟨fun h => stays (exec_codedDueTime_of_none h), fun p h => ⟨fun hb => ?_, fun hb => ?_,
      stays (exec_codedOutputStep_of_some h)⟩, fun d p chars n h => exec_codedTransmissionDone h, ?_,
      fun r => ⟨?_, ?_, codedParity_enumWrite s r m⟩⟩
    · exact exec_codedDueTime_decided h (CodedUnit.decideDue_of_idle hb) fun part =>
        iff_true_intro (CodedUnit.sendingAfter_of_ticksLeft rfl (transmissionTicks_pos ..) part)
    · exact exec_codedDueTime_decided h (CodedUnit.decideDue_of_busy hb) (CodedUnit.sendingAfter_of_busy hb)
    · intro a rest ha hp taken w
      refine ⟨_, passedBy_passes CodedUnit.sendingAt_iff, (exec_codedOutputStep hp ha).trans ?_⟩
      exact congrArg Host.Outcome.next (State.modCoded_congr (CodedUnit.place_eq ..))
    · exact codedSetting_numericWrite (off := 0) (lo := 0) (hi := 500) (f := fun n o => { o with lead := n })
        (by omega) (by decide) (by omega) (fun _ => rfl) (fun _ _ => congrArg some (encField_natCast ..))
        (Option.some_ne_none _)
    · exact codedSetting_numericWrite (lo := 1) (hi := 65535) (f := fun n o => { o with divisor := n })
        (by omega) (by decide) (by omega) (fun _ => rfl) (fun _ _ => congrArg some (encField_natCast ..))
        (Option.some_ne_none _)
  · intro d p chars n bit level ones _ _
    refine ⟨fun h => CodedLine.wire_of_bit rfl (wireLevels_break p chars h),
      fun h => CodedLine.wire_of_bit h (wireLevels_gap p chars), fun i j c h hj hc => ?_⟩
    have at_ {b : Bool} (hb : (characterLevels p c)[j]? = some b) : level = b :=
      CodedLine.wire_of_bit h ((wireLevels_character p chars hj hc).trans hb)
    refine ⟨?_, ?_, ?_, ?_, fun hstop => at_ (characterLevels_stop p c hstop)⟩
    · rintro rfl
      exact at_ (characterLevels_start p c)
    · rintro b hb rfl
      exact at_ (characterLevels_data p c hb)
    · rintro rfl rfl
      exact at_ (characterLevels_even c)
    · rintro rfl rfl
      exact at_ (characterLevels_odd c)

end Sys2Proof.Machine

/-! SUPPORT. The bytes of an exchange frame, as the part reads them back (R163, R166). -/

namespace Sys2Proof.Machine

open Sys2Proof.Config Sys2Proof.Safety

/-! ### One field of a body -/

/-- A field that follows `xs` is read after them. -/
theorem slice_append_of_le {xs ys : List Byte} {off n : Nat} (h : xs.length ≤ off) :
    slice (xs ++ ys) off n = slice ys (off - xs.length) n := by
  conv_lhs => rw [show off = xs.length + (off - xs.length) by omega]
  exact slice_append_right ..

/-- The first field of a body. -/
theorem slice_append_of_length {xs ys : List Byte} {n : Nat} (h : xs.length = n) : slice (xs ++ ys) 0 n = xs := by
  rw [slice, List.drop_zero, List.take_left' h]

theorem slice_cons_succ (b : Byte) (bs : List Byte) (off n : Nat) :
    slice (b :: bs) (off + 1) n = slice bs off n := rfl

theorem slice_cons_one (b : Byte) (bs : List Byte) : slice (b :: bs) 0 1 = [b] := rfl

/-- A number below 256 ^ n is read back from its field. -/
theorem ofBytes_beBytes_of_lt {n v : Nat} (h : v < 256 ^ n) : ofBytes (beBytes n v) = v := by
  rw [ofBytes_beBytes, Nat.mod_eq_of_lt h]

theorem ofBytes_byte_of_lt {v : Nat} (h : v < 256) : ofBytes [byte v] = v := by
  simpa [ofBytes, byte] using h

/-! ### A mark (R166) -/

/-- The flags byte of a mark, bit by bit. -/
theorem markFlags_getLsbD (m : MarkFields) :
    (markFlags m).getLsbD 0 = m.opening ∧ (markFlags m).getLsbD 1 = m.closing ∧
    (markFlags m).getLsbD 2 = m.holdover ∧ (markFlags m).getLsbD 3 = m.untraceable := by
  unfold markFlags
  generalize m.opening = a, m.closing = b, m.holdover = c, m.untraceable = d
  revert a b c d
  decide

theorem encMark_append (m : MarkFields) (rest : List Byte) :
    encMark m ++ rest =
      beBytes 6 m.seconds ++ (beBytes 4 m.nanos ++ (beBytes 4 m.correction ++ (beBytes 2 m.seq.toNat ++
        markFlags m :: byte m.cls :: m.word.plan :: (beBytes 3 m.word.cycle.toNat ++ rest)))) := by
  simp [encMark, encWord]

/-- A mark's fields, read from its bytes one by one. -/
theorem decMark_encMark {m : MarkFields} (h : MarkFits m) (rest : List Byte) : decMark (encMark m ++ rest) = m := by
  obtain ⟨hsec, hns, hcorr, hcls⟩ := h
  have hseconds : ofBytes (beBytes 6 m.seconds) = m.seconds := ofBytes_beBytes_of_lt hsec
  have hnanos : ofBytes (beBytes 4 m.nanos) = m.nanos := ofBytes_beBytes_of_lt hns
  have hcorrection : ofBytes (beBytes 4 m.correction) = m.correction := ofBytes_beBytes_of_lt hcorr
  have hseq : ofBytes (beBytes 2 m.seq.toNat) = m.seq.toNat := ofBytes_beBytes_of_lt m.seq.isLt
  have hclass : ofBytes [byte m.cls] = m.cls := ofBytes_byte_of_lt hcls
  have hcycle : ofBytes (beBytes 3 m.word.cycle.toNat) = m.word.cycle.toNat :=
    ofBytes_beBytes_of_lt m.word.cycle.isLt
  obtain ⟨hopening, hclosing, hholdover, huntraceable⟩ := markFlags_getLsbD m
  rw [encMark_append]
  simp [decMark, slice_append_of_le, slice_append_of_length, slice_cons_succ, slice_cons_one,
    List.getElem?_append_right, -ofBytes_beBytes, -BitVec.getLsbD_eq_getElem, *]

/-- A trailer's fields stand after the mark's, and are read one by one. -/
theorem decTrailer_encTrailer {t : Trailer} (h : TrailerFits t) (m : MarkFields) (rest : List Byte) :
    decTrailer (encMark m ++ (encTrailer t ++ rest)) = t := by
  obtain ⟨hsteering, hkind, ht, hlo, hhi, hplan, hslot⟩ := h
  have hage : ofBytes (beBytes 4 t.age) = t.age := ofBytes_beBytes_of_lt ht
  have hscale : intOfBytes (beInt 1 t.scale) = t.scale := intOfBytes_beInt (by omega) (by omega)
  simp [decTrailer, encTrailer, slice_append_of_le, slice_append_of_length, slice_cons_succ, slice_cons_one,
    ofBytes_byte_of_lt, -ofBytes_beBytes, *]

/-! ### Each kind of frame -/

/-- Exchange data with a whole body passes the format checks, and its kind says how the body reads (R166). -/
theorem readFrame_of_kind {kind len : Byte} {body : List Byte} (hk : kindLength kind = some len.toNat)
    (hl : len.toNat ≤ body.length) :
    readFrame (1#8 :: kind :: len :: body) = some (
      if kind = 1#8 then .mark (decMark body)
      else if kind = 2#8 then .state (decMark body) (decTrailer body)
      else if kind = 3#8 then .query (ofBytes (slice body 0 6)) (BitVec.ofNat 16 (ofBytes (slice body 6 2)))
      else .reply (ofBytes (slice body 0 6)) (BitVec.ofNat 16 (ofBytes (slice body 6 2)))
        (ofBytes (slice body 8 6)) (ofBytes (slice body 14 4)) (ofBytes (slice body 18 1))
        (ofBytes (slice body 19 1))) := by
  rw [readFrame, if_pos ⟨rfl, hk, hl⟩]
  split_ifs <;> rfl

theorem readFrame_mark {m : MarkFields} (h : MarkFits m) (padding : List Byte) :
    readFrame ((Frame.mark m).encode ++ padding) = some (.mark m) := by
  refine (readFrame_of_kind (body := encMark m ++ padding) rfl (by simp)).trans ?_
  rw [if_pos rfl, decMark_encMark h]

theorem readFrame_state {m : MarkFields} {t : Trailer} (hm : MarkFits m) (ht : TrailerFits t)
    (padding : List Byte) : readFrame ((Frame.state m t).encode ++ padding) = some (.state m t) := by
  rw [Frame.encode, List.append_assoc, List.append_assoc]
  refine (readFrame_of_kind (body := encMark m ++ (encTrailer t ++ padding)) rfl (by simp; omega)).trans ?_
  rw [if_neg (by decide), if_pos rfl, decMark_encMark hm, decTrailer_encTrailer ht]

theorem readFrame_query {r : Nat} (h : r < 2 ^ 48) (q : Seq) (padding : List Byte) :
    readFrame ((Frame.query r q).encode ++ padding) = some (.query r q) := by
  have hr : ofBytes (beBytes 6 r) = r := ofBytes_beBytes_of_lt h
  have hq : ofBytes (beBytes 2 q.toNat) = q.toNat := ofBytes_beBytes_of_lt q.isLt
  rw [Frame.encode, List.append_assoc, List.append_assoc]
  refine (readFrame_of_kind rfl (by simp; omega)).trans ?_
  simp [slice_append_of_le, slice_append_of_length, -ofBytes_beBytes, *]

theorem readFrame_reply {r sec ns c cls : Nat} {q : Seq} (h : FrameFits (.reply r q sec ns c cls))
    (padding : List Byte) :
    readFrame ((Frame.reply r q sec ns c cls).encode ++ padding) = some (.reply r q sec ns c cls) := by
  obtain ⟨hr, hsec, hns, hc, hcls⟩ := h
  have hrequester : ofBytes (beBytes 6 r) = r := ofBytes_beBytes_of_lt hr
  have hseq : ofBytes (beBytes 2 q.toNat) = q.toNat := ofBytes_beBytes_of_lt q.isLt
  have hseconds : ofBytes (beBytes 6 sec) = sec := ofBytes_beBytes_of_lt hsec
  have hnanos : ofBytes (beBytes 4 ns) = ns := ofBytes_beBytes_of_lt hns
  rw [Frame.encode, List.append_assoc]
  refine (readFrame_of_kind rfl (by simp; omega)).trans ?_
  simp [slice_append_of_le, slice_append_of_length, slice_cons_succ, slice_cons_one, ofBytes_byte_of_lt,
    -ofBytes_beBytes, *]

/-- Settles O15: kind by kind, each field read where its bytes stand. -/
theorem exchangeFramesRoundTrip : Obligations.ExchangeFramesRoundTrip := by
  unfold Obligations.ExchangeFramesRoundTrip
  intro f padding h
  cases f with
  | mark m => exact readFrame_mark h padding
  | state m t => exact readFrame_state h.1 h.2 padding
  | query r q => exact readFrame_query h q padding
  | reply r q sec ns c cls => exact readFrame_reply h padding

end Sys2Proof.Machine

/-! SUPPORT. Command frames, their codes and payload layouts, and response frames (R167, R168, R174). -/

namespace Sys2Proof.Machine

open Sys2Proof.Config Sys2Proof.Safety

/-! ### Command frames (R167, R174) -/

section CommandFrame

variable {code tag check : Byte} {payload : List Byte}

/-- The length byte of a payload of at most 64 bytes is its length. -/
theorem payloadLength_toNat (h : payload.length ≤ 64) : (BitVec.ofNat 8 payload.length).toNat = payload.length :=
  Nat.mod_eq_of_lt (by omega)

theorem framePayload_eq (h : payload.length ≤ 64) :
    framePayload (code :: tag :: BitVec.ofNat 8 payload.length :: (payload ++ [check])) = payload := by
  show (payload ++ [check]).take (BitVec.ofNat 8 payload.length).toNat = payload
  rw [payloadLength_toNat h, List.take_left]

/-- A frame whose length byte is at most 64 passes its checks when its bytes sum to 0. -/
theorem frameOk_iff_byteSum {length : Byte} (h : length.toNat ≤ 64) (rest : List Byte) :
    frameOk (code :: tag :: length :: rest) = true ↔ byteSum (code :: tag :: length :: rest) = 0#8 := by
  simp [frameOk, h]

/-- A frame whose length byte exceeds 64 fails its checks, whatever follows. -/
theorem readCommandFrame_of_long {length : Byte} (h : 64 < length.toNat) (rest : List Byte) :
    readCommandFrame (code :: tag :: length :: rest) = .error .badCheck := by
  have hf : ¬frameOk (code :: tag :: length :: rest) = true := by simp [frameOk, h]
  rw [readCommandFrame, if_neg hf]

end CommandFrame

/-! ### The payloads' fields (R168) -/

theorem ofBytes_one (a : Byte) : ofBytes [a] = a.toNat := by
  simp [ofBytes]

theorem ofBytes_two (b c : Byte) : ofBytes [b, c] = b.toNat * 256 + c.toNat := by
  simp [ofBytes]

/-- A signed field of four bytes reads as the word it carries (R163). -/
theorem intOfBytes_word (w : BitVec 32) : intOfBytes (beBytes 4 w.toNat) = w.toInt := by
  have hm : ofBytes (beBytes 4 w.toNat) = w.toNat := ofBytes_beBytes_of_lt w.isLt
  simp [intOfBytes, hm, BitVec.toInt_eq_toNat_cond, -ofBytes_beBytes]

theorem withLength_of_ne {n : Nat} {payload : List Byte} (h : payload.length ≠ n) (c : Command) :
    withLength n payload c = .error .badValue := if_neg h

theorem withLength_zero (payload : List Byte) (c : Command) :
    withLength 0 payload c = if payload = [] then .ok c else .error .badValue := by
  simp [withLength]

/-- The codes that R168 lists. -/
def listedCodes : List Byte :=
  [0x01#8, 0x02#8, 0x10#8, 0x11#8, 0x20#8, 0x21#8, 0x30#8, 0x31#8, 0x40#8, 0x50#8, 0x51#8, 0x52#8, 0x53#8, 0x54#8,
    0x60#8, 0x61#8, 0x62#8]

/-- No arm of the code table but the last is left for a code not listed. -/
theorem readCommand_of_unlisted {code : Byte} (h : code ∉ listedCodes) (payload : List Byte) :
    readCommand code payload = .error .badCommand := by
  simp only [listedCodes, List.mem_cons, List.not_mem_nil, or_false, not_or, ← BitVec.toNat_inj] at h
  unfold readCommand
  split <;> simp_all

theorem readCommand_stepTime (seconds nanos : BitVec 32) :
    readCommand 0x11#8 (beBytes 4 seconds.toNat ++ beBytes 4 nanos.toNat) =
      .ok (.stepTime seconds.toInt nanos.toInt) := by
  rw [← intOfBytes_word, ← intOfBytes_word]
  rfl

/-- Settles O17: frames, codes and layouts one by one. -/
theorem managementFramesChecked : Obligations.ManagementFramesChecked := by
  unfold Obligations.ManagementFramesChecked
  refine ⟨?_, ?_, ?_, rfl, ?_, readCommand_stepTime, ?_⟩
  · intro code tag check payload h frame
    have hok : frameOk frame = true ↔ byteSum frame = 0#8 :=
      frameOk_iff_byteSum ((payloadLength_toNat h).trans_le h) (payload ++ [check])
    refine ⟨rfl, fun hs => ?_, fun hs => ?_⟩
    · rw [readCommandFrame, if_pos (hok.mpr hs), framePayload_eq h]
      rfl
    · rw [readCommandFrame, if_neg (mt hok.mp hs)]
  · exact fun code tag length rest h => ⟨rfl, readCommandFrame_of_long h rest⟩
  · intro tag st payload
    exact ⟨byteSum_check (tag :: statusCode st :: byte payload.length :: payload), _, rfl⟩
  · intro a b c
    rw [← ofBytes_one, ← ofBytes_two]
    exact ⟨rfl, rfl, rfl, fun _ => rfl⟩
  · intro payload
    refine ⟨rfl, rfl, fun h => if_neg h.not_ge, ?_, ?_, fun code h => readCommand_of_unlisted h payload⟩
    · simp only [List.forall_mem_cons]
      exact ⟨fun h => withLength_of_ne h _, fun h => withLength_of_ne h _, fun h => withLength_of_ne h _,
        fun h => withLength_of_ne h _, fun _ h => absurd h List.not_mem_nil⟩
    · simp only [List.forall_mem_cons, ← withLength_zero]
      exact ⟨rfl, rfl, rfl, rfl, rfl, rfl, rfl, rfl, rfl, rfl, fun _ h => absurd h List.not_mem_nil⟩

end Sys2Proof.Machine

/-! SUPPORT. A transaction on a management link: its status byte, the bytes clocked both ways, the frame they bring
and its end (R167, R169, R170, R186). -/

namespace Sys2Proof.Machine

open Sys2Proof.Config Sys2Proof.Safety

/-! ### One link changed -/

/-- A link changed is that link put where the change takes it. -/
theorem State.modLink_to {s : State} {l : Link} {f : LinkUnit → LinkUnit} {v : LinkUnit} (h : f s.links[l] = v) :
    s.modLink l f = s.modLink l fun _ => v := by
  unfold State.modLink
  rw [h]

/-! ### Delivery and release (R169, R170) -/

section Transaction

variable {k : LinkUnit} {t : Transaction}

/-- The response in delivery leaves the queue once its last byte is out, and not before. -/
theorem LinkUnit.deliver_eq (h : k.transaction = some t) :
    k.deliver = if ∃ f, k.delivery = some f ∧ 1 + f.length ≤ t.out.length then
        { k with
          responses := k.responses.drop 1, delivery := none
          counters := { k.counters with delivered := k.counters.delivered + 1 } }
      else k := by
  unfold LinkUnit.deliver
  rw [if_congr (LinkUnit.clockedOut_iff h) rfl rfl]
  rfl

theorem LinkUnit.release_eq (h : k.transaction = some t) :
    k.release = { k.deliver with
      transaction := none, delivery := none
      counters :=
        if t.ended = true ∨ t.received = [] then k.deliver.counters
        else if t.received = [0#8] then { k.deliver.counters with empty := k.deliver.counters.empty + 1 }
        else { k.deliver.counters with part := k.deliver.counters.part + 1 } } := by
  unfold LinkUnit.release
  simp only [h, Bool.or_eq_true, List.isEmpty_iff]
  split_ifs <;> rfl

/-! ### Bytes clocked both ways (R167, R170) -/

/-- A frame taken or dropped leaves the transaction, the response in delivery and the response queue alone. -/
theorem LinkUnit.takeFrame_frame (k : LinkUnit) (frame : List Byte) :
    (k.takeFrame frame).transaction = k.transaction ∧ (k.takeFrame frame).delivery = k.delivery ∧
    (k.takeFrame frame).responses = k.responses := by
  rw [LinkUnit.takeFrame_eq]
  split_ifs <;> exact ⟨rfl, rfl, rfl⟩

/-- Whatever a byte brings, one is clocked out for it, and delivery goes on. -/
theorem LinkUnit.clockIn_out (h : k.transaction = some t) (b : Byte) :
    ∃ w, (k.clockIn b).transaction = some w ∧ w.status = t.status ∧ (k.clockIn b).delivery = k.delivery ∧
      (k.clockIn b).responses = k.responses ∧ w.out = t.out ++ [k.nextOut t] := by
  rcases LinkUnit.clockIn_cases h b with ⟨-, heq⟩ | ⟨-, -, -, heq⟩ | ⟨-, -, -, heq⟩
  · exact heq ▸ ⟨_, rfl, rfl, rfl, rfl, rfl⟩
  · obtain ⟨htr, hdel, hresp⟩ := LinkUnit.takeFrame_frame
      { k with transaction := some ⟨t.status, t.received ++ [b], true, t.out ++ [k.nextOut t]⟩ } (t.received ++ [b])
    exact heq ▸ ⟨_, htr, rfl, hdel, hresp, rfl⟩
  · exact heq ▸ ⟨_, rfl, rfl, rfl, rfl, rfl⟩

/-- Bytes after the frame's end, and all bytes of an empty frame, are ignored. -/
theorem LinkUnit.clockIn_ignored (h : k.transaction = some t) (hi : t.ended = true ∨ t.received = [0#8])
    (b : Byte) : k.clockIn b = { k with transaction := some { t with out := t.out ++ [k.nextOut t] } } := by
  rcases LinkUnit.clockIn_cases h b with ⟨-, heq⟩ | ⟨he, hr, -⟩ | ⟨he, hr, -⟩
  · exact heq
  · simp [he, hr] at hi
  · simp [he, hr] at hi

end Transaction

/-! ### A whole frame (R170) -/

/-- The frame's end stays behind once it is reached. -/
theorem frameEnded_append {got : List Byte} (h : frameEnded got = true) (more : List Byte) :
    frameEnded (got ++ more) = true := by
  unfold frameEnded at h ⊢
  cases hl : got[2]? with
  | none => simp [hl] at h
  | some len =>
    have hlt : 2 < got.length := (List.getElem?_eq_some_iff.mp hl).1
    rw [List.getElem?_append_left hlt, hl]
    simp only [hl, Bool.or_eq_true, decide_eq_true_eq, List.length_append] at h ⊢
    omega

/-- A whole frame ends at its last byte and not before. -/
theorem frameEnded_whole (code tag length : Byte) {rest : List Byte}
    (h : (length.toNat ≤ 64 ∧ rest.length = length.toNat + 1) ∨ (64 < length.toNat ∧ rest = [])) :
    frameEnded (code :: tag :: length :: rest) = true ∧
    frameEnded (code :: tag :: length :: rest).dropLast = false := by
  rcases h with ⟨hlen, hrest⟩ | ⟨hlen, rfl⟩
  · obtain ⟨a, rest, rfl⟩ := List.exists_cons_of_length_eq_add_one hrest
    simp only [List.length_cons, Nat.add_right_cancel_iff] at hrest
    simp [frameEnded, hrest]
    omega
  · simp [frameEnded, hlen]

/-- The first `n` bytes clocked out: the status byte, then the response in delivery, then 0x00 (R167). -/
def LinkUnit.outBytes (k : LinkUnit) (status : Byte) (n : Nat) : List Byte :=
  (List.range n).map fun i => ((status :: k.delivery.getD [])[i]?).getD 0#8

theorem LinkUnit.outBytes_succ (k : LinkUnit) (status : Byte) (n : Nat) :
    k.outBytes status (n + 1) = status :: (List.range n).map fun i => ((k.delivery.getD [])[i]?).getD 0#8 := by
  simp [LinkUnit.outBytes, List.range_succ_eq_map, Function.comp_def]

/-- A transaction with the bytes `got` of its frame in, and as many bytes out. -/
def LinkUnit.receiving (k : LinkUnit) (status : Byte) (got : List Byte) (ended : Bool) : LinkUnit :=
  { k with transaction := some ⟨status, got, ended, k.outBytes status got.length⟩ }

/-- One more byte clocked out. -/
theorem LinkUnit.receiving_nextOut (k : LinkUnit) (status : Byte) (got : List Byte) (b : Byte) :
    k.outBytes status got.length ++
        [(k.receiving status got false).nextOut ⟨status, got, false, k.outBytes status got.length⟩] =
      k.outBytes status (got ++ [b]).length := by
  simp [LinkUnit.nextOut, LinkUnit.outBytes, LinkUnit.receiving, List.range_succ]

section Reception

variable {k : LinkUnit} {status : Byte}

/-- A byte that does not end the frame joins it. -/
theorem LinkUnit.clockIn_receiving_of_open {got : List Byte} {b : Byte} (h0 : got ≠ [0#8])
    (he : frameEnded (got ++ [b]) = false) :
    (k.receiving status got false).clockIn b = k.receiving status (got ++ [b]) false := by
  rcases LinkUnit.clockIn_cases (k := k.receiving status got false) rfl b with
    ⟨h | h, -⟩ | ⟨-, -, h, -⟩ | ⟨-, -, -, heq⟩
  · cases h
  · exact absurd h h0
  · exact absurd (h.symm.trans he) (by decide)
  · rw [heq, LinkUnit.receiving_nextOut k status got b]
    rfl

/-- The byte that ends the frame hands it on. -/
theorem LinkUnit.clockIn_receiving_of_ended {got : List Byte} {b : Byte} (h0 : got ≠ [0#8])
    (he : frameEnded (got ++ [b]) = true) :
    (k.receiving status got false).clockIn b = (k.receiving status (got ++ [b]) true).takeFrame (got ++ [b]) := by
  rcases LinkUnit.clockIn_cases (k := k.receiving status got false) rfl b with
    ⟨h | h, -⟩ | ⟨-, -, -, heq⟩ | ⟨-, -, h, -⟩
  · cases h
  · exact absurd h h0
  · rw [heq, LinkUnit.receiving_nextOut k status got b]
    rfl
  · exact absurd (h.symm.trans he) (by decide)

/-- Bytes that neither end a frame nor begin an empty one are all in reception. -/
theorem LinkUnit.foldl_clockIn_of_open (hk : k.transaction = some ⟨status, [], false, []⟩) (got : List Byte)
    (h0 : got.head? ≠ some 0#8) (he : frameEnded got = false) :
    got.foldl LinkUnit.clockIn k = k.receiving status got false := by
  induction got using List.reverseRecOn with
  | nil =>
    cases k
    cases hk
    rfl
  | append_singleton got b ih =>
    have hopen : frameEnded got = false :=
      Bool.eq_false_of_not_eq_true fun h => by simp [frameEnded_append h] at he
    have hhead : got.head? ≠ some 0#8 := fun h => h0 (by simp [h])
    have hne : got ≠ [0#8] := fun h => hhead (by rw [h]; rfl)
    rw [List.foldl_append, ih hhead hopen]
    exact LinkUnit.clockIn_receiving_of_open hne he

/-- A whole frame clocked in is handed on, and the bytes out are as many. -/
theorem LinkUnit.foldl_clockIn_whole (hk : k.transaction = some ⟨status, [], false, []⟩) {frame : List Byte}
    (h0 : frame.head? ≠ some 0#8) (he : frameEnded frame = true) (ho : frameEnded frame.dropLast = false) :
    frame.foldl LinkUnit.clockIn k = (k.receiving status frame true).takeFrame frame := by
  rcases List.eq_nil_or_concat' frame with rfl | ⟨got, b, rfl⟩
  · cases he
  · rw [List.dropLast_concat] at ho
    have hhead : got.head? ≠ some 0#8 := fun h => h0 (by simp [h])
    have hne : got ≠ [0#8] := fun h => hhead (by rw [h]; rfl)
    rw [List.foldl_append, LinkUnit.foldl_clockIn_of_open hk got hhead ho]
    exact LinkUnit.clockIn_receiving_of_ended hne he

end Reception

/-! ### The commands -/

section Commands

variable {s : State} {l : Link}

theorem exec_selectAsserted (h : s.links[l].transaction = none) :
    exec (.selectAsserted l) s = .next (s.modLink l fun _ => s.links[l].assert (s.statusByte l)) := by
  simp only [exec, execSelectAsserted, h]
  rfl

theorem exec_responseDelivered {v : LinkUnit} (h : s.links[l].deliver = v) :
    exec (.responseDelivered l) s = .next (s.modLink l fun _ => v) :=
  congrArg Host.Outcome.next (State.modLink_to h)

theorem exec_commandFrameReceived {bytes : List Byte} {v : LinkUnit}
    (h : bytes.foldl LinkUnit.clockIn s.links[l] = v) :
    exec (.commandFrameReceived l bytes) s = .next (s.modLink l fun _ => v) :=
  congrArg Host.Outcome.next (State.modLink_to h)

theorem exec_selectReleased {v : LinkUnit} (h : s.links[l].release = v) :
    exec (.selectReleased l) s = .next (s.modLink l fun _ => v) :=
  congrArg Host.Outcome.next (State.modLink_to h)

end Commands

/-- Settles O53: the status byte bit by bit, then the select, the bytes, the frames and the release. -/
theorem transactionsOnLinks : Obligations.TransactionsOnLinks := by
  unfold Obligations.TransactionsOnLinks
  intro s l k becomes bit delivered
  refine ⟨?_, exec_selectAsserted, fun t ht => ?_, ?_⟩
  · simp only [bit, State.statusByte_getLsbD, State.attention_iff]
    refine ⟨by simp [k], by simp [k], by simp [k], by simp [k], fun i hi => ?_⟩
    rintro (⟨rfl, -⟩ | ⟨rfl, -⟩ | ⟨rfl, -⟩ | ⟨rfl, -⟩) <;> omega
  · intro whole
    have hdeliver := LinkUnit.deliver_eq ht
    refine ⟨fun hw => exec_responseDelivered (hdeliver.trans (if_pos hw)),
      fun hw => exec_responseDelivered (hdeliver.trans (if_neg hw)), fun b => ?_, fun hi b => ?_, ?_⟩
    · obtain ⟨w, hw, hstatus, hdelivery, hresponses, hout⟩ := LinkUnit.clockIn_out ht b
      exact ⟨_, w, exec_commandFrameReceived rfl, hw, hstatus, hdelivery, hresponses,
        hout.trans (by rw [LinkUnit.nextOut_eq])⟩
    · exact ⟨_, exec_commandFrameReceived (LinkUnit.clockIn_ignored ht hi b)⟩
    · intro after
      have hafter : k.deliver = after := hdeliver
      exact exec_selectReleased (hafter ▸ LinkUnit.release_eq ht)
  · intro st code tag length rest ht hc hlength frame out
    obtain ⟨hended, hopen⟩ := frameEnded_whole code tag length hlength
    have hhead : frame.head? ≠ some 0#8 := fun h => hc (Option.some.inj h)
    have htake : frame.foldl LinkUnit.clockIn k =
        { k with transaction := some ⟨st, frame, true, out⟩ }.takeFrame frame := by
      rw [LinkUnit.foldl_clockIn_whole ht hhead hended hopen, LinkUnit.receiving]
      exact congrArg (fun o => { k with transaction := some ⟨st, frame, true, o⟩ }.takeFrame frame)
        (LinkUnit.outBytes_succ ..)
    rw [LinkUnit.takeFrame_eq] at htake
    refine ⟨fun hroom => exec_commandFrameReceived (htake.trans ?_),
      fun hfull => exec_commandFrameReceived (htake.trans (if_neg (by exact hfull.not_gt)))⟩
    have hthree : 4 ≤ k.commands.length + 1 ↔ k.commands.length = 3 := by omega
    simp only [if_pos hroom, hthree]

end Sys2Proof.Machine

/-! SUPPORT. Which link the executor grants, and what it makes of the command it takes (R172 to R174). -/

namespace Sys2Proof.Machine

open Sys2Proof.Config Sys2Proof.Safety

/-! ### The arbiter's order (R173) -/

/-- The place of a link in the order that begins after the link last served. -/
def turn (last m : Link) : Nat :=
  (m.val + 2 - last.val) % 3

theorem grantOrder_pairwise (last : Link) : (grantOrder last).Pairwise fun m n => turn last m < turn last n := by
  revert last
  decide

theorem mem_grantOrder (last l : Link) : l ∈ grantOrder last := by
  revert last l
  decide

/-- In an ordered list the first that passes is the one before all others that pass. -/
theorem find?_eq_some_of_pairwise {α : Type} {f : α → Nat} {p : α → Bool} {a : α} {xs : List α}
    (hs : xs.Pairwise fun x y => f x < f y) (ha : a ∈ xs) (hp : p a = true)
    (hfirst : ∀ x, p x = true → x ≠ a → f a < f x) : xs.find? p = some a := by
  induction xs with
  | nil => cases ha
  | cons x xs ih =>
    obtain ⟨hx, hs⟩ := List.pairwise_cons.mp hs
    rcases List.mem_cons.mp ha with rfl | ha
    · exact List.find?_cons_of_pos hp
    · have hnot : ¬p x = true := fun hpx =>
        absurd (hx a ha) (hfirst x hpx fun h => (hx a ha).ne (congrArg f h)).not_gt
      rw [List.find?_cons_of_neg hnot]
      exact ih hs ha

section Grant

variable {s : State} {l : Link}

theorem LinkUnit.eligible_iff {k : LinkUnit} : k.eligible = true ↔ k.commands ≠ [] ∧ k.responses.length < 4 := by
  rw [LinkUnit.eligible, Bool.and_eq_true, decide_eq_true_iff, Bool.not_eq_true', List.isEmpty_eq_false_iff]
  rfl

/-- The link granted is eligible, escalated if any eligible link is, and first in turn among its like. -/
theorem State.grantee_eq (he : s.links[l].eligible = true)
    (hesc : s.links[l].escalated = false → ∀ m : Link, s.links[m].eligible = true → s.links[m].escalated = false)
    (hfirst : ∀ m : Link, s.links[m].eligible = true → m ≠ l → s.links[m].escalated = s.links[l].escalated →
      turn s.executor.lastServed l < turn s.executor.lastServed m) : s.grantee = some l := by
  have hsorted := grantOrder_pairwise s.executor.lastServed
  have hmem := mem_grantOrder s.executor.lastServed l
  cases hl : s.links[l].escalated with
  | true =>
    have hsome : (grantOrder s.executor.lastServed).find?
        (fun m => s.links[m].eligible && s.links[m].escalated) = some l := by
      refine find?_eq_some_of_pairwise hsorted hmem (Bool.and_eq_true_iff.mpr ⟨he, hl⟩) fun m hm hne => ?_
      obtain ⟨hme, hmesc⟩ := Bool.and_eq_true_iff.mp hm
      exact hfirst m hme hne (hmesc.trans hl.symm)
    exact congrArg (Option.or · _) hsome
  | false =>
    have hnone : (grantOrder s.executor.lastServed).find?
        (fun m => s.links[m].eligible && s.links[m].escalated) = none := by
      refine List.find?_eq_none.mpr fun m _ hm => ?_
      obtain ⟨hme, hmesc⟩ := Bool.and_eq_true_iff.mp hm
      exact Bool.false_ne_true ((hesc hl m hme).symm.trans hmesc)
    have hsome : (grantOrder s.executor.lastServed).find? (fun m => s.links[m].eligible) = some l :=
      find?_eq_some_of_pairwise hsorted hmem he fun m hm hne =>
        hfirst m hm hne ((hesc hl m hm).trans hl.symm)
    exact congrArg₂ Option.or hnone hsome

theorem exec_commandGrant (hidle : s.executor.running = none) (hg : s.grantee = some l) :
    exec .commandGrant s = .next (s.grant l) := by
  simp only [exec, execCommandGrant, hidle, hg]

/-! ### The command taken (R173, R174) -/

theorem State.takeCommand_of_ok {frame : List Byte} {c : Command} (h : readCommandFrame frame = .ok c) :
    s.takeCommand l frame =
      { s with executor := { s.executor with running := some ⟨l, (frame[1]?).getD 0#8, c, []⟩ } } := by
  rw [State.takeCommand, h]
  rfl

/-- A bad frame is answered at once, and a failed check counted (R174). -/
theorem State.takeCommand_of_error {frame : List Byte} {st : Status} (h : readCommandFrame frame = .error st) :
    s.takeCommand l frame = s.modLink l fun k => { k with
      responses := k.responses ++ [responseFrame ((frame[1]?).getD 0#8) st []]
      counters := { k.counters with bad := k.counters.bad + (if st = .badCheck then 1 else 0) } } := by
  rw [State.takeCommand, h]
  by_cases hb : st = .badCheck
  · simp [State.badFrame, hb, State.modLink, LinkUnit.count, frameTag]
  · simp [State.badFrame, hb, State.modLink, frameTag]

end Grant

/-- The oldest command of the link granted has left its queue (R172, R173). -/
theorem State.grant_eq {s : State} {l : Link} {frame : List Byte} {rest : List (List Byte)}
    (h : s.links[l].commands = frame :: rest) :
    s.grant l = State.takeCommand
      { s.modLink l (fun k => { k with
          commands := rest
          escalated := if 4 ≤ rest.length then true else if rest.length ≤ 2 then false else k.escalated }) with
        executor := { s.executor with lastServed := l } } l frame := by
  rw [State.grant, h]
  rfl

/-- Settles O54: the grant by the arbiter's order, then the frame as it reads. -/
theorem executorGrantsAndAnswers : Obligations.ExecutorGrantsAndAnswers := by
  unfold Obligations.ExecutorGrantsAndAnswers
  refine ⟨?_, fun s r st payload => rfl⟩
  intro s l frame rest hidle hc eligible before he hesc hfirst k
  have hgrantee : s.grantee = some l :=
    State.grantee_eq (LinkUnit.eligible_iff.mpr he) (fun h m hm => hesc h m (LinkUnit.eligible_iff.mp hm))
      fun m hm => hfirst m (LinkUnit.eligible_iff.mp hm)
  have hgrant := (exec_commandGrant hidle hgrantee).trans (congrArg _ (State.grant_eq hc))
  cases hr : readCommandFrame frame with
  | ok c => exact hgrant.trans (congrArg _ (State.takeCommand_of_ok hr))
  | error st =>
    refine hgrant.trans (congrArg _ ((State.takeCommand_of_error hr).trans ?_))
    simp [State.modLink, k]

end Sys2Proof.Machine

/-! SUPPORT. The writes of the ACCESS section and LOCK ACCESS, check by check (R178 to R180). -/

namespace Sys2Proof.Machine

open Sys2Proof.Config Sys2Proof.Safety

/-! ### The checks before a write of the ACCESS section (R178) -/

/-- No link's own settings stand in ACCESS, so the right, the lock and the guards decide in that order. -/
theorem State.runWriteEntry_access {s : State} {r : Running} {index : Nat} {value : List Byte}
    (hl : s.readAccess index ≠ none) : s.runWriteEntry r 8 index value =
      if s.access.canWrite r.link 8 = false then s.respond r .denied []
      else if s.access.lock = true then s.respond r .locked []
      else if s.access.guarded 8 index = true then s.respond r .guarded []
      else match s.writeAccess index value with
        | .readOnly => s.respond r .refused []
        | .refuse st => s.respond r st []
        | .store t clamped => t.respond r (if clamped then .okClamped else .ok) (t.valueAt 8 index) := by
  have hown : ¬OwnSetting r 8 index := fun h => absurd h.1 (by decide)
  have hread : s.readEntry 8 index 0 ≠ none := hl
  rw [State.runWriteEntry_eq, if_neg (lt_irrefl 8), if_neg hread]
  simp only [hown, not_false_eq_true, and_true, true_and]
  rfl

theorem exec_accessTableWrite {s : State} {r : Running} {l : Link} {value : List Byte}
    (h : Runs s r (.writeEntry 8 l.val value)) :
    exec .accessTableWrite s = .next (s.runWriteEntry r 8 l.val value) :=
  congrArg Host.Outcome.next (State.writeAs_of_runs h (if_pos l.isLt))

theorem exec_guardEntryWrite {s : State} {r : Running} {k : Fin 4} {value : List Byte}
    (h : Runs s r (.writeEntry 8 (k.val + 8) value)) :
    exec .guardEntryWrite s = .next (s.runWriteEntry r 8 (k.val + 8) value) := by
  have hrow : writeRow 8 (k.val + 8) value = .guardEntry := by
    rw [writeRow, if_neg (by omega), if_pos (by omega)]
  exact congrArg Host.Outcome.next (State.writeAs_of_runs h hrow)

/-! ### The values (R168, R179) -/

/-- Two 16-bit words as four bytes. -/
theorem map_ofNat_words (v w : Nat) :
    [v / 256, v, w / 256, w].map (BitVec.ofNat 8) = beBytes 2 v ++ beBytes 2 w := by
  simp [beBytes, byte]

theorem ofBytes_word (v : BitVec 16) : ofBytes (beBytes 2 v.toNat) = v.toNat := by
  rw [ofBytes_beBytes]
  exact Nat.mod_eq_of_lt v.isLt

theorem getLsbD_zero_iff {w : Nat} (v : BitVec w) : v.getLsbD 0 = true ↔ v.toNat % 2 = 1 := by
  rw [BitVec.getLsbD, Nat.testBit_zero, decide_eq_true_iff]

theorem getLsbD_zero_eq_false_iff {w : Nat} (v : BitVec w) : v.getLsbD 0 = false ↔ v.toNat % 2 = 0 := by
  rw [← Bool.not_eq_true, getLsbD_zero_iff]
  omega

theorem readRights_words (rd wr : BitVec 16) :
    readRights (beBytes 2 rd.toNat ++ beBytes 2 wr.toNat) =
      if rd.toNat < 512 ∧ wr.toNat < 512 ∧ rd.getLsbD 0 = true ∧ wr.getLsbD 0 = false then
        some ⟨rd.setWidth 9, wr.setWidth 9⟩
      else none := by
  have hrd : ofBytes (slice (beBytes 2 rd.toNat ++ beBytes 2 wr.toNat) 0 2) = rd.toNat := ofBytes_word rd
  have hwr : ofBytes (slice (beBytes 2 rd.toNat ++ beBytes 2 wr.toNat) 2 2) = wr.toNat := ofBytes_word wr
  simp only [readRights, hrd, hwr, getLsbD_zero_iff, getLsbD_zero_eq_false_iff, List.length_append, length_beBytes,
    true_and]
  rfl

theorem readGuard_fields (use sect : Byte) (first last : BitVec 16) :
    readGuard (use :: sect :: (beBytes 2 first.toNat ++ beBytes 2 last.toNat)) =
      if use.toNat < 2 ∧ sect.toNat < 9 ∧ first.toNat ≤ last.toNat then
        some ⟨decide (use = 1#8), sect.toNat, first.toNat, last.toNat⟩
      else none := by
  have huse : ofBytes [use] = use.toNat := by simp [ofBytes]
  have hsect : ofBytes [sect] = sect.toNat := by simp [ofBytes]
  have hone : use.toNat = 1 ↔ use = 1#8 := by
    rw [BitVec.toNat_eq]
    rfl
  have h0 : slice (use :: sect :: (beBytes 2 first.toNat ++ beBytes 2 last.toNat)) 0 1 = [use] := rfl
  have h1 : slice (use :: sect :: (beBytes 2 first.toNat ++ beBytes 2 last.toNat)) 1 1 = [sect] := rfl
  have h2 : slice (use :: sect :: (beBytes 2 first.toNat ++ beBytes 2 last.toNat)) 2 2 =
    beBytes 2 first.toNat := rfl
  have h4 : slice (use :: sect :: (beBytes 2 first.toNat ++ beBytes 2 last.toNat)) 4 2 =
    beBytes 2 last.toNat := rfl
  simp only [readGuard, h0, h1, h2, h4, huse, hsect, ofBytes_word, hone, List.length_cons, List.length_append,
    length_beBytes, true_and]

/-! ### The values read back (R168, R179) -/

theorem State.readAccess_rights (s : State) (l : Link) : s.readAccess l.val =
    some (sectionSet s.access.rights[l].read ++ sectionSet s.access.rights[l].write) :=
  dif_pos l.isLt

theorem State.readAccess_guard (s : State) (k : Fin 4) :
    s.readAccess (k.val + 8) = some s.access.guards[k].bytes := by
  rw [State.readAccess, dif_neg (by omega), dif_pos (by omega)]
  rfl

theorem valueAt_rights (s : State) (l : Link) {rd wr : BitVec 16} (hrd : rd.toNat < 512) (hwr : wr.toNat < 512) :
    State.valueAt { s with access := { s.access with
      rights := s.access.rights.set l ⟨rd.setWidth 9, wr.setWidth 9⟩ } } 8 l.val =
    beBytes 2 rd.toNat ++ beBytes 2 wr.toNat := by
  rw [State.valueAt, State.readEntry, State.readAccess_rights]
  simp [sectionSet, Nat.mod_eq_of_lt, hrd, hwr]

theorem encBool_decide_one {b : Byte} (h : b.toNat < 2) : encBool (decide (b = 1#8)) = [b] := by
  rcases eq_of_toNat_lt_two h with rfl | rfl <;> rfl

theorem valueAt_guard (s : State) (k : Fin 4) {use sect : Byte} (huse : use.toNat < 2) (first last : Nat) :
    State.valueAt { s with access := { s.access with
      guards := s.access.guards.set k ⟨decide (use = 1#8), sect.toNat, first, last⟩ } } 8 (k.val + 8) =
    use :: sect :: (beBytes 2 first ++ beBytes 2 last) := by
  rw [State.valueAt, State.readEntry, State.readAccess_guard]
  simp [Guard.bytes, one, byte, encBool_decide_one huse]

/-- Settles O56: the checks of a write of ACCESS, then the value taken apart and read back. -/
theorem accessWritesAndLock : Obligations.AccessWritesAndLock := by
  unfold Obligations.AccessWritesAndLock
  refine ⟨fun s r l value hr => ?_, fun s r k value hr => ?_, fun s r hr => ?_⟩
  · have hlisted : s.readAccess l.val ≠ none := by simp [State.readAccess_rights]
    rw [exec_accessTableWrite hr, State.runWriteEntry_access hlisted]
    dsimp only
    split_ifs
    · rfl
    · rfl
    · rfl
    · refine ⟨fun hlength => ?_, fun rd wr hvalue => ?_⟩
      · rw [s.writeAccess_rights l.isLt hlength]
      · rw [map_ofNat_words] at hvalue
        rw [State.writeAccess, dif_pos l.isLt, hvalue, readRights_words]
        split_ifs with hrights
        · exact congrArg (fun v => Host.Outcome.next (State.respond _ r .ok v))
            (valueAt_rights s l hrights.1 hrights.2.1)
        · rfl
  · have hindex : 8 ≤ k.val + 8 ∧ k.val + 8 < 12 := by omega
    have hrest : ¬k.val + 8 < 3 := by omega
    have hlisted : s.readAccess (k.val + 8) ≠ none := by simp [State.readAccess_guard]
    rw [exec_guardEntryWrite hr, State.runWriteEntry_access hlisted]
    dsimp only
    split_ifs
    · rfl
    · rfl
    · rfl
    · refine ⟨fun hlength => ?_, fun use sect first last hvalue => ?_⟩
      · rw [s.writeAccess_guard hindex hlength]
      · rw [map_ofNat_words] at hvalue
        rw [State.writeAccess, dif_neg hrest, dif_pos hindex, hvalue, readGuard_fields]
        split_ifs with hguard
        · exact congrArg (fun v => Host.Outcome.next (State.respond _ r .ok v))
            (valueAt_guard s k hguard.1 first.toNat last.toNat)
        · rfl
  · have hexec : exec .lockAccess s = .next (s.runLockAccess r) :=
      congrArg Host.Outcome.next (State.onCommand_of_runs hr rfl)
    simp only [hexec, State.runLockAccess, Bool.not_eq_true']
    split_ifs <;> rfl

end Sys2Proof.Machine

/-! SUPPORT. Classes latched, taken by priority and ended, and the writes of a link's notice and fault settings (R178,
R185 to R188, R194). -/

namespace Sys2Proof.Machine

open Sys2Proof.Config Sys2Proof.Safety

/-! ### The highest-priority deliverable class (R186, R187) -/

/-- The classes stand in the list in the order of their bits. -/
theorem getElem?_allClasses (c : NoticeClass) : allClasses[(classBit c).val]? = some c := by
  cases c <;> rfl

theorem classBit_val_inj {c d : NoticeClass} (h : (classBit c).val = (classBit d).val) : c = d := by
  have hd := getElem?_allClasses d
  rw [← h, getElem?_allClasses c] at hd
  exact Option.some.inj hd

theorem mem_allClasses (c : NoticeClass) : c ∈ allClasses :=
  List.mem_of_getElem? (getElem?_allClasses c)

theorem allClasses_pairwise : allClasses.Pairwise fun c d => (classBit c).val < (classBit d).val := by
  decide

theorem NoticeLink.best_of_none {n : NoticeLink} (h : ∀ c, ¬Deliverable n c) : n.best = none :=
  List.find?_eq_none.mpr fun c _ hc => h c (NoticeLink.deliverable_iff.mp hc)

theorem NoticeLink.best_of_first {n : NoticeLink} {c : NoticeClass} (hc : Deliverable n c)
    (hfirst : ∀ d, Deliverable n d → (classBit c).val ≤ (classBit d).val) : n.best = some c := by
  refine find?_eq_some_of_pairwise allClasses_pairwise (mem_allClasses c)
    (NoticeLink.deliverable_iff.mpr hc) fun d hd hne => ?_
  have hle := hfirst d (NoticeLink.deliverable_iff.mp hd)
  exact lt_of_le_of_ne hle fun h => hne (classBit_val_inj h.symm)

/-! ### The commands (R185, R187, R188) -/

section Commands

variable {s : State} {r : Running}

theorem exec_takeNotice (h : Runs s r .takeNotice) : exec .takeNotice s = .next (s.runTakeNotice r) :=
  congrArg Host.Outcome.next (State.onCommand_of_runs h rfl)

theorem State.runTakeNotice_of_none (h : s.notice.links[r.link].best = none) :
    s.runTakeNotice r = s.respond r .ok
      [0#8, byte s.notice.links[r.link].latch.toNat, byte s.notice.links[r.link].stack.length] := by
  simp only [State.runTakeNotice, h]

theorem State.runTakeNotice_of_some {c : NoticeClass} (h : s.notice.links[r.link].best = some c) :
    s.runTakeNotice r =
      (s.modNotice r.link fun v =>
        { v with latch := removeClass s.notice.links[r.link].latch c, stack := c :: v.stack }).respond r .ok
          [byte (classCode c), byte (removeClass s.notice.links[r.link].latch c).toNat,
            byte (s.notice.links[r.link].stack.length + 1)] := by
  simp only [State.runTakeNotice, h]

theorem exec_endService (h : Runs s r .endService) : exec .endService s = .next (s.runEndService r) :=
  congrArg Host.Outcome.next (State.onCommand_of_runs h rfl)

theorem State.runEndService_of_nil (h : s.notice.links[r.link].stack = []) :
    s.runEndService r = s.respond r .refused [] := by
  simp only [State.runEndService, h]
  rfl

theorem State.runEndService_of_cons {c : NoticeClass} {rest : List NoticeClass}
    (h : s.notice.links[r.link].stack = c :: rest) :
    s.runEndService r = (s.modNotice r.link fun v => { v with stack := rest }).respond r .ok
      [byte (classCode c), byte rest.length] := by
  simp only [State.runEndService, h]

/-- The oldest event of a class leaves the channel and latches the class in every link (R185). -/
theorem exec_noticeLatch {c : NoticeClass} {old new : List NoticeClass}
    (h : s.flight.latches = old ++ c :: new) (hold : c ∉ old) :
    exec (.noticeLatch c) s =
      .next ((s.modFlight fun f => { f with latches := old ++ new }).mapNotice fun n => n.take c) := by
  have hmem : c ∈ s.flight.latches := by simp [h]
  have hdrop : dropFirst c s.flight.latches = old ++ new := by rw [h, dropFirst_append hold]
  simp only [exec, execNoticeLatch, if_pos hmem, State.modFlight, hdrop]

end Commands

/-! ### A link's notice and fault settings (R178, R194) -/

section Settings

variable {s : State} {r : Running} {l : Link} {off : Nat}

theorem writeRow_notice (h : off < 16) (value : List Byte) :
    writeRow 1 (32 + 16 * l.val + off) value =
      if off = 0 then .noticeMask else if off = 1 then .nestMode else .writeEntry := by
  rw [writeRow, noticeIndex_link l h]
  rcases off with _ | _ | off <;> rfl

theorem State.modNotice_getElem (s : State) (l : Link) (f : NoticeLink → NoticeLink) :
    (s.modNotice l f).notice.links[l] = f s.notice.links[l] := by
  simp

/-- An enumerated setting or a set of a link, from how it is stored and read. -/
theorem noticeSetting_enumWrite {c : Instr} {row : WriteRow} {n : Nat} {store : Byte → NoticeLink → NoticeLink}
    (hc : exec c s = .next (s.writeAs row)) (h : off < 16)
    (hrow : (if off = 0 then WriteRow.noticeMask else if off = 1 then .nestMode else .writeEntry) = row)
    (hs : ∀ value, s.writeNotice l off value =
      storeEnum n value fun k => s.modNotice l (store (BitVec.ofNat 8 k)))
    (hr : ∀ (b : Byte) (v : NoticeLink), b.toNat < n → (store b v).read off = some [b])
    (hl : s.notice.links[l].read off ≠ none) :
    EnumWrite c s r 1 (32 + 16 * l.val + off) n fun b => s.modNotice l (store b) := by
  refine enumWrite_of_storeEnum hc (fun value => (writeRow_notice h value).trans hrow) (by decide)
    (by rwa [State.readEntry_notice s l h]) (fun value => (s.storeEntry_notice l h value).trans (hs value))
    fun b hb => ?_
  rw [State.readEntry_notice _ l h, State.modNotice_getElem, hr b _ hb]

/-- A set of six or four members reads back as it was written. -/
theorem one_setWidth {b : Byte} {w : Nat} (h : b.toNat < 2 ^ w) : one (b.setWidth w).toNat = [b] := by
  rw [BitVec.toNat_setWidth, Nat.mod_eq_of_lt h]
  simp [one, byte]

/-- The cycle-notice mode of a byte (R194). -/
def modeOfByte (b : Byte) : CycleMode :=
  if b = 0#8 then .delay else if b = 1#8 then .complete else if b = 2#8 then .either else .both

theorem cycleModeOf_eq_modeOfByte {k : Nat} (h : k < 4) : cycleModeOf k = modeOfByte (BitVec.ofNat 8 k) := by
  interval_cases k <;> rfl

theorem one_code_modeOfByte {b : Byte} (h : b.toNat < 4) : one (modeOfByte b).code = [b] := by
  obtain ⟨k, hk, rfl⟩ : ∃ k < 4, b = BitVec.ofNat 8 k := ⟨b.toNat, h, by simp⟩
  interval_cases k <;> rfl

theorem noticeMask_enumWrite : EnumWrite .noticeMaskWrite s r 1 (32 + 16 * l.val) 64 fun b =>
    s.modNotice l fun n => { n with mask := b.setWidth 6 } :=
  noticeSetting_enumWrite (off := 0) (store := fun b n => { n with mask := b.setWidth 6 }) rfl (by decide) rfl
    (fun value => storeSet_eq_storeEnum 6 value _) (fun _ _ hb => congrArg some (one_setWidth (w := 6) hb))
    (Option.some_ne_none _)

theorem nestMode_enumWrite : EnumWrite .nestModeWrite s r 1 (32 + 16 * l.val + 1) 2 fun b =>
    s.modNotice l fun n => { n with nest := decide (b = 0#8) } := by
  refine noticeSetting_enumWrite (store := fun b n => { n with nest := decide (b = 0#8) }) rfl (by decide) rfl
    (fun value => (State.writeNotice.eq_2 s l value).trans (storeEnum_congr fun k hk => ?_))
    (fun b _ hb => congrArg some ?_) (Option.some_ne_none _)
  · interval_cases k <;> rfl
  · rcases eq_of_toNat_lt_two hb with rfl | rfl <;> rfl

theorem cycleMode_enumWrite : EnumWrite .writeEntry s r 1 (32 + 16 * l.val + 2) 4 fun b =>
    s.modNotice l fun n => { n with mode := modeOfByte b } := by
  refine noticeSetting_enumWrite (store := fun b n => { n with mode := modeOfByte b }) rfl (by decide) rfl
    (fun value => (State.writeNotice.eq_3 s l value).trans (storeEnum_congr fun k hk => ?_))
    (fun _ _ hb => congrArg some (one_code_modeOfByte hb)) (Option.some_ne_none _)
  rw [cycleModeOf_eq_modeOfByte hk]

theorem noticeDelay_numericWrite : NumericWrite .writeEntry s r 1 (32 + 16 * l.val + 3) 1 0 39 fun m =>
    s.modNotice l fun n => { n with delay := m.toNat } := by
  refine numericWrite_of_storeNum (row := .writeEntry) rfl (writeRow_notice (by decide)) (by decide) ?_ (by decide)
    (by decide) (s.storeEntry_notice l (by decide)) fun m _ _ => ?_
  · rw [State.readEntry_notice s l (by decide)]
    exact Option.some_ne_none _
  · rw [State.readEntry_notice _ l (by decide), State.modNotice_getElem]
    exact congrArg some (one_eq_beBytes m.toNat)

theorem admitMask_enumWrite : EnumWrite .writeEntry s r 1 (32 + 16 * l.val + 4) 16 fun b =>
    s.modNotice l fun n => { n with admitMask := b.setWidth 4 } :=
  noticeSetting_enumWrite (store := fun b n => { n with admitMask := b.setWidth 4 }) rfl (by decide) rfl
    (fun value => storeSet_eq_storeEnum 4 value _) (fun _ _ hb => congrArg some (one_setWidth (w := 4) hb))
    (Option.some_ne_none _)

end Settings

/-- Settles O58: the latch, the class that TAKE NOTICE finds first, END SERVICE, the line, the five settings. -/
theorem noticesLatchedTakenAndEnded : Obligations.NoticesLatchedTakenAndEnded := by
  unfold Obligations.NoticesLatchedTakenAndEnded
  refine ⟨fun s c old new h hold => exec_noticeLatch h hold, fun s r hr => ?_, fun s r hr => ?_,
    fun s l => State.attention_iff, fun s r l => ?_⟩
  · rw [exec_takeNotice hr]
    exact ⟨fun hnone => congrArg _ (State.runTakeNotice_of_none (NoticeLink.best_of_none hnone)),
      fun c hc hfirst => congrArg _ (State.runTakeNotice_of_some (NoticeLink.best_of_first hc hfirst))⟩
  · rw [exec_endService hr]
    exact ⟨fun hnil => congrArg _ (State.runEndService_of_nil hnil),
      fun c rest hcons => congrArg _ (State.runEndService_of_cons hcons)⟩
  · exact ⟨noticeMask_enumWrite, nestMode_enumWrite, cycleMode_enumWrite, noticeDelay_numericWrite,
      admitMask_enumWrite⟩

end Sys2Proof.Machine

/-! SUPPORT. What the promises of the links and of the access unit read of the part (the links, the executor, the access
unit), and the updates that leave all of it alone (R169 to R180). -/

namespace Sys2Proof.Machine

open Sys2Proof.Config Sys2Proof.Safety

/-- What the promises of the links and of the access unit read of the part. -/
structure Desk where
  links : Vector LinkUnit 3
  executor : Executor
  access : Access

def State.desk (s : State) : Desk where
  links := s.links
  executor := s.executor
  access := s.access

/-! ### The updates of one block -/

section Updates

variable (s : State)

@[simp] theorem State.modInput_desk (u : InUnit) (f : InputUnit → InputUnit) :
    (s.modInput u f).desk = s.desk := rfl

@[simp] theorem State.modUplink_desk (u : UpUnit) (f : UplinkUnit → UplinkUnit) :
    (s.modUplink u f).desk = s.desk := rfl

@[simp] theorem State.modEntry_desk (e : Ext) (f : SourceEntry → SourceEntry) :
    (s.modEntry e f).desk = s.desk := rfl

@[simp] theorem State.modSelector_desk (f : Selector → Selector) : (s.modSelector f).desk = s.desk := rfl

@[simp] theorem State.modSteering_desk (f : Steering → Steering) : (s.modSteering f).desk = s.desk := rfl

@[simp] theorem State.modPort_desk (p : Port) (f : PortUnit → PortUnit) : (s.modPort p f).desk = s.desk := rfl

@[simp] theorem State.modPulse_desk (k : PulseOut) (f : PulseUnit → PulseUnit) :
    (s.modPulse k f).desk = s.desk := rfl

@[simp] theorem State.modCoded_desk (m : CodedOut) (f : CodedUnit → CodedUnit) :
    (s.modCoded m f).desk = s.desk := rfl

@[simp] theorem State.modNotice_desk (l : Link) (f : NoticeLink → NoticeLink) :
    (s.modNotice l f).desk = s.desk := rfl

@[simp] theorem State.modFlight_desk (f : Flight → Flight) : (s.modFlight f).desk = s.desk := rfl

@[simp] theorem State.logFault_desk (b : FaultOrigin) (c e d : Nat) : (s.logFault b c e d).desk = s.desk := rfl

@[simp] theorem State.latch_desk (c : NoticeClass) : (s.latch c).desk = s.desk := rfl

@[simp] theorem State.toSelector_desk (e : Ext) (v : UnitEvent) : (s.toSelector e v).desk = s.desk := rfl

@[simp] theorem State.handRate_desk (w : Int) : (s.handRate w).desk = s.desk := rfl

@[simp] theorem State.portReport_desk (p : Port) (r : PortReport) : (s.portReport p r).desk = s.desk := rfl

end Updates

end Sys2Proof.Machine

/-! SUPPORT. What leaves the links, the executor and the access unit alone (R169 to R180): every operation of the other
blocks, chapter by chapter. -/

namespace Sys2Proof.Machine

open Sys2Proof.Config Sys2Proof.Safety

section DeskFrame

variable (s : State)

/-! ### Input units (chapter 2) -/

@[simp] theorem State.followScale_desk (e : Ext) : (s.followScale e).desk = s.desk := by
  unfold State.followScale; split <;> rfl

@[simp] theorem State.formPair_desk (u : InUnit) (tod : TimeOfDay) (c : Stamp) :
    (s.formPair u tod c).desk = s.desk := by
  unfold State.formPair; dsimp only; split <;> simp

@[simp] theorem unpaired_desk (u : InUnit) : (unpaired s u).desk = s.desk := by
  unfold unpaired; dsimp only; split <;> rfl

@[simp] theorem State.emitUnpaired_desk (u : InUnit) : (s.emitUnpaired u).desk = s.desk := by
  simp [State.emitUnpaired_eq]

@[simp] theorem State.settleHeld_desk (u : InUnit) (now : Stamp) :
    (s.settleHeld u now).desk = s.desk := by
  unfold State.settleHeld; split <;> simp

@[simp] theorem State.orphan_desk (u : InUnit) : (s.orphan u).desk = s.desk := rfl

@[simp] theorem State.pairPulse_desk (u : InUnit) (c : Stamp) : (s.pairPulse u c).desk = s.desk := by
  unfold State.pairPulse
  split
  · simp
  · split <;> simp

@[simp] theorem State.pairSentence_desk (u : InUnit) (tod : TimeOfDay) (now : Stamp) :
    (s.pairSentence u tod now).desk = s.desk := by
  unfold State.pairSentence
  dsimp only
  split
  · split <;> simp
  · simp

@[simp] theorem State.acceptPulse_desk (u : InUnit) (c : Stamp) (n : Count) :
    (s.acceptPulse u c n).desk = s.desk := by
  simp [State.acceptPulse]

@[simp] theorem State.pulse_desk (u : InUnit) (c : Stamp) : (s.pulse u c).desk = s.desk := by
  unfold State.pulse
  dsimp only
  split
  · simp
  · simp
  · split <;> simp

@[simp] theorem State.miss_desk (u : InUnit) : (s.miss u).desk = s.desk := rfl

/-! ### Source selector (chapter 4) -/

@[simp] theorem State.modInputOf_desk (e : Ext) (f : InputUnit → InputUnit) :
    (s.modInputOf e f).desk = s.desk := by
  unfold State.modInputOf; split <;> rfl

@[simp] theorem State.modUplinkOf_desk (e : Ext) (f : UplinkUnit → UplinkUnit) :
    (s.modUplinkOf e f).desk = s.desk := by
  unfold State.modUplinkOf; split <;> rfl

@[simp] theorem State.selectSource_desk (i : Source) : (s.selectSource i).desk = s.desk := by
  rw [State.selectSource_eq]; split <;> rfl

@[simp] theorem State.push_desk (e : Ext) (c : Cause) : (s.push e c).desk = s.desk := rfl

@[simp] theorem State.maskOptions_desk : s.maskOptions.desk = s.desk := rfl

@[simp] theorem State.failureSwitch_desk : s.failureSwitch.desk = s.desk := by
  simp [State.failureSwitch]

@[simp] theorem State.leaveTrial_desk (e : Ext) : (s.leaveTrial e).desk = s.desk := by
  simp [State.leaveTrial]

@[simp] theorem State.faultEntry_desk (e : Ext) (c : Cause) : (s.faultEntry e c).desk = s.desk := by
  unfold State.faultEntry; dsimp only; split <;> simp

@[simp] theorem State.revertTest_desk (n : Nat) : (s.revertTest n).desk = s.desk :=
  State.revertTest_induct (P := fun v => v.desk = s.desk) s n rfl
    (fun _ _ _ h _ _ => h) (fun v t _ h _ _ _ => (v.selectSource_desk (toSource t.source)).trans h)

@[simp] theorem State.revert_desk : s.revert.desk = s.desk :=
  s.revertTest_desk _

@[simp] theorem State.upgradeTest_desk : s.upgradeTest.desk = s.desk := by
  rcases s.upgradeTest_cases with h | ⟨b, -, -, h⟩ <;> simp [h]

/-- A change that may move an effective class moves the desk only as the change itself does. -/
theorem State.withClassChange_desk {s : State} {e : Ext} {f : State → State}
    (hf : (f s).desk = s.desk) : (s.withClassChange e f).desk = s.desk := by
  rcases s.withClassChange_cases e f with h | h <;> simp [h, hf]

@[simp] theorem State.enterTrial_desk (e : Ext) (b : Bool) : (s.enterTrial e b).desk = s.desk := by
  simp [State.enterTrial]

@[simp] theorem State.becomeUsable_desk (e : Ext) : (s.becomeUsable e).desk = s.desk := by
  unfold State.becomeUsable
  dsimp only
  split_ifs <;> simp

@[simp] theorem State.heardReport_desk (e : Ext) (k : ReportKind) :
    (s.heardReport e k).desk = s.desk := by
  unfold State.heardReport
  cases k with
  | accepted => rfl
  | stray => rfl
  | miss => dsimp only; split_ifs <;> simp

@[simp] theorem State.takeReport_desk (e : Ext) (k : ReportKind) :
    (s.takeReport e k).desk = s.desk := by
  unfold State.takeReport; split <;> simp

@[simp] theorem State.takeGood_desk (e : Ext) (c : Int) : (s.takeGood e c).desk = s.desk := by
  unfold State.takeGood
  dsimp only
  split
  · split_ifs <;> simp
  · simp

@[simp] theorem State.takeBad_desk (e : Ext) (c : BadCause) : (s.takeBad e c).desk = s.desk := by
  unfold State.takeBad; dsimp only; split <;> simp

@[simp] theorem State.takePhase_desk (e : Ext) (ev : PhaseEvent) :
    (s.takePhase e ev).desk = s.desk := by
  unfold State.takePhase
  split
  · rfl
  · dsimp only
    generalize hv : (if s.selector.entries[e].state = .absent then s.enterTrial e false else s) = v
    have h : v.desk = s.desk := by
      rw [← hv]; split <;> simp
    split
    · simp [h]
    · split <;> simp [h]

@[simp] theorem State.enableSource_desk (e : Ext) : (s.enableSource e).desk = s.desk := by
  unfold State.enableSource; split <;> simp

@[simp] theorem State.switchOff_desk (e : Ext) : (s.switchOff e).desk = s.desk := by
  unfold State.switchOff; dsimp only; split <;> simp

@[simp] theorem State.disableSource_desk (e : Ext) : (s.disableSource e).desk = s.desk := by
  have hj : (s.withClassChange e fun t => t.switchOff e).desk = s.desk :=
    State.withClassChange_desk (s.switchOff_desk e)
  unfold State.disableSource
  dsimp only
  split_ifs <;> simp [hj]

@[simp] theorem State.countTimers_desk (e : Ext) : (s.countTimers e).desk = s.desk := by
  unfold State.countTimers
  dsimp only
  split
  · split
    · split <;> simp
    · rfl
  · simp
  · rfl

/-- A fold of operations that each keep the desk keeps it. -/
theorem foldl_desk {α : Type} {f : State → α → State} (hf : ∀ v a, (f v a).desk = v.desk)
    (l : List α) (s : State) : (l.foldl f s).desk = s.desk := by
  induction l generalizing s with
  | nil => rfl
  | cons a l ih => rw [List.foldl_cons, ih, hf]

@[simp] theorem State.selectorCycle_desk : s.selectorCycle.desk = s.desk := by
  unfold State.selectorCycle
  split
  · rfl
  · simp [foldl_desk State.countTimers_desk]

@[simp] theorem State.manualSwitch_desk (i : Source) : (s.manualSwitch i).desk = s.desk := by
  unfold State.manualSwitch; split <;> simp

/-! ### Serial lines (chapter 2) and uplink units (chapter 3) -/

@[simp] theorem State.takeDescriptor_desk (u : InUnit) (body : List Byte) :
    (s.takeDescriptor u body).desk = s.desk := by
  unfold State.takeDescriptor
  split
  · rfl
  · exact State.withClassChange_desk rfl

@[simp] theorem State.sentence_desk (u : InUnit) (k : Byte) (n : Nat) (body : List Byte) (c : Byte)
    (now : Stamp) : (s.sentence u k n body c now).desk = s.desk := by
  unfold State.sentence; dsimp only; split_ifs <;> simp

@[simp] theorem State.deliver_desk (u : InUnit) (c : Byte) (now : Stamp) :
    (s.deliver u c now).desk = s.desk := by
  unfold State.deliver; split <;> simp

@[simp] theorem State.release_desk (u : UpUnit) (t1 t2 : Stamp) :
    (s.release u t1 t2).desk = s.desk := rfl

@[simp] theorem State.confirm_desk (u : UpUnit) (m : MarkFields) (t1 t2 : Stamp) :
    (s.confirm u m t1 t2).desk = s.desk := by
  unfold State.confirm
  split
  · simp
  · simp
  · split
    · rfl
    · dsimp only; split <;> simp
  · rfl

@[simp] theorem State.takeMark_desk (u : UpUnit) (m : MarkFields) (a : Stamp) :
    (s.takeMark u m a).desk = s.desk := by
  simp [State.takeMark]

@[simp] theorem State.takeUpstream_desk (u : UpUnit) (c : Nat) (sc : Int) :
    (s.takeUpstream u c sc).desk = s.desk := by
  unfold State.takeUpstream
  rw [State.followScale_desk]
  exact State.withClassChange_desk rfl

@[simp] theorem State.uplinkCycle_desk (u : UpUnit) (n : Nat) (d : Stamp) :
    (s.uplinkCycle u n d).desk = s.desk := by
  unfold State.uplinkCycle
  dsimp only
  split
  · split <;> rfl
  · rfl

@[simp] theorem State.takeUplinkCycle_desk (u : UpUnit) : (s.takeUplinkCycle u).desk = s.desk := by
  unfold State.takeUplinkCycle; split <;> simp

/-! ### Steering unit (chapter 5) -/

@[simp] theorem State.requestStep_desk (e : Ext) (d : Int) : (s.requestStep e d).desk = s.desk := rfl

@[simp] theorem State.lockTest_desk (c : Int) : (s.lockTest c).desk = s.desk := by
  unfold State.lockTest; dsimp only; split_ifs <;> rfl

@[simp] theorem State.reportExcursion_desk (e : Ext) (h : Bool) :
    (s.reportExcursion e h).desk = s.desk := rfl

@[simp] theorem State.excursionTest_desk (e : Ext) (c : Int) :
    (s.excursionTest e c).desk = s.desk := by
  unfold State.excursionTest; dsimp only; split_ifs <;> rfl

@[simp] theorem State.steer_desk (e : Ext) (c : Int) : (s.steer e c).desk = s.desk := by
  unfold State.steer; dsimp only; split <;> simp

@[simp] theorem State.takeGoodEvent_desk (e : Ext) (c x : Int) :
    (s.takeGoodEvent e c x).desk = s.desk := by
  unfold State.takeGoodEvent; dsimp only; split_ifs <;> simp

@[simp] theorem State.takeStepAnnouncement_desk (o : StepOrigin) :
    (s.takeStepAnnouncement o).desk = s.desk := by
  unfold State.takeStepAnnouncement; dsimp only; split <;> rfl

@[simp] theorem State.acquireSource_desk (e : Ext) : (s.acquireSource e).desk = s.desk := by
  unfold State.acquireSource; dsimp only; split <;> rfl

@[simp] theorem State.leaveSource_desk : s.leaveSource.desk = s.desk := by
  unfold State.leaveSource
  split
  · rfl
  · dsimp only; split <;> rfl

@[simp] theorem State.ageHoldover_desk (n : Nat) : (s.ageHoldover n).desk = s.desk := by
  unfold State.ageHoldover; split_ifs <;> rfl

@[simp] theorem State.steeringCycle_desk : s.steeringCycle.desk = s.desk := by
  unfold State.steeringCycle; split <;> simp

/-! ### Cycle timer and plan store (chapter 6) -/

@[simp] theorem State.countRequests_desk (u : InUnit) : (s.countRequests u).desk = s.desk := by
  unfold State.countRequests; split <;> rfl

@[simp] theorem State.handCycle_desk (n : Nat) (b : Bool) (i : Stamp) :
    (s.handCycle n b i).desk = s.desk := rfl

@[simp] theorem State.startCycle_desk (n : Nat) (i : Stamp) : (s.startCycle n i).desk = s.desk := by
  rw [State.startCycle_eq, State.begun_frame]
  simp only [State.handCycle_desk, State.countRequests_desk]
  rfl

@[simp] theorem State.startSlot_desk (k : Nat) (i : Stamp) : (s.startSlot k i).desk = s.desk := by
  unfold State.startSlot; split <;> rfl

@[simp] theorem State.cutCycle_desk : s.cutCycle.desk = s.desk := rfl

/-! ### Distribution ports (chapter 7) -/

@[simp] theorem State.portCycle_desk (p : Port) (n : Nat) (nm : Option (BankName × Nat)) :
    (s.portCycle p n nm).desk = s.desk := by
  unfold State.portCycle
  split
  · split
    · dsimp only; split <;> simp
    · rfl
  · rfl

@[simp] theorem State.takePortCycle_desk (p : Port) : (s.takePortCycle p).desk = s.desk := by
  unfold State.takePortCycle; split <;> simp

@[simp] theorem State.sendMark_desk (p : Port) (k : Nat) (b : Bool) (x : Elapsed) :
    (s.sendMark p k b x).desk = s.desk := by
  unfold State.sendMark; dsimp only; split <;> rfl

@[simp] theorem State.departMark_desk (p : Port) (k : Nat) (b : Bool) (x : Elapsed) :
    (s.departMark p k b x).desk = s.desk := by
  unfold State.departMark; dsimp only; split <;> simp

@[simp] theorem State.departReply_desk (p : Port) (d : Departure) (l : Option (List Answer)) (n : Nat) :
    (s.departReply p d l n).desk = s.desk := by
  unfold State.departReply; dsimp only; split <;> rfl

@[simp] theorem State.takeQuery_desk (p : Port) (r : Nat) (q : Seq) (a : Stamp) :
    (s.takeQuery p r q a).desk = s.desk := by
  unfold State.takeQuery; dsimp only; split_ifs <;> rfl

@[simp] theorem State.portDown_desk (p : Port) : (s.portDown p).desk = s.desk := by
  unfold State.portDown; dsimp only; split_ifs <;> rfl

/-! ### Notices (chapter 11) -/

@[simp] theorem State.mapNotice_desk (f : NoticeLink → NoticeLink) :
    (s.mapNotice f).desk = s.desk := rfl

@[simp] theorem State.judgeCycle_desk : s.judgeCycle.desk = s.desk := by
  unfold State.judgeCycle; split <;> rfl

@[simp] theorem State.noticeCycle_desk (n : Nat) : (s.noticeCycle n).desk = s.desk :=
  (State.judgeCycle_desk _).trans rfl

@[simp] theorem State.noticeSlot_desk (k : Nat) (b : Bool) : (s.noticeSlot k b).desk = s.desk := by
  simp [State.noticeSlot]

/-! ### Ticks and steps (chapter 1), and a block's service reset (R183) -/

@[simp] theorem State.tick_desk : s.tick.desk = s.desk := by
  simp [State.desk]

@[simp] theorem State.applyStep_desk (o : StepOrigin) (d : Int) (x : Elapsed) :
    (s.applyStep o d x).desk = s.desk := rfl

theorem State.resetBlock_desk (done : List ResetBlock) (b : ResetBlock) :
    (s.resetBlock done b).desk = s.desk := by
  have hr := s.resetBlock_reset done b
  rw [State.desk, hr.links, hr.executor, hr.access]
  rfl

end DeskFrame

/-! ### Entry writes (R178) -/

section EntryWrites

variable (s : State) (value : List Byte)

theorem State.writeInput_desk (u : InUnit) (off : Nat) :
    (s.writeInput u off value).Forall fun t => t.desk = s.desk := by
  unfold State.writeInput; dsimp only; split <;> simp

theorem State.writeUplink_desk (u : UpUnit) (off : Nat) :
    (s.writeUplink u off value).Forall fun t => t.desk = s.desk := by
  unfold State.writeUplink; dsimp only; split <;> simp

theorem State.writeSource_desk (e : Ext) (off : Nat) :
    (s.writeSource e off value).Forall fun t => t.desk = s.desk := by
  have hc (n : Nat) : (s.setClass e n).desk = s.desk := State.withClassChange_desk rfl
  unfold State.writeSource
  split
  · rw [forall_storeEnum]
    intro b _ _
    split <;> simp
  · simp
  · simp [hc]
  · split <;> simp
  · simp
  · unfold State.writeUnit
    split
    · exact s.writeInput_desk value _ off
    · exact s.writeUplink_desk value _ off
    · trivial

theorem State.writeSources_desk (index : Nat) :
    (s.writeSources index value).Forall fun t => t.desk = s.desk := by
  have ha (on : Bool) : (s.setAutoUpgrade on).desk = s.desk := by
    unfold State.setAutoUpgrade; dsimp only; split <;> simp
  unfold State.writeSources
  split_ifs
  · exact s.writeSource_desk value _ _
  · trivial
  · unfold State.writeSelector; dsimp only; split <;> simp [ha]

theorem State.writeSteering_desk (index : Nat) :
    (s.writeSteering index value).Forall fun t => t.desk = s.desk := by
  unfold State.writeSteering; dsimp only; split <;> simp

theorem State.writeTimeSection_desk (index : Nat) :
    (s.writeTimeSection index value).Forall fun t => t.desk = s.desk := by
  unfold State.writeTimeSection
  split
  · exact forall_storeNum.mpr fun _ _ => rfl
  · exact forall_storeNum.mpr fun _ _ => rfl
  · trivial

theorem State.writePlans_desk (index : Nat) :
    (s.writePlans index value).Forall fun t => t.desk = s.desk := by
  unfold State.writePlans State.writeMap
  split
  · split
    · trivial
    · split <;> trivial
  · split
    · exact forall_storeNat.mpr fun _ _ => rfl
    · trivial

theorem State.writePorts_desk (index : Nat) :
    (s.writePorts index value).Forall fun t => t.desk = s.desk := by
  unfold State.writePorts State.writePort
  split
  · dsimp only; split <;> simp
  · trivial

theorem State.writeOutputs_desk (index : Nat) :
    (s.writeOutputs index value).Forall fun t => t.desk = s.desk := by
  unfold State.writeOutputs State.writePulse State.writeCoded
  split_ifs
  · split <;> simp
  · split <;> simp
  · trivial

theorem State.writeControl_desk (index : Nat) :
    (s.writeControl index value).Forall fun t => t.desk = s.desk := by
  unfold State.writeControl State.writeNotice
  split
  · split <;> simp
  · trivial

/-- Of the nine sections only ACCESS moves the access unit, and none the links or the executor. -/
theorem State.storeEntry_desk {sect : Nat} (h : sect ≠ 8) (index : Nat) :
    (s.storeEntry sect index value).Forall fun t => t.desk = s.desk := by
  unfold State.storeEntry
  split
  · exact s.writeControl_desk value index
  · exact s.writeSources_desk value index
  · exact s.writeSteering_desk value index
  · exact s.writeTimeSection_desk value index
  · exact s.writePlans_desk value index
  · exact s.writePorts_desk value index
  · exact s.writeOutputs_desk value index
  · exact absurd rfl h
  · trivial

end EntryWrites

end Sys2Proof.Machine

/-! SUPPORT. What keeps the queues of a link bounded, with room for a response that is owed (R169, R170, R172, R173):
each move of one link. -/

namespace Sys2Proof.Machine

open Sys2Proof.Config Sys2Proof.Safety

/-! ### The queues of one link -/

/-- One link's part of the promise; `owed` says that the running command is the link's. -/
structure LinkUnit.QueuesSound (k : LinkUnit) (owed : Prop) : Prop where
  commands : k.commands.length ≤ 4
  responses : k.responses.length ≤ 4
  room : owed → k.responses.length < 4
  full : k.commands.length = 4 → k.escalated = true
  eased : k.commands.length ≤ 2 → k.escalated = false
  head : k.delivery.isSome = true → k.delivery = k.responses.head?

/-- The running command, if any, is the link's. -/
def State.Owes (s : State) (l : Link) : Prop :=
  ∃ r ∈ s.executor.running, r.link = l

theorem linkSound_iff {s : State} {l : Link} : LinkSound s l ↔ s.links[l].QueuesSound (s.Owes l) := by
  have howed : (∀ r ∈ s.executor.running, r.link = l → s.links[l].responses.length < 4) ↔
      (s.Owes l → s.links[l].responses.length < 4) :=
    ⟨fun h ⟨r, hr, hl⟩ => h r hr hl, fun h r hr hl => h ⟨r, hr, hl⟩⟩
  rw [LinkSound, howed]
  exact ⟨fun ⟨hc, hr, hroom, hf, he, hh⟩ => ⟨hc, hr, hroom, hf, he, hh⟩,
    fun ⟨hc, hr, hroom, hf, he, hh⟩ => ⟨hc, hr, hroom, hf, he, hh⟩⟩

theorem State.not_owes_of_idle {s : State} (h : s.executor.running = none) (l : Link) : ¬s.Owes l := by
  rintro ⟨r, hr, -⟩
  rw [h] at hr
  cases hr

theorem State.owes_iff {s : State} {r : Running} (h : s.executor.running = some r) (l : Link) :
    s.Owes l ↔ r.link = l := by
  simp [State.Owes, h]

namespace LinkUnit.QueuesSound

variable {k j : LinkUnit} {owed : Prop}

/-- A response may come to be owed, or no more, where there is room for it. -/
theorem owing (h : k.QueuesSound owed) {owed' : Prop} (hroom : owed' → k.responses.length < 4) :
    k.QueuesSound owed' :=
  { h with room := hroom }

/-- The promise reads the queues, the escalated flag and the response in delivery, which may lapse. -/
theorem of_same (h : k.QueuesSound owed) (hc : j.commands = k.commands) (hr : j.responses = k.responses)
    (he : j.escalated = k.escalated) (hd : j.delivery = k.delivery ∨ j.delivery = none) : j.QueuesSound owed := by
  refine ⟨hc ▸ h.commands, hr ▸ h.responses, hr ▸ h.room, hc ▸ he ▸ h.full, hc ▸ he ▸ h.eased, fun hsome => ?_⟩
  rcases hd with hd | hd <;> rw [hd] at hsome ⊢
  · exact hr ▸ h.head hsome
  · cases hsome

/-- The escalated flag follows the command queue (R172). -/
theorem judge (h : k.QueuesSound owed) {frames : List (List Byte)} (hf : frames.length ≤ 4) (n : LinkCounters) :
    ({ k with commands := frames, counters := n } : LinkUnit).judge.QueuesSound owed := by
  refine ⟨hf, h.responses, h.room, fun hfull => ?_, fun heased => ?_, h.head⟩
  · exact if_pos hfull.ge
  · have hlow : frames.length ≤ 2 := heased
    exact (if_neg (show ¬4 ≤ frames.length by omega)).trans (if_pos hlow)

/-- A response joins the queue where there is room; none is owed after it (R173). -/
theorem push (h : k.QueuesSound owed) (hroom : k.responses.length < 4) {owed' : Prop} (ho : ¬owed') (f : List Byte)
    (n : LinkCounters) :
    ({ k with responses := k.responses ++ [f], counters := n } : LinkUnit).QueuesSound owed' := by
  refine ⟨h.commands, ?_, fun h' => absurd h' ho, h.full, h.eased, fun hsome => ?_⟩
  · rw [List.length_append]
    exact hroom
  · have hhead := h.head hsome
    obtain ⟨d, hd⟩ := Option.isSome_iff_exists.mp hsome
    exact hhead.trans (by rw [List.head?_append, ← hhead, hd]; rfl)

/-! ### Transactions (R169, R170) -/

theorem assert (h : k.QueuesSound owed) (status : Byte) : (k.assert status).QueuesSound owed :=
  { h with head := fun _ => rfl }

theorem deliver (h : k.QueuesSound owed) : k.deliver.QueuesSound owed := by
  unfold LinkUnit.deliver
  split
  · have hlength : (k.responses.drop 1).length ≤ k.responses.length := by simp
    exact { h with
      responses := hlength.trans h.responses, room := fun ho => hlength.trans_lt (h.room ho), head := nofun }
  · exact h

theorem release (h : k.QueuesSound owed) : k.release.QueuesSound owed := by
  cases ht : k.transaction with
  | none =>
    have hkept : k.release = k := by simp [LinkUnit.release, ht]
    rwa [hkept]
  | some t =>
    rw [LinkUnit.release_eq ht]
    exact h.deliver.of_same rfl rfl rfl (.inr rfl)

theorem takeFrame (h : k.QueuesSound owed) (frame : List Byte) : (k.takeFrame frame).QueuesSound owed := by
  unfold LinkUnit.takeFrame
  split
  · next hroom => exact h.judge (by rw [List.length_append]; exact hroom) _
  · exact h.of_same rfl rfl rfl (.inl rfl)

theorem clockIn (h : k.QueuesSound owed) (b : Byte) : (k.clockIn b).QueuesSound owed := by
  cases ht : k.transaction with
  | none =>
    have hkept : k.clockIn b = k := by simp [LinkUnit.clockIn, ht]
    rwa [hkept]
  | some t =>
    rcases LinkUnit.clockIn_cases ht b with ⟨-, heq⟩ | ⟨-, -, -, heq⟩ | ⟨-, -, -, heq⟩ <;> rw [heq]
    · exact h.of_same rfl rfl rfl (.inl rfl)
    · refine takeFrame ?_ _
      exact h.of_same rfl rfl rfl (.inl rfl)
    · exact h.of_same rfl rfl rfl (.inl rfl)

theorem foldl_clockIn (h : k.QueuesSound owed) (bytes : List Byte) :
    (bytes.foldl LinkUnit.clockIn k).QueuesSound owed := by
  induction bytes generalizing k with
  | nil => exact h
  | cons b bytes ih => exact ih (h.clockIn b)

/-- Empty queues are sound (R182). -/
theorem linkReset : k.linkReset.QueuesSound owed :=
  ⟨Nat.zero_le _, Nat.zero_le _, fun _ => Nat.zero_lt_succ 3, nofun, fun _ => rfl, nofun⟩

end LinkUnit.QueuesSound

end Sys2Proof.Machine

/-! SUPPORT. What keeps the access table sound, and unchanged behind the lock (R175, R179, R180, R184). -/

namespace Sys2Proof.Machine

open Sys2Proof.Config Sys2Proof.Safety

/-- What `AccessSound` says, said of the access unit. -/
def Access.Sound (a : Access) : Prop :=
  (∀ l : Link, a.rights[l].read.getLsbD 0 = true ∧ a.rights[l].write.getLsbD 0 = false) ∧
  ∀ k : Fin 4, a.guards[k].sect ≤ 8 ∧ a.guards[k].first ≤ a.guards[k].last

/-- From `a` to `b` the access unit keeps what it promises. -/
structure AccessKept (a b : Access) : Prop where
  locked : a.lock = true → b = a
  strap : b.strap = a.strap
  sound : a.Sound → b.Sound

theorem AccessKept.refl (a : Access) : AccessKept a a :=
  ⟨fun _ => rfl, rfl, id⟩

theorem AccessKept.trans {a b c : Access} (h : AccessKept a b) (h' : AccessKept b c) : AccessKept a c := by
  refine ⟨fun hl => ?_, h'.strap.trans h.strap, h'.sound ∘ h.sound⟩
  obtain rfl := h.locked hl
  exact h'.locked hl

/-- The lock set (R180). -/
theorem AccessKept.lock {a : Access} (h : a.lock = false) : AccessKept a { a with lock := true } :=
  ⟨fun hl => absurd (hl.symm.trans h) (by decide), rfl, id⟩

/-- Rights are read only with IDENTITY in the read set and not in the write set (R179). -/
theorem readRights_sound {value : List Byte} {v : Rights} (h : readRights value = some v) :
    v.read.getLsbD 0 = true ∧ v.write.getLsbD 0 = false := by
  unfold readRights at h
  dsimp only at h
  split_ifs at h with hv
  obtain ⟨-, -, -, hrd, hwr⟩ := hv
  cases h
  rw [getLsbD_zero_iff, getLsbD_zero_eq_false_iff, BitVec.toNat_ofNat, BitVec.toNat_ofNat]
  omega

/-- A guard is read only with a section of the nine and a span that is not empty (R179). -/
theorem readGuard_sound {value : List Byte} {g : Guard} (h : readGuard value = some g) :
    g.sect ≤ 8 ∧ g.first ≤ g.last := by
  unfold readGuard at h
  dsimp only at h
  split_ifs at h with hg
  obtain ⟨-, -, hsect, hspan⟩ := hg
  cases h
  exact ⟨Nat.le_of_lt_succ hsect, hspan⟩

/-- A write of ACCESS, made while the lock is clear, stores sound rights or a sound guard (R179). -/
theorem State.writeAccess_kept {s : State} (hl : s.access.lock = false) (index : Nat) (value : List Byte) :
    (s.writeAccess index value).Forall fun t => ∃ a, t = { s with access := a } ∧ AccessKept s.access a := by
  have clear {p : Prop} (h : s.access.lock = true) : p := absurd (h.symm.trans hl) (by decide)
  unfold State.writeAccess
  split_ifs with hr hg
  · split
    · next v hv =>
      refine ⟨_, rfl, clear, rfl, fun ⟨hrights, hguards⟩ => ⟨fun l => ?_, hguards⟩⟩
      have hset : (s.access.rights.set index v)[l] = if ⟨index, hr⟩ = l then v else s.access.rights[l] :=
        getElem_set_apply s.access.rights ⟨index, hr⟩ l fun _ => v
      rw [hset]
      split
      · exact readRights_sound hv
      · exact hrights l
    · trivial
  · split
    · next g hv =>
      refine ⟨_, rfl, clear, rfl, fun ⟨hrights, hguards⟩ => ⟨hrights, fun k => ?_⟩⟩
      have hset : (s.access.guards.set (index - 8) g)[k] =
          if ⟨index - 8, by omega⟩ = k then g else s.access.guards[k] :=
        getElem_set_apply s.access.guards ⟨index - 8, by omega⟩ k fun _ => g
      rw [hset]
      split
      · exact readGuard_sound hv
      · exact hguards k
    · trivial
  · trivial

end Sys2Proof.Machine

/-! SUPPORT. Every command keeps the queues of the links bounded and the access unit sound and locked (R169 to R184). -/

namespace Sys2Proof.Machine

open Sys2Proof.Config Sys2Proof.Safety

/-! ### What keeps both promises -/

/-- From `s` to `t` the links and the access unit keep what they promise. -/
structure DeskKept (s t : State) : Prop where
  links : LinksSound s → LinksSound t
  access : AccessKept s.access t.access

section DeskKept

variable {s t v : State} {r : Running}

theorem DeskKept.of_links (hl : ∀ l : Link, s.links[l].QueuesSound (s.Owes l) → t.links[l].QueuesSound (t.Owes l))
    (ha : AccessKept s.access t.access) : DeskKept s t :=
  ⟨fun hs l => linkSound_iff.mpr (hl l (linkSound_iff.mp (hs l))), ha⟩

/-- The promises read no more than the desk. -/
theorem DeskKept.of_desk (h : t.desk = s.desk) : DeskKept s t := by
  have hl : t.links = s.links := congrArg Desk.links h
  have he : t.executor = s.executor := congrArg Desk.executor h
  have ha : t.access = s.access := congrArg Desk.access h
  refine .of_links (fun l => ?_) (ha ▸ .refl _)
  rw [State.Owes, State.Owes, hl, he]
  exact id

theorem DeskKept.refl (s : State) : DeskKept s s := .of_desk rfl

theorem DeskKept.trans (h : DeskKept s t) (h' : DeskKept t v) : DeskKept s v :=
  ⟨h'.links ∘ h.links, h.access.trans h'.access⟩

/-- A change of one link that keeps its own part of the promise. -/
theorem DeskKept.modLink {l : Link} {f : LinkUnit → LinkUnit}
    (hf : s.links[l].QueuesSound (s.Owes l) → (f s.links[l]).QueuesSound (s.Owes l)) :
    DeskKept s (s.modLink l f) := by
  refine .of_links (fun m h => ?_) (.refl _)
  rw [State.modLink_links, getElem_set_apply s.links l m f]
  split
  · next hm => subst hm; exact hf h
  · exact h

/-! ### Responses (R173) -/

/-- The response of the running command finds room, and none is owed after it. -/
theorem DeskKept.respond (h : DeskKept s v) (hr : v.executor.running = some r) (st : Status) (p : List Byte) :
    DeskKept s (v.respond r st p) := by
  refine h.trans (.of_links (fun m hm => ?_) (.refl _))
  have hidle : ¬(v.respond r st p).Owes m := State.not_owes_of_idle rfl m
  rw [State.respond_links, getElem_set_apply v.links r.link m fun k =>
    { k with responses := k.responses ++ [responseFrame r.tag st p] }]
  split
  · next hl => exact hm.push (hm.room ((State.owes_iff hr m).mpr hl)) hidle _ _
  · exact hm.owing fun ho => absurd ho hidle

/-- From `s` to `t` the command `r` is answered, and nothing else of the desk is moved. -/
def Answers (s : State) (r : Running) (t : State) : Prop :=
  ∃ (v : State) (st : Status) (p : List Byte), v.desk = s.desk ∧ t = v.respond r st p

@[simp] theorem answers_respond (h : v.desk = s.desk) (st : Status) (p : List Byte) :
    Answers s r (v.respond r st p) :=
  ⟨v, st, p, h, rfl⟩

@[simp] theorem answers_answer (st : Status) : Answers s r (s.answer r st) :=
  answers_respond rfl st []

theorem Answers.checkedWrite (h : Answers s r t) (sect index : Nat) :
    Answers s r (s.checkedWrite r sect index t) := by
  rcases s.checkedWrite_cases r sect index t with ⟨-, h'⟩ | ⟨-, -, h'⟩ | ⟨-, h'⟩ <;> rw [h']
  · exact answers_respond rfl _ _
  · exact answers_respond rfl _ _
  · exact h

theorem Answers.deskKept (h : Answers s r t) (hr : s.executor.running = some r) : DeskKept s t := by
  obtain ⟨v, st, p, hv, rfl⟩ := h
  exact (DeskKept.of_desk hv).respond ((congrArg (fun d => d.executor.running) hv).trans hr) st p

end DeskKept

/-! ### Commands that are answered and move nothing else of the desk -/

section Commands

variable (s : State) (r : Running)

@[simp] theorem State.runReadTime_answers (x : Elapsed) : Answers s r (s.runReadTime r x) := by
  unfold State.runReadTime; split <;> simp

@[simp] theorem State.runStepTime_answers (sec ns : Int) (x : Elapsed) :
    Answers s r (s.runStepTime r sec ns x) := by
  obtain ⟨v, st, p, h, rfl | rfl⟩ := s.runStepTime_cases r sec ns x <;> rw [h]
  · exact answers_respond rfl st p
  · exact answers_respond (State.applyStep_desk _ _ _ _) st p

@[simp] theorem State.runSwitchSource_answers (n : Nat) : Answers s r (s.runSwitchSource r n) := by
  refine Answers.checkedWrite ?_ 2 167
  split
  · dsimp only
    split
    · simp
    · split_ifs <;> simp
  · simp

@[simp] theorem State.runDiscardFallback_answers : Answers s r (s.runDiscardFallback r) := by
  refine Answers.checkedWrite ?_ 2 168
  split <;> simp

@[simp] theorem State.runArmPlan_answers (b n : Nat) : Answers s r (s.runArmPlan r b n) := by
  unfold State.runArmPlan
  split
  · simp
  · split
    · simp
    · split_ifs
      · simp
      · simp
      · split
        · simp
        · exact answers_respond (by rfl) _ _

@[simp] theorem State.runDisarmPlan_answers : Answers s r (s.runDisarmPlan r) := by
  refine Answers.checkedWrite ?_ 5 514
  split
  · simp
  · exact answers_respond (by rfl) _ _

@[simp] theorem State.runClearPortFlags_answers (l : List Nat) : Answers s r (s.runClearPortFlags r l) := by
  unfold State.runClearPortFlags
  dsimp only
  split_ifs
  on_goal 5 => exact answers_respond (foldl_desk (fun v p => v.modPort_desk p _) _ s) _ _
  all_goals simp

@[simp] theorem State.runReadEntry_answers (i j : Nat) (x : Elapsed) : Answers s r (s.runReadEntry r i j x) := by
  unfold State.runReadEntry
  split_ifs
  · simp
  · simp
  · split <;> simp

@[simp] theorem State.runTakeNotice_answers : Answers s r (s.runTakeNotice r) := by
  unfold State.runTakeNotice
  dsimp only
  split
  · simp
  · exact answers_respond (s.modNotice_desk _ _) _ _

@[simp] theorem State.runEndService_answers : Answers s r (s.runEndService r) := by
  unfold State.runEndService
  split
  · simp
  · exact answers_respond (s.modNotice_desk _ _) _ _

@[simp] theorem State.runPeekFault_answers : Answers s r (s.runPeekFault r) :=
  answers_respond rfl _ _

@[simp] theorem State.runPopFault_answers : Answers s r (s.runPopFault r) :=
  answers_respond (s.modNotice_desk _ _) _ _

@[simp] theorem State.runClearFaultOverflow_answers : Answers s r (s.runClearFaultOverflow r) :=
  answers_respond (s.modNotice_desk _ _) _ _

end Commands

/-! ### Commands that move the desk (R178 to R183) -/

section DeskCommands

variable {s : State} {r : Running}

/-- Of the entries only those of ACCESS move the desk, and behind the lock none does. -/
theorem State.storeEntry_deskKept {sect : Nat} (h : ¬(sect = 8 ∧ s.access.lock = true)) (index : Nat)
    (value : List Byte) :
    (s.storeEntry sect index value).Forall fun t => DeskKept s t ∧ t.executor = s.executor := by
  by_cases h8 : sect = 8
  · subst h8
    have hlock : s.access.lock = false := by simpa using h
    refine (State.writeAccess_kept hlock index value).mono ?_
    rintro _ ⟨a, rfl, ha⟩
    exact ⟨.of_links (fun _ => id) ha, rfl⟩
  · exact (s.storeEntry_desk value h8 index).mono fun t ht => ⟨.of_desk ht, congrArg Desk.executor ht⟩

theorem State.writeAs_deskKept (s : State) (row : WriteRow) : DeskKept s (s.writeAs row) := by
  rcases s.writeAs_cases row with h | ⟨r, sect, index, value, ⟨hr, -⟩, -, h⟩ <;> rw [h]
  · exact .refl s
  · rcases s.runWriteEntry_cases r sect index value with ⟨st, h'⟩ | ⟨t, c, ht, -, hlock, h'⟩ <;> rw [h']
    · exact (DeskKept.refl s).respond hr st []
    · have hstored := State.storeEntry_deskKept hlock index value
      rw [ht] at hstored
      obtain ⟨hkept, he⟩ := hstored
      exact hkept.respond (he ▸ hr) _ _

theorem State.runLockAccess_deskKept (hr : s.executor.running = some r) : DeskKept s (s.runLockAccess r) := by
  unfold State.runLockAccess
  split_ifs with hw hl hg
  · exact (DeskKept.refl s).respond hr _ _
  · exact (DeskKept.refl s).respond hr _ _
  · exact (DeskKept.refl s).respond hr _ _
  · have hlocked : DeskKept s { s with access := { s.access with lock := true } } :=
      .of_links (fun _ => id) (.lock (by simpa using hl))
    exact hlocked.respond hr _ _

theorem State.runLinkReset_deskKept (hr : s.executor.running = some r) : DeskKept s (s.runLinkReset r) :=
  have hreset : DeskKept s (s.modLink r.link LinkUnit.linkReset) := .modLink fun _ => .linkReset
  (hreset.trans (.of_desk (State.modNotice_desk _ _ _))).respond hr _ _

/-- The end of a service reset clears the link counters and answers (R183). -/
theorem State.finishReset_deskKept (hr : s.executor.running = some r) : DeskKept s (s.finishReset r) := by
  have hcleared : DeskKept s { s with
      links := s.links.map fun k => { k with counters := PowerOn.link.counters }
      executor := { s.executor with resetCount := s.executor.resetCount + 1 } } := by
    refine .of_links (fun l h => ?_) (.refl _)
    exact h.of_same (by simp) (by simp) (by simp) (.inl (by simp))
  exact hcleared.respond hr _ _

/-- A service reset that some blocks have still to take keeps its link's command running (R183). -/
theorem DeskKept.running (hr : s.executor.running = some r) {r' : Running} (hl : r'.link = r.link) :
    DeskKept s { s with executor := { s.executor with running := some r' } } := by
  refine .of_links (fun l h => h.owing fun ho => h.room ?_) (.refl _)
  rw [State.owes_iff hr, ← hl]
  exact (State.owes_iff rfl l).mp ho

theorem State.runServiceReset_deskKept (hr : s.executor.running = some r) (blocks : List ResetBlock) :
    DeskKept s (s.runServiceReset r blocks) := by
  have hdesk := s.resetBlocks_keeps r.resetTaken blocks State.resetBlock_desk
  unfold State.runServiceReset
  dsimp only
  generalize s.resetBlocks r.resetTaken blocks = out at hdesk
  have hrunning : out.1.executor.running = some r :=
    (congrArg (fun d => d.executor.running) hdesk).trans hr
  have hgo : DeskKept s (if resetComplete out.2 then out.1.finishReset r
      else { out.1 with executor := { out.1.executor with running := some { r with resetTaken := out.2 } } }) := by
    refine (DeskKept.of_desk hdesk).trans ?_
    split
    · exact State.finishReset_deskKept hrunning
    · exact .running hrunning rfl
  split
  · rcases s.checkedWrite_cases r 1 0 _ with ⟨-, h⟩ | ⟨-, -, h⟩ | ⟨-, h⟩ <;> rw [h]
    · exact (DeskKept.refl s).respond hr _ _
    · exact (DeskKept.refl s).respond hr _ _
    · exact hgo
  · exact hgo

/-! ### Commands granted (R172 to R174) -/

theorem State.grantee_eligible {l : Link} (h : s.grantee = some l) : s.links[l].eligible = true := by
  rcases Option.or_eq_some_iff.mp h with h | ⟨-, h⟩
  · have hboth := List.find?_some (p := fun l : Link => s.links[l].eligible && s.links[l].escalated) h
    exact (Bool.and_eq_true_iff.mp hboth).1
  · exact List.find?_some (p := fun l : Link => s.links[l].eligible) h

/-- A command frame taken for a link with room for its response runs, or is answered at once. -/
theorem State.takeCommand_deskKept (hidle : s.executor.running = none) {l : Link}
    (hroom : s.links[l].responses.length < 4) (frame : List Byte) : DeskKept s (s.takeCommand l frame) := by
  cases hf : readCommandFrame frame with
  | ok c =>
    rw [State.takeCommand_of_ok hf]
    refine .of_links (fun m h => h.owing fun ho => ?_) (.refl _)
    obtain rfl : l = m := (State.owes_iff rfl m).mp ho
    exact hroom
  | error st =>
    rw [State.takeCommand_of_error hf]
    exact .modLink fun h => h.push hroom (State.not_owes_of_idle hidle l) _ _

theorem State.grant_deskKept (hidle : s.executor.running = none) {l : Link} (he : s.links[l].eligible = true) :
    DeskKept s (s.grant l) := by
  unfold State.grant
  split
  · exact .refl s
  · next frame rest hc =>
    have hpopped : DeskKept s (s.modLink l fun k => { k with commands := rest }.judge) := by
      refine .modLink fun h => h.judge ?_ _
      have hlength : s.links[l].commands.length = rest.length + 1 := congrArg List.length hc
      have hfour := h.commands
      omega
    have hserved (v : State) (m : Link) : DeskKept v { v with executor := { v.executor with lastServed := m } } :=
      .of_links (fun _ => id) (.refl _)
    refine (hpopped.trans (hserved _ l)).trans (State.takeCommand_deskKept ?_ ?_ frame)
    · exact hidle
    have hkept : (s.modLink l fun k => { k with commands := rest }.judge).links[l].responses =
        s.links[l].responses := by
      simp [LinkUnit.judge]
    exact hkept ▸ (LinkUnit.eligible_iff.mp he).2

end DeskCommands

/-! ### Every command -/

/-- A row of the executor keeps the promises when every command it accepts does. -/
theorem State.onCommand_deskKept {s : State} {f : Running → Command → Option State}
    (hf : ∀ r t, s.executor.running = some r → f r r.command = some t → DeskKept s t) :
    DeskKept s (s.onCommand f) := by
  rcases s.onCommand_cases f with h | ⟨r, t, hr, h, h'⟩
  · rw [h]
    exact .refl s
  · rw [h']
    exact hf r t hr h

/-- Every command but power-on reset keeps the promises of the links and of the access unit. -/
theorem exec_deskKept {c : Instr} {s t : State} (hp : notPowerOn c = true) (h : exec c s = .next t) :
    DeskKept s t := by
  cases c
  case powerOnReset => cases hp
  case rateWordTaken | stepRequestApplied =>
    simp only [exec, execRateWordTaken, execStepRequestApplied] at h
    split at h <;> cases h <;> exact .of_desk rfl
  all_goals cases h
  -- links
  case selectAsserted =>
    split
    · exact .refl s
    · exact .modLink fun h => h.assert _
  case responseDelivered => exact .modLink fun h => h.deliver
  case commandFrameReceived bytes => exact .modLink fun h => h.foldl_clockIn bytes
  case selectReleased => exact .modLink fun h => h.release
  case commandGrant =>
    split
    · exact .refl s
    · next hidle =>
      split
      · next l hl => exact State.grant_deskKept hidle (State.grantee_eligible hl)
      · exact .refl s
  -- commands of the executor
  case rateLimitWrite | pairingModeWrite | autoRateArmWrite | sourceEnable | sourceDisable |
      autoUpgradeWrite | programmedClassWrite | steeringOptionsWrite | portMapWrite | epochLengthWrite |
      portEnable | portDisable | writeEntry | accessTableWrite | guardEntryWrite | noticeMaskWrite |
      nestModeWrite => exact s.writeAs_deskKept _
  case lockAccess =>
    refine State.onCommand_deskKept fun r t hr hf => ?_
    split at hf <;> cases hf
    exact State.runLockAccess_deskKept hr
  case linkReset =>
    refine State.onCommand_deskKept fun r t hr hf => ?_
    split at hf <;> cases hf
    exact State.runLinkReset_deskKept hr
  case serviceReset blocks =>
    refine State.onCommand_deskKept fun r t hr hf => ?_
    split at hf <;> cases hf
    exact State.runServiceReset_deskKept hr blocks
  case readTime | stepTime | switchSource | discardFallback | armPlan | disarmPlan | clearPortFlags | readEntry |
      takeNotice | endService | peekFault | popFault | clearFaultOverflow =>
    refine State.onCommand_deskKept fun r t hr hf => Answers.deskKept ?_ hr
    split at hf <;> cases hf
    simp
  -- every other row leaves the desk alone: rows without a branch of their own
  case oscillatorTick | pulseEdge | pairingWindowEnd | uplinkCycleStart | uplinkLinkDown | uplinkLinkUp |
      selectorCycleStart | steeringCycleStart | portCycleStart | portLinkDown | portLinkUp | pulseFall =>
    exact .of_desk (by simp)
  -- rows that do nothing unless their event is there
  case answerEntryExpiry | autoRateMeasurement | breakDetected | breakEnd | codedDueTime | codedOutputStep |
      codedTransmissionDone | cycleCut | cycleStart | descriptorRequestDone | falseStart | faultOffered |
      framingError | holdoverExpiry | measuredLeadEnd | noticeCycleStart | noticeLatch | noticeSlotStart |
      portUnexpectedFrame | pulseOutputStep | pulseRiseTime | pulseWindowMiss |
      queryLost | queryReceived | receiveFallingEdge | retryTimerExpiry |
      selectorPhaseEvent | selectorPulseReport | selectorStep | slotStart | steeringStepAnnouncement |
      uplinkMark | uplinkQuerySlot | uplinkReply | uplinkStateMark | uplinkUnexpectedFrame =>
    refine .of_desk ?_
    split <;> simp
  case portCompletionReport =>
    refine .of_desk ?_
    split
    · rfl
    · exact (State.judgeCycle_desk _).trans rfl
  -- rows whose event, when it is there, is taken in one of two ways
  case inputUnitStep | portCut | portSlotStart | steeringPhaseEvent | uplinkStep |
      characterReceived | steeringSelectExternal | steeringSelectLocal =>
    refine .of_desk ?_
    split
    any_goals rfl
    split <;> simp
  case requestTimerExpiry =>
    refine .of_desk ?_
    split_ifs <;> simp
  case excursionReport =>
    refine .of_desk ?_
    split
    · rfl
    · dsimp only
      split_ifs <;> simp
  case markDeparture | replyDeparture =>
    refine .of_desk ?_
    split
    · split
      · split <;> simp
      · rfl
    · rfl

/-! ### The promises -/

/-- Settles O5: a command other than power-on reset keeps the queues, and power-on reset empties them. -/
theorem linkQueuesStayBounded : Obligations.LinkQueuesStayBounded := by
  unfold Obligations.LinkQueuesStayBounded
  intro s t hs h
  rcases step_cases h with ⟨-, rfl⟩ | ⟨c, rest, -, hexec⟩
  · exact hs
  · have hrest : LinksSound { s with pending := rest } := hs
    cases hc : notPowerOn c
    · cases c <;> cases hc
      cases hexec
      exact powerOn_linksSound _ _ _ _
    · exact (exec_deskKept hc hexec).links hrest

/-- Settles O13: what every command but power-on reset keeps of the access unit, and what that one stores. -/
theorem accessStaysSoundAndLocked : Obligations.AccessStaysSoundAndLocked := by
  unfold Obligations.AccessStaysSoundAndLocked
  refine ⟨fun s t hs h => ?_, fun c s t hc h => ?_⟩
  · rcases step_cases h with ⟨-, rfl⟩ | ⟨c, rest, -, hexec⟩
    · exact hs
    · cases hc : notPowerOn c
      · cases c <;> cases hc
        cases hexec
        exact powerOn_accessSound _ _ _ _
      · exact (exec_deskKept hc hexec).access.sound hs
  · have hkept := (exec_deskKept hc h).access
    exact ⟨hkept.locked, hkept.strap⟩

end Sys2Proof.Machine

/-! SUPPORT. The fault queues: a fault offered to each link, and the queue read, popped and its overflow flag cleared
(R191 to R193). -/

namespace Sys2Proof.Machine

open Sys2Proof.Config Sys2Proof.Safety

section FaultQueues

variable {s : State} {r : Running}

/-- A fault is turned away, appended, or lost at a full queue (R191). -/
theorem NoticeLink.offer_eq (n : NoticeLink) (f : FaultEntry) :
    n.offer f =
      if n.admitMask.getLsbD (faultGroup f.code) = false ∨ n.overflow = true then n
      else if n.faults.length < 16 then { n.take .faultLogged with faults := n.faults ++ [f] }
      else { n.take .faultLogged with overflow := true } := by
  unfold NoticeLink.offer faultDepth
  cases n.admitMask.getLsbD (faultGroup f.code) <;> cases n.overflow <;> rfl

theorem State.mapNotice_getElem (s : State) (f : NoticeLink → NoticeLink) (l : Link) :
    (s.mapNotice f).notice.links[l] = f s.notice.links[l] := by
  simp [State.mapNotice]

/-- The oldest fault that a block logged leaves the channel and is offered to every link (R191). -/
theorem exec_faultOffered {b : FaultOrigin} {f : FaultEntry} {old new : List (FaultOrigin × FaultEntry)}
    (h : s.flight.faults = old ++ (b, f) :: new) (hold : ∀ x ∈ old, x.1 ≠ b) :
    exec (.faultOffered b) s =
      .next ((s.modFlight fun v => { v with faults := old ++ new }).mapNotice fun n => n.offer f) := by
  have htake : takeFirst (fun x => decide (x.1 = b)) s.flight.faults = some ((b, f), old ++ new) := by
    rw [h]
    exact takeFirst_append (decide_eq_true rfl) fun x hx => decide_eq_false (hold x hx)
  simp only [exec, execFaultOffered, htake]

theorem exec_peekFault (h : Runs s r .peekFault) : exec .peekFault s = .next (s.runPeekFault r) :=
  congrArg Host.Outcome.next (State.onCommand_of_runs h rfl)

theorem exec_popFault (h : Runs s r .popFault) : exec .popFault s = .next (s.runPopFault r) :=
  congrArg Host.Outcome.next (State.onCommand_of_runs h rfl)

theorem exec_clearFaultOverflow (h : Runs s r .clearFaultOverflow) :
    exec .clearFaultOverflow s = .next (s.runClearFaultOverflow r) :=
  congrArg Host.Outcome.next (State.onCommand_of_runs h rfl)

/-- The oldest entry's bytes in a payload; NONE, with a subject and a detail of 0, for an empty queue (R192). -/
def oldestFault : List FaultEntry → List Byte
  | [] => [0#8, 0#8, 0#8, 0#8, 0#8, 0#8]
  | f :: _ => [byte f.code, byte f.subject] ++ beBytes 4 f.detail

theorem faultPayload_head? (faults : List FaultEntry) (count : Nat) (overflow : Bool) :
    faultPayload faults.head? count overflow =
      oldestFault faults ++ [byte count, if overflow = true then 1#8 else 0#8] := by
  cases faults with
  | nil => rfl
  | cons f rest => exact List.append_assoc _ [byte count] _

end FaultQueues

/-- Settles O60: the offer to each link, and the three commands at an empty queue and at one with an oldest entry. -/
theorem faultQueuesTakeAndGive : Obligations.FaultQueuesTakeAndGive := by
  unfold Obligations.FaultQueuesTakeAndGive
  refine ⟨fun s b f old new h hold => ⟨_, exec_faultOffered h hold, rfl, fun l => ?_⟩, fun s r => ?_⟩
  · exact (State.mapNotice_getElem _ _ l).trans (NoticeLink.offer_eq _ f)
  · have payload := faultPayload_head? s.notice.links[r.link].faults
    refine ⟨fun h => ?_, fun h => ?_, exec_clearFaultOverflow⟩
    · rw [exec_peekFault h, State.runPeekFault, payload]
      rfl
    · rw [exec_popFault h, State.runPopFault, payload, List.length_drop]
      rfl

end Sys2Proof.Machine

/-! SUPPORT. The completion record and the cycle notice: a cycle start, a slot start and a port's report, each judged
(R189, R190). -/

namespace Sys2Proof.Machine

open Sys2Proof.Config Sys2Proof.Safety

/-! ### A link judged (R190) -/

/-- The condition of the mode that a link read at the cycle start (R190). -/
def NoticeLink.ModeMet (n : NoticeLink) (whole : Prop) : Prop :=
  match n.modeNow with
  | .delay => n.delayMet = true
  | .complete => whole
  | .either => n.delayMet = true ∨ whole
  | .both => n.delayMet = true ∧ whole

theorem NoticeLink.modeMet_iff {n : NoticeLink} {whole : Bool} :
    n.ModeMet (whole = true) ↔ n.modeNow.met n.delayMet whole = true := by
  unfold NoticeLink.ModeMet CycleMode.met
  cases n.modeNow <;> simp

/-- From `n` to `m` a link is judged: CYCLE is latched once in a cycle, when the mode is met (R190). -/
def NoticeLink.Judged (n m : NoticeLink) (whole : Prop) : Prop :=
  (n.done = false → n.ModeMet whole → m = { n with done := true, latch := n.latch ||| (1#6 <<< 5) }) ∧
  (n.done = true ∨ ¬n.ModeMet whole → m = n)

theorem NoticeLink.judged_judge (n : NoticeLink) (whole : Bool) : n.Judged (n.judge whole) (whole = true) := by
  unfold NoticeLink.Judged
  rw [NoticeLink.modeMet_iff, NoticeLink.judge_eq]
  refine ⟨fun hd hm => if_pos ⟨hd, hm⟩, fun h => if_neg ?_⟩
  rintro ⟨hd, hm⟩
  rcases h with h | h
  · exact absurd (h.symm.trans hd) (by decide)
  · exact h hm

/-! ### The part judged (R190) -/

/-- The record's cycle is cut, with the cycle events `l` on their way to the notice unit: its next cycle start is a
resume start, or none is on its way and the cut flag is set (R110, R112). -/
def State.CycleCut (s : State) (l : List CycleEvent) : Prop :=
  (∃ before n i after, l = before ++ .start n true i :: after ∧
    ∀ e ∈ before, ∃ k n flag i, e = CycleEvent.slot k n flag i) ∨
  ((∀ e ∈ l, ∃ k n flag i, e = CycleEvent.slot k n flag i) ∧ s.cycleTimer.cut = true)

theorem State.cycleCut_iff_cycleCut {s : State} : s.cycleCut = true ↔ s.CycleCut s.flight.cyclesToNotice :=
  State.cycleCut_iff

section Judging

variable {s : State} {c : CompletionRecord}

/-- The complete condition stays met, or is met by a complete record whose cycle is not cut (R190). -/
theorem State.judgeCycle_completeMet (h : s.notice.completion = some c) :
    s.judgeCycle.notice.completeMet = true ↔
      s.notice.completeMet = true ∨
        (∀ p : Port, c.reports[p] ≠ none ∧ c.reports[p] ≠ some .marksDue) ∧
          ¬s.CycleCut s.flight.cyclesToNotice := by
  rw [State.judgeCycle_eq h, ← CompletionRecord.complete_iff, ← State.cycleCut_iff_cycleCut]
  simp [State.meetsComplete]

theorem State.judgeCycle_judged (h : s.notice.completion = some c) (l : Link) :
    s.notice.links[l].Judged s.judgeCycle.notice.links[l] (s.judgeCycle.notice.completeMet = true) := by
  have hl : s.judgeCycle.notice.links[l] = s.notice.links[l].judge s.judgeCycle.notice.completeMet := by
    simp [State.judgeCycle_eq h]
  rw [hl]
  exact NoticeLink.judged_judge _ _

/-- Before the first cycle start nothing is judged (R190). -/
theorem State.judgeCycle_of_none (h : s.notice.completion = none) : s.judgeCycle = s := by
  simp only [State.judgeCycle, h]

/-- Judging changes the links' notice states and the complete condition alone. -/
theorem State.judgeCycle_frame (s : State) :
    s.judgeCycle = { s with notice := { s.notice with
      links := s.judgeCycle.notice.links, completeMet := s.judgeCycle.notice.completeMet } } := by
  unfold State.judgeCycle
  split <;> rfl

@[simp] theorem State.judgeCycle_completion (s : State) :
    s.judgeCycle.notice.completion = s.notice.completion := by
  rw [State.judgeCycle_frame]

@[simp] theorem State.judgeCycle_early (s : State) : s.judgeCycle.notice.early = s.notice.early := by
  rw [State.judgeCycle_frame]

end Judging

/-! ### A cycle start taken (R189) -/

/-- The part with the cycle start taken and not yet judged (R189, R190). -/
def State.recordBegun (s : State) (cycle : Nat) (rest : List CycleEvent) : State :=
  { s with
    flight := { s.flight with cyclesToNotice := rest }
    notice :=
      { links := s.notice.links.map NoticeLink.startCycle, completion := some (s.notice.newRecord cycle)
        completeMet := false, early := [] } }

theorem State.recordBegun_getElem (s : State) (cycle : Nat) (rest : List CycleEvent) (l : Link) :
    (s.recordBegun cycle rest).notice.links[l] = s.notice.links[l].startCycle := by
  simp [State.recordBegun]

theorem exec_noticeCycleStart {s : State} {cycle : Nat} {resume : Bool} {instant : Stamp} {rest : List CycleEvent}
    (h : s.flight.cyclesToNotice = .start cycle resume instant :: rest) :
    exec .noticeCycleStart s = .next (s.recordBegun cycle rest).judgeCycle := by
  simp only [exec, execNoticeCycleStart, h]
  rfl

/-- The early reports that name the cycle are applied in the order they were taken (R189). -/
theorem NoticeUnit.newRecord_eq (n : NoticeUnit) (cycle : Nat) :
    n.newRecord cycle = (n.early.filter fun x => decide (x.2.cycle = cycle)).foldl
      (fun v x =>
        if x.2.report = .closed ∧ v.reports[x.1] ≠ some .marksDue then v
        else { v with reports := v.reports.set x.1 (some x.2.report) })
      ⟨cycle, #v[none, none, none, none, none, none]⟩ := by
  simp only [← CompletionRecord.apply_eq]
  rfl

theorem NoticeUnit.newRecord_cycle (n : NoticeUnit) (cycle : Nat) : (n.newRecord cycle).cycle = cycle :=
  CompletionRecord.foldl_apply_cycle _ _

/-! ### A slot start taken (R190) -/

/-- A link's cycle progress at the start of slot `k` (R190). -/
def NoticeLink.startSlot (n : NoticeLink) (k : Nat) (cut : Bool) : NoticeLink :=
  { n with delayMet := n.delayMet || (decide (cut = false) && decide (n.delayNow = k)) }

theorem State.noticeSlot_eq (s : State) (k : Nat) (cut : Bool) :
    s.noticeSlot k cut = (s.mapNotice fun n => n.startSlot k cut).judgeCycle := by
  have hslot : ∀ n : NoticeLink,
      (if !cut && decide (n.delayNow = k) then { n with delayMet := true } else n) = n.startSlot k cut := by
    intro n
    unfold NoticeLink.startSlot
    rcases eq_or_ne n.delayNow k with rfl | hk
    · cases cut <;> simp
    · simp [hk]
  simp only [State.noticeSlot, hslot]

theorem exec_noticeSlotStart {s : State} {k cycle : Nat} {cut : Bool} {instant : Stamp} {rest : List CycleEvent}
    (h : s.flight.cyclesToNotice = .slot k cycle cut instant :: rest) :
    exec .noticeSlotStart s = .next ((s.modFlight fun f => { f with cyclesToNotice := rest }).mapNotice fun n =>
      n.startSlot k cut).judgeCycle := by
  simp only [exec, execNoticeSlotStart, h, State.noticeSlot_eq]

/-! ### A port's report taken (R189) -/

section Reports

variable {n : NoticeUnit} {p : Port} {r : PortReport}

/-- CLOSED is held behind an early report of its port, and else applied to a record of its cycle (R189). -/
theorem NoticeUnit.takeReport_of_closed (h : r.report = .closed) :
    n.takeReport p r =
      if ∃ x ∈ n.early, x.1 = p then { n with early := n.early ++ [(p, r)] }
      else { n with completion := n.completion.map fun c => if c.cycle ≠ r.cycle then c else c.apply p .closed } := by
  obtain ⟨links, completion, completeMet, early⟩ := n
  simp only [NoticeUnit.takeReport, h, List.any_eq_true, decide_eq_true_eq]
  refine if_congr .rfl rfl ?_
  cases completion with
  | none => rfl
  | some c => by_cases hn : c.cycle = r.cycle <;> simp [hn]

/-- A report made at a cycle start is held early, or else applied to the record (R189). -/
theorem NoticeUnit.takeReport_of_ne_closed (h : r.report ≠ .closed) :
    n.takeReport p r =
      if n.isEarly p r then { n with early := n.early ++ [(p, r)] }
      else { n with completion := n.completion.map fun c => c.apply p r.report } := by
  unfold NoticeUnit.takeReport
  split
  · next hclosed => exact absurd hclosed h
  · rfl

/-- A report made at a cycle start is early but for a record of its cycle without a report of the port (R189). -/
theorem NoticeUnit.isEarly_of_some {c : CompletionRecord} (h : n.completion = some c) :
    n.isEarly p r = true ↔ ¬(c.cycle = r.cycle ∧ c.reports[p] = none) := by
  simp [NoticeUnit.isEarly, h, Option.isSome_iff_ne_none, or_iff_not_imp_left]

theorem NoticeUnit.isEarly_of_none (h : n.completion = none) : n.isEarly p r = true := by
  simp [NoticeUnit.isEarly, h]

/-- A report taken leaves the links and the complete condition alone. -/
theorem NoticeUnit.takeReport_frame (n : NoticeUnit) (p : Port) (r : PortReport) :
    (n.takeReport p r).links = n.links ∧ (n.takeReport p r).completeMet = n.completeMet := by
  by_cases h : r.report = .closed
  · rw [NoticeUnit.takeReport_of_closed h]
    split <;> exact ⟨rfl, rfl⟩
  · rw [NoticeUnit.takeReport_of_ne_closed h]
    split <;> exact ⟨rfl, rfl⟩

/-- A record stays begun, and none begins, by a report. -/
theorem NoticeUnit.takeReport_completion_of_none (h : n.completion = none) : (n.takeReport p r).completion = none := by
  by_cases hr : r.report = .closed
  · rw [NoticeUnit.takeReport_of_closed hr]
    split <;> simp [h]
  · rw [NoticeUnit.takeReport_of_ne_closed hr, if_pos (NoticeUnit.isEarly_of_none h)]
    exact h

theorem NoticeUnit.takeReport_early_of_closed (h : r.report = .closed) :
    (n.takeReport p r).early = if ∃ x ∈ n.early, x.1 = p then n.early ++ [(p, r)] else n.early := by
  rw [NoticeUnit.takeReport_of_closed h]
  split <;> rfl

theorem NoticeUnit.takeReport_early_of_none (h : r.report ≠ .closed) (hc : n.completion = none) :
    (n.takeReport p r).early = n.early ++ [(p, r)] := by
  rw [NoticeUnit.takeReport_of_ne_closed h, if_pos (NoticeUnit.isEarly_of_none hc)]

/-- A report made at a cycle start fills its place in a record it belongs to, and is held early by any other. -/
theorem NoticeUnit.takeReport_of_some {c : CompletionRecord} (h : r.report ≠ .closed) (hc : n.completion = some c) :
    n.takeReport p r =
      if c.cycle = r.cycle ∧ c.reports[p] = none then { n with completion := some (c.apply p r.report) }
      else { n with early := n.early ++ [(p, r)] } := by
  rw [NoticeUnit.takeReport_of_ne_closed h, if_congr (NoticeUnit.isEarly_of_some hc) rfl rfl, ite_not, hc]
  rfl

theorem NoticeUnit.takeReport_early_of_some {c : CompletionRecord} (h : r.report ≠ .closed)
    (hc : n.completion = some c) :
    (n.takeReport p r).early =
      if c.cycle = r.cycle ∧ c.reports[p] = none then n.early else n.early ++ [(p, r)] := by
  rw [NoticeUnit.takeReport_of_some h hc]
  split <;> rfl

/-- What a report makes of a record. -/
theorem NoticeUnit.takeReport_completion_of_some {c : CompletionRecord} (hc : n.completion = some c) :
    ∃ c', (n.takeReport p r).completion = some c' ∧
      (r.report = .closed →
        c' = if (∃ x ∈ n.early, x.1 = p) ∨ c.cycle ≠ r.cycle then c else c.apply p .closed) ∧
      (r.report ≠ .closed →
        c' = if c.cycle = r.cycle ∧ c.reports[p] = none then c.apply p r.report else c) := by
  by_cases h : r.report = .closed
  · refine ⟨_, ?_, fun _ => rfl, fun hne => absurd h hne⟩
    rw [NoticeUnit.takeReport_of_closed h, ite_or]
    split
    · exact hc
    · rw [hc]
      rfl
  · refine ⟨_, ?_, fun he => absurd he h, fun _ => rfl⟩
    rw [NoticeUnit.takeReport_of_some h hc]
    split
    · rfl
    · exact hc

end Reports

/-- The part with a report of a port taken and not yet judged (R189, R190). -/
def State.reportTaken (s : State) (p : Port) (r : PortReport) (rest : List PortReport) : State :=
  { s with
    notice := s.notice.takeReport p r
    flight := { s.flight with reports := s.flight.reports.set p rest } }

theorem exec_portCompletionReport {s : State} {p : Port} {r : PortReport} {rest : List PortReport}
    (h : s.flight.reports[p] = r :: rest) :
    exec (.portCompletionReport p) s = .next (s.reportTaken p r rest).judgeCycle := by
  simp only [exec, execPortCompletionReport, h]
  rfl

/-- Settles O59: the three events, each judged; the cut is that of the state in which the event is judged. -/
theorem cycleNoticeOncePerCycle : Obligations.CycleNoticeOncePerCycle := by
  unfold Obligations.CycleNoticeOncePerCycle
  intro cut complete met judged applied
  refine ⟨fun s cycle resume instant rest h => ?_, fun s k cycle flag instant rest c h hc => ?_,
    fun s p r rest h => ?_⟩
  · have hbegun : (s.recordBegun cycle rest).notice.completion = some (s.notice.newRecord cycle) := rfl
    refine ⟨_, s.notice.newRecord cycle, exec_noticeCycleStart h, State.judgeCycle_completion _,
      NoticeUnit.newRecord_cycle _ _, State.judgeCycle_early _, ?_, NoticeUnit.newRecord_eq _ _, ?_, fun l => ?_⟩
    · rw [State.judgeCycle_frame]
      rfl
    · exact (State.judgeCycle_completeMet hbegun).trans (or_iff_right Bool.false_ne_true)
    · have hl := State.judgeCycle_judged hbegun l
      rwa [State.recordBegun_getElem] at hl
  · have htaken : ((s.modFlight fun f => { f with cyclesToNotice := rest }).mapNotice fun n =>
        n.startSlot k flag).notice.completion = some c := hc
    refine ⟨_, exec_noticeSlotStart h, ?_, State.judgeCycle_completeMet htaken, fun l => ?_⟩
    · rw [State.judgeCycle_frame]
      rfl
    · have hl := State.judgeCycle_judged htaken l
      rwa [State.mapNotice_getElem] at hl
  · refine ⟨_, exec_portCompletionReport h, ?_, fun hr => ?_, fun hr hc => ?_, fun c hr hc => ?_, fun hc => ?_,
      fun c hc => ?_⟩
    · rw [State.judgeCycle_frame]
      rfl
    · exact (State.judgeCycle_early _).trans (NoticeUnit.takeReport_early_of_closed hr)
    · exact (State.judgeCycle_early _).trans (NoticeUnit.takeReport_early_of_none hr hc)
    · exact (State.judgeCycle_early _).trans (NoticeUnit.takeReport_early_of_some hr hc)
    · rw [State.judgeCycle_of_none (NoticeUnit.takeReport_completion_of_none hc)]
      exact ⟨NoticeUnit.takeReport_completion_of_none hc, s.notice.takeReport_frame p r⟩
    · obtain ⟨c', hc', hclosed, hmade⟩ := NoticeUnit.takeReport_completion_of_some (p := p) (r := r) hc
      have htaken : (s.reportTaken p r rest).notice.completion = some c' := hc'
      obtain ⟨hlinks, hmet⟩ : (s.reportTaken p r rest).notice.links = s.notice.links ∧
          (s.reportTaken p r rest).notice.completeMet = s.notice.completeMet := s.notice.takeReport_frame p r
      have happlied : ∀ v q k, CompletionRecord.apply v q k = applied v q k := CompletionRecord.apply_eq
      rw [happlied] at hclosed hmade
      refine ⟨c', (State.judgeCycle_completion _).trans hc', hclosed, hmade, ?_, fun l => ?_⟩
      · have hwhole := State.judgeCycle_completeMet htaken
        rwa [hmet] at hwhole
      · have hl := State.judgeCycle_judged htaken l
        rwa [hlinks] at hl

end Sys2Proof.Machine

/-! SUPPORT. What leaves the notice unit alone (R185 to R191): every operation of the other blocks, chapter by
chapter. -/

namespace Sys2Proof.Machine

open Sys2Proof.Config Sys2Proof.Safety

section NoticeFrame

variable (s : State)

/-! ### Input units (chapter 2) -/

@[simp] theorem State.followScale_notice (e : Ext) : (s.followScale e).notice = s.notice := by
  unfold State.followScale; split <;> rfl

@[simp] theorem State.formPair_notice (u : InUnit) (tod : TimeOfDay) (c : Stamp) :
    (s.formPair u tod c).notice = s.notice := by
  unfold State.formPair; dsimp only; split <;> simp

@[simp] theorem unpaired_notice (u : InUnit) : (unpaired s u).notice = s.notice := by
  unfold unpaired; dsimp only; split <;> rfl

@[simp] theorem State.emitUnpaired_notice (u : InUnit) : (s.emitUnpaired u).notice = s.notice := by
  simp [State.emitUnpaired_eq]

@[simp] theorem State.settleHeld_notice (u : InUnit) (now : Stamp) :
    (s.settleHeld u now).notice = s.notice := by
  unfold State.settleHeld; split <;> simp

@[simp] theorem State.orphan_notice (u : InUnit) : (s.orphan u).notice = s.notice := rfl

@[simp] theorem State.pairPulse_notice (u : InUnit) (c : Stamp) : (s.pairPulse u c).notice = s.notice := by
  unfold State.pairPulse
  split
  · simp
  · split <;> simp

@[simp] theorem State.pairSentence_notice (u : InUnit) (tod : TimeOfDay) (now : Stamp) :
    (s.pairSentence u tod now).notice = s.notice := by
  unfold State.pairSentence
  dsimp only
  split
  · split <;> simp
  · simp

@[simp] theorem State.acceptPulse_notice (u : InUnit) (c : Stamp) (n : Count) :
    (s.acceptPulse u c n).notice = s.notice := by
  simp [State.acceptPulse]

@[simp] theorem State.pulse_notice (u : InUnit) (c : Stamp) : (s.pulse u c).notice = s.notice := by
  unfold State.pulse
  dsimp only
  split
  · simp
  · simp
  · split <;> simp

@[simp] theorem State.miss_notice (u : InUnit) : (s.miss u).notice = s.notice := rfl

/-! ### Source selector (chapter 4) -/

@[simp] theorem State.modInputOf_notice (e : Ext) (f : InputUnit → InputUnit) :
    (s.modInputOf e f).notice = s.notice := by
  unfold State.modInputOf; split <;> rfl

@[simp] theorem State.modUplinkOf_notice (e : Ext) (f : UplinkUnit → UplinkUnit) :
    (s.modUplinkOf e f).notice = s.notice := by
  unfold State.modUplinkOf; split <;> rfl

@[simp] theorem State.selectSource_notice (i : Source) : (s.selectSource i).notice = s.notice := by
  rw [State.selectSource_eq]; split <;> rfl

@[simp] theorem State.push_notice (e : Ext) (c : Cause) : (s.push e c).notice = s.notice := rfl

@[simp] theorem State.maskOptions_notice : s.maskOptions.notice = s.notice := rfl

@[simp] theorem State.failureSwitch_notice : s.failureSwitch.notice = s.notice := by
  simp [State.failureSwitch]

@[simp] theorem State.leaveTrial_notice (e : Ext) : (s.leaveTrial e).notice = s.notice := by
  simp [State.leaveTrial]

@[simp] theorem State.faultEntry_notice (e : Ext) (c : Cause) : (s.faultEntry e c).notice = s.notice := by
  unfold State.faultEntry; dsimp only; split <;> simp

@[simp] theorem State.revertTest_notice (n : Nat) : (s.revertTest n).notice = s.notice :=
  State.revertTest_induct (P := fun v => v.notice = s.notice) s n rfl
    (fun _ _ _ h _ _ => h) (fun v t _ h _ _ _ => (v.selectSource_notice (toSource t.source)).trans h)

@[simp] theorem State.revert_notice : s.revert.notice = s.notice :=
  s.revertTest_notice _

@[simp] theorem State.upgradeTest_notice : s.upgradeTest.notice = s.notice := by
  rcases s.upgradeTest_cases with h | ⟨b, -, -, h⟩ <;> simp [h]

/-- A change that may move an effective class moves the notices only as the change itself does. -/
theorem State.withClassChange_notice {s : State} {e : Ext} {f : State → State}
    (hf : (f s).notice = s.notice) : (s.withClassChange e f).notice = s.notice := by
  rcases s.withClassChange_cases e f with h | h <;> simp [h, hf]

@[simp] theorem State.enterTrial_notice (e : Ext) (b : Bool) : (s.enterTrial e b).notice = s.notice := by
  simp [State.enterTrial]

@[simp] theorem State.becomeUsable_notice (e : Ext) : (s.becomeUsable e).notice = s.notice := by
  unfold State.becomeUsable
  dsimp only
  split_ifs <;> simp

@[simp] theorem State.heardReport_notice (e : Ext) (k : ReportKind) :
    (s.heardReport e k).notice = s.notice := by
  unfold State.heardReport
  cases k with
  | accepted => rfl
  | stray => rfl
  | miss => dsimp only; split_ifs <;> simp

@[simp] theorem State.takeReport_notice (e : Ext) (k : ReportKind) :
    (s.takeReport e k).notice = s.notice := by
  unfold State.takeReport; split <;> simp

@[simp] theorem State.takeGood_notice (e : Ext) (c : Int) : (s.takeGood e c).notice = s.notice := by
  unfold State.takeGood
  dsimp only
  split
  · split_ifs <;> simp
  · simp

@[simp] theorem State.takeBad_notice (e : Ext) (c : BadCause) : (s.takeBad e c).notice = s.notice := by
  unfold State.takeBad; dsimp only; split <;> simp

@[simp] theorem State.takePhase_notice (e : Ext) (ev : PhaseEvent) :
    (s.takePhase e ev).notice = s.notice := by
  unfold State.takePhase
  split
  · rfl
  · dsimp only
    generalize hv : (if s.selector.entries[e].state = .absent then s.enterTrial e false else s) = v
    have h : v.notice = s.notice := by
      rw [← hv]; split <;> simp
    split
    · simp [h]
    · split <;> simp [h]

@[simp] theorem State.enableSource_notice (e : Ext) : (s.enableSource e).notice = s.notice := by
  unfold State.enableSource; split <;> simp

@[simp] theorem State.switchOff_notice (e : Ext) : (s.switchOff e).notice = s.notice := by
  unfold State.switchOff; dsimp only; split <;> simp

@[simp] theorem State.disableSource_notice (e : Ext) : (s.disableSource e).notice = s.notice := by
  have hj : (s.withClassChange e fun t => t.switchOff e).notice = s.notice :=
    State.withClassChange_notice (s.switchOff_notice e)
  unfold State.disableSource
  dsimp only
  split_ifs <;> simp [hj]

@[simp] theorem State.countTimers_notice (e : Ext) : (s.countTimers e).notice = s.notice := by
  unfold State.countTimers
  dsimp only
  split
  · split
    · split <;> simp
    · rfl
  · simp
  · rfl

/-- A fold of operations that each keep the notices keeps it. -/
theorem foldl_notice {α : Type} {f : State → α → State} (hf : ∀ v a, (f v a).notice = v.notice)
    (l : List α) (s : State) : (l.foldl f s).notice = s.notice := by
  induction l generalizing s with
  | nil => rfl
  | cons a l ih => rw [List.foldl_cons, ih, hf]

@[simp] theorem State.selectorCycle_notice : s.selectorCycle.notice = s.notice := by
  unfold State.selectorCycle
  split
  · rfl
  · simp [foldl_notice State.countTimers_notice]

@[simp] theorem State.manualSwitch_notice (i : Source) : (s.manualSwitch i).notice = s.notice := by
  unfold State.manualSwitch; split <;> simp

/-! ### Serial lines (chapter 2) and uplink units (chapter 3) -/

@[simp] theorem State.takeDescriptor_notice (u : InUnit) (body : List Byte) :
    (s.takeDescriptor u body).notice = s.notice := by
  unfold State.takeDescriptor
  split
  · rfl
  · exact State.withClassChange_notice rfl

@[simp] theorem State.sentence_notice (u : InUnit) (k : Byte) (n : Nat) (body : List Byte) (c : Byte)
    (now : Stamp) : (s.sentence u k n body c now).notice = s.notice := by
  unfold State.sentence; dsimp only; split_ifs <;> simp

@[simp] theorem State.deliver_notice (u : InUnit) (c : Byte) (now : Stamp) :
    (s.deliver u c now).notice = s.notice := by
  unfold State.deliver; split <;> simp

@[simp] theorem State.release_notice (u : UpUnit) (t1 t2 : Stamp) :
    (s.release u t1 t2).notice = s.notice := rfl

@[simp] theorem State.confirm_notice (u : UpUnit) (m : MarkFields) (t1 t2 : Stamp) :
    (s.confirm u m t1 t2).notice = s.notice := by
  unfold State.confirm
  split
  · simp
  · simp
  · split
    · rfl
    · dsimp only; split <;> simp
  · rfl

@[simp] theorem State.takeMark_notice (u : UpUnit) (m : MarkFields) (a : Stamp) :
    (s.takeMark u m a).notice = s.notice := by
  simp [State.takeMark]

@[simp] theorem State.takeUpstream_notice (u : UpUnit) (c : Nat) (sc : Int) :
    (s.takeUpstream u c sc).notice = s.notice := by
  unfold State.takeUpstream
  rw [State.followScale_notice]
  exact State.withClassChange_notice rfl

@[simp] theorem State.uplinkCycle_notice (u : UpUnit) (n : Nat) (d : Stamp) :
    (s.uplinkCycle u n d).notice = s.notice := by
  unfold State.uplinkCycle
  dsimp only
  split
  · split <;> rfl
  · rfl

@[simp] theorem State.takeUplinkCycle_notice (u : UpUnit) : (s.takeUplinkCycle u).notice = s.notice := by
  unfold State.takeUplinkCycle; split <;> simp

/-! ### Steering unit (chapter 5) -/

@[simp] theorem State.requestStep_notice (e : Ext) (d : Int) : (s.requestStep e d).notice = s.notice := rfl

@[simp] theorem State.lockTest_notice (c : Int) : (s.lockTest c).notice = s.notice := by
  unfold State.lockTest; dsimp only; split_ifs <;> rfl

@[simp] theorem State.excursionTest_notice (e : Ext) (c : Int) :
    (s.excursionTest e c).notice = s.notice := by
  unfold State.excursionTest; dsimp only; split_ifs <;> rfl

@[simp] theorem State.steer_notice (e : Ext) (c : Int) : (s.steer e c).notice = s.notice := by
  unfold State.steer; dsimp only; split <;> simp

@[simp] theorem State.takeGoodEvent_notice (e : Ext) (c x : Int) :
    (s.takeGoodEvent e c x).notice = s.notice := by
  unfold State.takeGoodEvent; dsimp only; split_ifs <;> simp

@[simp] theorem State.takeStepAnnouncement_notice (o : StepOrigin) :
    (s.takeStepAnnouncement o).notice = s.notice := by
  unfold State.takeStepAnnouncement; dsimp only; split <;> rfl

@[simp] theorem State.acquireSource_notice (e : Ext) : (s.acquireSource e).notice = s.notice := by
  unfold State.acquireSource; dsimp only; split <;> rfl

@[simp] theorem State.leaveSource_notice : s.leaveSource.notice = s.notice := by
  unfold State.leaveSource
  split
  · rfl
  · dsimp only; split <;> rfl

@[simp] theorem State.ageHoldover_notice (n : Nat) : (s.ageHoldover n).notice = s.notice := by
  unfold State.ageHoldover; split_ifs <;> rfl

@[simp] theorem State.steeringCycle_notice : s.steeringCycle.notice = s.notice := by
  unfold State.steeringCycle; split <;> simp

/-! ### Cycle timer and plan store (chapter 6) -/

@[simp] theorem State.countRequests_notice (u : InUnit) : (s.countRequests u).notice = s.notice := by
  unfold State.countRequests; split <;> rfl

@[simp] theorem State.handCycle_notice (n : Nat) (b : Bool) (i : Stamp) :
    (s.handCycle n b i).notice = s.notice := rfl

@[simp] theorem State.startCycle_notice (n : Nat) (i : Stamp) : (s.startCycle n i).notice = s.notice := by
  rw [State.startCycle_eq, State.begun_frame]
  simp only [State.handCycle_notice, State.countRequests_notice]

@[simp] theorem State.startSlot_notice (k : Nat) (i : Stamp) : (s.startSlot k i).notice = s.notice := by
  unfold State.startSlot; split <;> rfl

@[simp] theorem State.cutCycle_notice : s.cutCycle.notice = s.notice := rfl

/-! ### Distribution ports (chapter 7) -/

@[simp] theorem State.portCycle_notice (p : Port) (n : Nat) (nm : Option (BankName × Nat)) :
    (s.portCycle p n nm).notice = s.notice := by
  unfold State.portCycle
  split
  · split
    · dsimp only; split <;> simp
    · rfl
  · rfl

@[simp] theorem State.takePortCycle_notice (p : Port) : (s.takePortCycle p).notice = s.notice := by
  unfold State.takePortCycle; split <;> simp

@[simp] theorem State.sendMark_notice (p : Port) (k : Nat) (b : Bool) (x : Elapsed) :
    (s.sendMark p k b x).notice = s.notice := by
  unfold State.sendMark; dsimp only; split <;> rfl

@[simp] theorem State.departMark_notice (p : Port) (k : Nat) (b : Bool) (x : Elapsed) :
    (s.departMark p k b x).notice = s.notice := by
  unfold State.departMark; dsimp only; split <;> simp

@[simp] theorem State.departReply_notice (p : Port) (d : Departure) (l : Option (List Answer)) (n : Nat) :
    (s.departReply p d l n).notice = s.notice := by
  unfold State.departReply; dsimp only; split <;> rfl

@[simp] theorem State.takeQuery_notice (p : Port) (r : Nat) (q : Seq) (a : Stamp) :
    (s.takeQuery p r q a).notice = s.notice := by
  unfold State.takeQuery; dsimp only; split_ifs <;> rfl

@[simp] theorem State.portDown_notice (p : Port) : (s.portDown p).notice = s.notice := by
  unfold State.portDown; dsimp only; split_ifs <;> rfl

/-! ### Commands of the executor (chapter 10) -/

@[simp] theorem State.answer_notice (r : Running) (st : Status) : (s.answer r st).notice = s.notice := rfl

/-- A checked write moves the notices only as its continuation does. -/
theorem State.checkedWrite_notice {s : State} {r : Running} {sect index : Nat} {k : State}
    (hk : k.notice = s.notice) : (s.checkedWrite r sect index k).notice = s.notice := by
  rcases s.checkedWrite_cases r sect index k with ⟨-, h⟩ | ⟨-, -, h⟩ | ⟨-, h⟩ <;> simp [h, hk]

@[simp] theorem State.runReadTime_notice (r : Running) (x : Elapsed) :
    (s.runReadTime r x).notice = s.notice := by
  unfold State.runReadTime; split <;> rfl

@[simp] theorem State.runSwitchSource_notice (r : Running) (n : Nat) :
    (s.runSwitchSource r n).notice = s.notice := by
  refine State.checkedWrite_notice ?_
  split
  · dsimp only
    split
    · rfl
    · split_ifs <;> simp
  · rfl

@[simp] theorem State.runDiscardFallback_notice (r : Running) :
    (s.runDiscardFallback r).notice = s.notice := by
  refine State.checkedWrite_notice ?_
  split <;> simp

@[simp] theorem State.runArmPlan_notice (r : Running) (b n : Nat) :
    (s.runArmPlan r b n).notice = s.notice := by
  unfold State.runArmPlan
  split
  · rfl
  · split
    · rfl
    · split_ifs
      · rfl
      · rfl
      · split <;> rfl

@[simp] theorem State.runDisarmPlan_notice (r : Running) : (s.runDisarmPlan r).notice = s.notice := by
  refine State.checkedWrite_notice ?_
  split <;> rfl

@[simp] theorem State.runClearPortFlags_notice (r : Running) (l : List Nat) :
    (s.runClearPortFlags r l).notice = s.notice := by
  unfold State.runClearPortFlags
  dsimp only
  split_ifs
  · rfl
  · rfl
  · rfl
  · rfl
  · rw [State.respond_notice]
    exact foldl_notice (fun v p => v.modPort_notice p _) _ s

@[simp] theorem State.runReadEntry_notice (r : Running) (i j : Nat) (x : Elapsed) :
    (s.runReadEntry r i j x).notice = s.notice := by
  unfold State.runReadEntry
  split_ifs
  · rfl
  · rfl
  · split <;> rfl

@[simp] theorem State.badFrame_notice (l : Link) (tag : Byte) (st : Status) :
    (s.badFrame l tag st).notice = s.notice := by
  unfold State.badFrame; dsimp only; split <;> rfl

@[simp] theorem State.takeCommand_notice (l : Link) (f : List Byte) :
    (s.takeCommand l f).notice = s.notice := by
  unfold State.takeCommand; split <;> simp

@[simp] theorem State.grant_notice (l : Link) : (s.grant l).notice = s.notice := by
  unfold State.grant; split <;> simp

@[simp] theorem State.runLockAccess_notice (r : Running) : (s.runLockAccess r).notice = s.notice := by
  unfold State.runLockAccess; split_ifs <;> rfl

@[simp] theorem State.runStepTime_notice (r : Running) (sec ns : Int) (x : Elapsed) :
    (s.runStepTime r sec ns x).notice = s.notice := by
  obtain ⟨v, st, p, h, rfl | rfl⟩ := s.runStepTime_cases r sec ns x <;> rw [h] <;> rfl

@[simp] theorem State.runPeekFault_notice (r : Running) : (s.runPeekFault r).notice = s.notice := rfl

end NoticeFrame

/-! ### Entry writes (R178) -/

section EntryWrites

variable (s : State) (value : List Byte)

theorem State.writeInput_notice (u : InUnit) (off : Nat) :
    (s.writeInput u off value).Forall fun t => t.notice = s.notice := by
  unfold State.writeInput; dsimp only; split <;> simp

theorem State.writeUplink_notice (u : UpUnit) (off : Nat) :
    (s.writeUplink u off value).Forall fun t => t.notice = s.notice := by
  unfold State.writeUplink; dsimp only; split <;> simp

theorem State.writeSource_notice (e : Ext) (off : Nat) :
    (s.writeSource e off value).Forall fun t => t.notice = s.notice := by
  have hc (n : Nat) : (s.setClass e n).notice = s.notice := State.withClassChange_notice rfl
  unfold State.writeSource
  split
  · rw [forall_storeEnum]
    intro b _ _
    split <;> simp
  · simp
  · simp [hc]
  · split <;> simp
  · simp
  · unfold State.writeUnit
    split
    · exact s.writeInput_notice value _ off
    · exact s.writeUplink_notice value _ off
    · trivial

theorem State.writeSources_notice (index : Nat) :
    (s.writeSources index value).Forall fun t => t.notice = s.notice := by
  have ha (on : Bool) : (s.setAutoUpgrade on).notice = s.notice := by
    unfold State.setAutoUpgrade; dsimp only; split <;> simp
  unfold State.writeSources
  split_ifs
  · exact s.writeSource_notice value _ _
  · trivial
  · unfold State.writeSelector; dsimp only; split <;> simp [ha]

theorem State.writeSteering_notice (index : Nat) :
    (s.writeSteering index value).Forall fun t => t.notice = s.notice := by
  unfold State.writeSteering; dsimp only; split <;> simp

theorem State.writeTimeSection_notice (index : Nat) :
    (s.writeTimeSection index value).Forall fun t => t.notice = s.notice := by
  unfold State.writeTimeSection
  split
  · exact forall_storeNum.mpr fun _ _ => rfl
  · exact forall_storeNum.mpr fun _ _ => rfl
  · trivial

theorem State.writePlans_notice (index : Nat) :
    (s.writePlans index value).Forall fun t => t.notice = s.notice := by
  unfold State.writePlans State.writeMap
  split
  · split
    · trivial
    · split <;> trivial
  · split
    · exact forall_storeNat.mpr fun _ _ => rfl
    · trivial

theorem State.writePorts_notice (index : Nat) :
    (s.writePorts index value).Forall fun t => t.notice = s.notice := by
  unfold State.writePorts State.writePort
  split
  · dsimp only; split <;> simp
  · trivial

theorem State.writeOutputs_notice (index : Nat) :
    (s.writeOutputs index value).Forall fun t => t.notice = s.notice := by
  unfold State.writeOutputs State.writePulse State.writeCoded
  split_ifs
  · split <;> simp
  · split <;> simp
  · trivial

theorem State.writeAccess_notice (index : Nat) :
    (s.writeAccess index value).Forall fun t => t.notice = s.notice := by
  unfold State.writeAccess
  split_ifs
  · split <;> trivial
  · split <;> trivial
  · trivial

end EntryWrites

end Sys2Proof.Machine

/-! SUPPORT. Every command keeps the in-service stacks in strictly rising priority and the fault queues within sixteen
entries (R187, R191). -/

namespace Sys2Proof.Machine

open Sys2Proof.Config Sys2Proof.Safety

/-! ### One link (R187, R188, R191, R192) -/

/-- One link's part of the promise. -/
structure NoticeLink.Sound (n : NoticeLink) : Prop where
  rising : (n.stack.map fun c => (classBit c).val).Pairwise (· < ·)
  faults : n.faults.length ≤ 16

theorem noticesSound_iff {s : State} : NoticesSound s ↔ ∀ l : Link, s.notice.links[l].Sound :=
  forall_congr' fun _ => ⟨fun ⟨hr, hf⟩ => ⟨hr, hf⟩, fun ⟨hr, hf⟩ => ⟨hr, hf⟩⟩

namespace NoticeLink.Sound

variable {n : NoticeLink}

/-- The promise reads the stack and the queue alone. -/
theorem of_same (h : n.Sound) {m : NoticeLink} (hs : m.stack = n.stack) (hf : m.faults = n.faults) : m.Sound :=
  ⟨hs ▸ h.rising, hf ▸ h.faults⟩

theorem judge (h : n.Sound) (whole : Bool) : (n.judge whole).Sound := by
  rw [NoticeLink.judge_eq]
  split
  · exact h.of_same rfl rfl
  · exact h

/-- A fault joins only a queue below sixteen entries (R191). -/
theorem offer (h : n.Sound) (f : FaultEntry) : (n.offer f).Sound := by
  rw [NoticeLink.offer_eq]
  split_ifs with hadmit hroom
  · exact h
  · refine ⟨h.rising, ?_⟩
    rw [List.length_append]
    exact hroom
  · exact h.of_same rfl rfl

/-- A class is pushed only where it outranks the top, and so every class below (R186, R187). -/
theorem push (h : n.Sound) {c : NoticeClass} (hc : Deliverable n c) (latch : BitVec 6) :
    ({ n with latch := latch, stack := c :: n.stack } : NoticeLink).Sound := by
  have hrising := h.rising
  refine ⟨?_, h.faults⟩
  rw [← List.isChain_iff_pairwise] at hrising ⊢
  refine hrising.cons fun y hy => ?_
  rw [List.head?_map, Option.mem_def, Option.map_eq_some_iff] at hy
  obtain ⟨t, ht, rfl⟩ := hy
  obtain ⟨-, -, hempty | ⟨-, htop⟩⟩ := hc
  · simp [hempty] at ht
  · exact htop t ht

/-- The top class popped (R188). -/
theorem pop (h : n.Sound) {c : NoticeClass} {rest : List NoticeClass} (hs : n.stack = c :: rest) :
    ({ n with stack := rest } : NoticeLink).Sound := by
  have hrising := h.rising
  rw [hs] at hrising
  exact ⟨hrising.of_cons, h.faults⟩

/-- The stack emptied by a reset (R182, R183). -/
theorem emptied (h : n.Sound) {m : NoticeLink} (hs : m.stack = []) (hf : m.faults.length ≤ n.faults.length) :
    m.Sound :=
  ⟨by simp [hs], hf.trans h.faults⟩

/-- The oldest fault popped (R192). -/
theorem popFault (h : n.Sound) : ({ n with faults := n.faults.drop 1 } : NoticeLink).Sound :=
  ⟨h.rising, (List.drop_sublist 1 _).length_le.trans h.faults⟩

end NoticeLink.Sound

/-! ### The three links -/

/-- From `s` to `t` each link keeps its part of the promise. -/
def NoticesKept (s t : State) : Prop :=
  ∀ l : Link, s.notice.links[l].Sound → t.notice.links[l].Sound

section NoticesKept

variable {s t v : State} {r : Running}

theorem NoticesKept.of_links (h : t.notice.links = s.notice.links) : NoticesKept s t :=
  fun l hl => by rwa [h]

theorem NoticesKept.of_notice (h : t.notice = s.notice) : NoticesKept s t :=
  .of_links (congrArg NoticeUnit.links h)

theorem NoticesKept.refl (s : State) : NoticesKept s s := fun _ => id

theorem NoticesKept.trans (h : NoticesKept s t) (h' : NoticesKept t v) : NoticesKept s v :=
  fun l hl => h' l (h l hl)

/-- The promise reads no event on its way. -/
theorem NoticesKept.of_modFlight {f : Flight → Flight} (h : NoticesKept (s.modFlight f) t) : NoticesKept s t := h

theorem NoticesKept.respond (h : NoticesKept s t) (st : Status) (p : List Byte) :
    NoticesKept s (t.respond r st p) := h

/-- A change of every link that keeps each one's part of the promise. -/
theorem NoticesKept.mapNotice {f : NoticeLink → NoticeLink} (hf : ∀ n, n.Sound → (f n).Sound) :
    NoticesKept s (s.mapNotice f) := by
  intro l hl
  rw [State.mapNotice_getElem]
  exact hf _ hl

/-- A change of one link that keeps its own part of the promise. -/
theorem NoticesKept.modNotice {l : Link} {f : NoticeLink → NoticeLink}
    (hf : s.notice.links[l].Sound → (f s.notice.links[l]).Sound) : NoticesKept s (s.modNotice l f) := by
  intro m hm
  have hset : (s.modNotice l f).notice.links[m] = if l = m then f s.notice.links[m] else s.notice.links[m] :=
    getElem_set_apply s.notice.links l m f
  rw [hset]
  split
  · next hlm => subst hlm; exact hf hm
  · exact hm

theorem State.judgeCycle_noticesKept (s : State) : NoticesKept s s.judgeCycle := by
  cases hc : s.notice.completion with
  | none =>
    rw [State.judgeCycle_of_none hc]
    exact .refl s
  | some c =>
    rw [State.judgeCycle_eq hc]
    exact NoticesKept.mapNotice fun n hn => hn.judge _

theorem State.noticeCycle_noticesKept (s : State) (cycle : Nat) : NoticesKept s (s.noticeCycle cycle) := by
  refine .trans ?_ (State.judgeCycle_noticesKept _)
  exact .trans (.of_links rfl) (.mapNotice fun _ hn => hn.of_same rfl rfl)

theorem State.noticeSlot_noticesKept (s : State) (k : Nat) (cut : Bool) : NoticesKept s (s.noticeSlot k cut) := by
  have hslot : NoticesKept s (s.mapNotice fun n => n.startSlot k cut) := .mapNotice fun _ hn => hn.of_same rfl rfl
  rw [State.noticeSlot_eq]
  exact hslot.trans (State.judgeCycle_noticesKept _)

theorem State.takeReport_noticesKept (s : State) (p : Port) (r : PortReport) :
    NoticesKept s { s with notice := s.notice.takeReport p r } :=
  .of_links (s.notice.takeReport_frame p r).1

/-! ### Commands of the executor (R178, R182, R183, R187 to R193) -/

/-- A checked write keeps the promise when its continuation does. -/
theorem NoticesKept.checkedWrite (h : NoticesKept s t) (sect index : Nat) :
    NoticesKept s (s.checkedWrite r sect index t) := by
  rcases s.checkedWrite_cases r sect index t with ⟨-, h'⟩ | ⟨-, -, h'⟩ | ⟨-, h'⟩ <;> rw [h']
  · exact .refl s
  · exact .refl s
  · exact h

@[simp] theorem State.runTakeNotice_noticesKept (s : State) (r : Running) : NoticesKept s (s.runTakeNotice r) := by
  cases hb : s.notice.links[r.link].best with
  | none =>
    rw [State.runTakeNotice_of_none hb]
    exact .refl s
  | some c =>
    have hc : Deliverable s.notice.links[r.link] c := NoticeLink.deliverable_iff.mp (List.find?_some hb)
    rw [State.runTakeNotice_of_some hb]
    exact .respond (.modNotice fun h => h.push hc _) _ _

@[simp] theorem State.runEndService_noticesKept (s : State) (r : Running) : NoticesKept s (s.runEndService r) := by
  cases hs : s.notice.links[r.link].stack with
  | nil =>
    rw [State.runEndService_of_nil hs]
    exact .refl s
  | cons c rest =>
    rw [State.runEndService_of_cons hs]
    exact .respond (.modNotice fun h => h.pop hs) _ _

@[simp] theorem State.runPopFault_noticesKept (s : State) (r : Running) : NoticesKept s (s.runPopFault r) :=
  .respond (.modNotice fun h => h.popFault) _ _

@[simp] theorem State.runClearFaultOverflow_noticesKept (s : State) (r : Running) :
    NoticesKept s (s.runClearFaultOverflow r) :=
  .respond (.modNotice fun h => h.of_same rfl rfl) _ _

@[simp] theorem State.runLinkReset_noticesKept (s : State) (r : Running) : NoticesKept s (s.runLinkReset r) := by
  have hlink : NoticesKept s (s.modLink r.link LinkUnit.linkReset) := .of_notice rfl
  exact .respond (hlink.trans (.modNotice fun h => h.emptied rfl le_rfl)) _ _

/-- One block's reset (R183, R195). -/
theorem State.resetBlock_noticesKept (s : State) (done : List ResetBlock) (b : ResetBlock) :
    NoticesKept s (s.resetBlock done b) := by
  intro l hl
  rw [(s.resetBlock_reset done b).noticeLinks]
  split
  · rw [Fin.getElem_fin, Vector.getElem_map]
    exact hl.emptied rfl (Nat.zero_le _)
  · exact hl

@[simp] theorem State.runServiceReset_noticesKept (s : State) (r : Running) (blocks : List ResetBlock) :
    NoticesKept s (s.runServiceReset r blocks) := by
  have hblocks : NoticesKept s (s.resetBlocks r.resetTaken blocks).1 :=
    State.resetBlocks_induct (P := fun v _ => NoticesKept s v) s r.resetTaken blocks (.refl s)
      fun v d b hv _ => hv.trans (v.resetBlock_noticesKept d b)
  unfold State.runServiceReset
  dsimp only
  generalize s.resetBlocks r.resetTaken blocks = out at hblocks
  have hgo {v : State} (hv : v.notice = out.1.notice) : NoticesKept s v := hblocks.trans (.of_notice hv)
  split
  · refine .checkedWrite (hgo ?_) 1 0
    split <;> rfl
  · refine hgo ?_
    split <;> rfl

/-! ### Entry writes (R178, R194) -/

/-- The settings are neither stack nor queue (R194). -/
theorem State.writeNotice_noticesKept (s : State) (l : Link) (off : Nat) (value : List Byte) :
    (s.writeNotice l off value).Forall (NoticesKept s) := by
  have hset {f : NoticeLink → NoticeLink} (hs : ∀ n, (f n).stack = n.stack) (hf : ∀ n, (f n).faults = n.faults) :
      NoticesKept s (s.modNotice l f) := .modNotice fun h => h.of_same (hs _) (hf _)
  unfold State.writeNotice
  split
  · exact forall_storeSet.mpr fun _ _ _ => hset (fun _ => rfl) fun _ => rfl
  · exact forall_storeEnum.mpr fun _ _ _ => hset (fun _ => rfl) fun _ => rfl
  · exact forall_storeEnum.mpr fun _ _ _ => hset (fun _ => rfl) fun _ => rfl
  · exact forall_storeNat.mpr fun _ _ => hset (fun _ => rfl) fun _ => rfl
  · exact forall_storeSet.mpr fun _ _ _ => hset (fun _ => rfl) fun _ => rfl
  · trivial

/-- Of the nine sections only CONTROL moves the notice unit. -/
theorem State.storeEntry_noticesKept (s : State) (sect index : Nat) (value : List Byte) :
    (s.storeEntry sect index value).Forall (NoticesKept s) := by
  have hquiet {x : Stored} (hx : x.Forall fun t => t.notice = s.notice) : x.Forall (NoticesKept s) :=
    hx.mono fun _ => .of_notice
  unfold State.storeEntry
  split
  · unfold State.writeControl
    split
    · exact s.writeNotice_noticesKept _ _ value
    · trivial
  · exact hquiet (s.writeSources_notice value index)
  · exact hquiet (s.writeSteering_notice value index)
  · exact hquiet (s.writeTimeSection_notice value index)
  · exact hquiet (s.writePlans_notice value index)
  · exact hquiet (s.writePorts_notice value index)
  · exact hquiet (s.writeOutputs_notice value index)
  · exact hquiet (s.writeAccess_notice value index)
  · trivial

theorem State.writeAs_noticesKept (s : State) (row : WriteRow) : NoticesKept s (s.writeAs row) := by
  rcases s.writeAs_cases row with h | ⟨r, sect, index, value, -, -, h⟩ <;> rw [h]
  · exact .refl s
  · exact State.runWriteEntry_induct (.refl s) (s.storeEntry_noticesKept sect index value) fun _ st p ht =>
      ht.respond st p

end NoticesKept

/-! ### Every command -/

/-- A row of the executor keeps the promise when every command it accepts does. -/
theorem State.onCommand_noticesKept {s : State} {f : Running → Command → Option State}
    (hf : ∀ r c t, f r c = some t → NoticesKept s t) : NoticesKept s (s.onCommand f) := by
  rcases s.onCommand_cases f with h | ⟨r, t, -, h, h'⟩
  · rw [h]
    exact .refl s
  · rw [h']
    exact hf r _ t h

/-- Every command but power-on reset keeps the promise of each link. -/
theorem exec_noticesKept {c : Instr} {s t : State} (hp : notPowerOn c = true) (h : exec c s = .next t) :
    NoticesKept s t := by
  cases c
  case powerOnReset => cases hp
  case rateWordTaken | stepRequestApplied =>
    simp only [exec, execRateWordTaken, execStepRequestApplied] at h
    split at h <;> cases h <;> exact .of_notice rfl
  all_goals cases h
  -- notices
  case noticeLatch =>
    split
    · exact .of_modFlight (.mapNotice fun _ hn => hn.of_same rfl rfl)
    · exact .refl s
  case faultOffered =>
    split
    · exact .refl s
    · exact .of_modFlight (.mapNotice fun _ hn => hn.offer _)
  case noticeCycleStart =>
    split
    · exact .of_modFlight (State.noticeCycle_noticesKept _ _)
    · exact .refl s
  case noticeSlotStart =>
    split
    · exact .of_modFlight (State.noticeSlot_noticesKept _ _ _)
    · exact .refl s
  case portCompletionReport =>
    split
    · exact .refl s
    · refine .trans ?_ (State.judgeCycle_noticesKept _)
      exact .of_modFlight (State.takeReport_noticesKept _ _ _)
  -- commands of the executor
  case rateLimitWrite | pairingModeWrite | autoRateArmWrite | sourceEnable | sourceDisable |
      autoUpgradeWrite | programmedClassWrite | steeringOptionsWrite | portMapWrite | epochLengthWrite |
      portEnable | portDisable | writeEntry | accessTableWrite | guardEntryWrite | noticeMaskWrite |
      nestModeWrite => exact s.writeAs_noticesKept _
  case takeNotice | endService | popFault | clearFaultOverflow | linkReset | serviceReset =>
    refine State.onCommand_noticesKept fun r c t hf => ?_
    split at hf <;> cases hf
    simp
  case readTime | stepTime | switchSource | discardFallback | armPlan | disarmPlan | clearPortFlags | readEntry |
      peekFault | lockAccess =>
    refine State.onCommand_noticesKept fun r c t hf => .of_notice ?_
    split at hf <;> cases hf
    simp
  -- rows without a branch of their own
  case oscillatorTick | pulseEdge | pairingWindowEnd | uplinkCycleStart | uplinkLinkDown | uplinkLinkUp |
      selectorCycleStart | steeringCycleStart | portCycleStart | portLinkDown | portLinkUp | pulseFall |
      responseDelivered | commandFrameReceived | selectReleased =>
    exact .of_notice (by simp)
  -- rows that do nothing unless their event is there
  case answerEntryExpiry | autoRateMeasurement | breakDetected | breakEnd | codedDueTime | codedOutputStep |
      codedTransmissionDone | cycleCut | cycleStart | descriptorRequestDone | falseStart | framingError |
      holdoverExpiry | measuredLeadEnd | portUnexpectedFrame | pulseOutputStep | pulseRiseTime |
      pulseWindowMiss | queryLost | queryReceived | receiveFallingEdge | retryTimerExpiry | selectAsserted |
      selectorPhaseEvent | selectorPulseReport | selectorStep | slotStart | steeringStepAnnouncement |
      uplinkMark | uplinkQuerySlot | uplinkReply | uplinkStateMark | uplinkUnexpectedFrame =>
    refine .of_notice ?_
    split <;> simp
  -- rows whose event, when it is there, is taken in one of two ways
  case inputUnitStep | portCut | portSlotStart | steeringPhaseEvent | uplinkStep | characterReceived |
      steeringSelectExternal | steeringSelectLocal | commandGrant =>
    refine .of_notice ?_
    split
    any_goals rfl
    split <;> simp
  case requestTimerExpiry =>
    refine .of_notice ?_
    split_ifs <;> simp
  case excursionReport =>
    refine .of_notice ?_
    split
    · rfl
    · dsimp only
      split_ifs <;> simp
  case markDeparture | replyDeparture =>
    refine .of_notice ?_
    split
    · split
      · split <;> simp
      · rfl
    · rfl

/-- Settles O12: a command other than power-on reset keeps each link's part, and power-on reset empties both. -/
theorem noticeStacksStayRising : Obligations.NoticeStacksStayRising := by
  unfold Obligations.NoticeStacksStayRising
  intro s t hs h
  rcases step_cases h with ⟨-, rfl⟩ | ⟨c, rest, -, hexec⟩
  · exact hs
  · cases hc : notPowerOn c
    · cases c <;> cases hc
      cases hexec
      exact powerOn_noticesSound _ _ _ _
    · exact noticesSound_iff.mpr fun l => exec_noticesKept hc hexec l (noticesSound_iff.mp hs l)

end Sys2Proof.Machine

/-! ## The step and the queue of commands (log entry 2) -/

namespace Sys2Proof.Machine

/-- With a command waiting, a step is that command's run on the state with the queue's rest. -/
theorem step_of_pending_cons {s : State} {c : Instr} {rest : List Instr} (h : s.pending = c :: rest) :
    step s = exec c { s with pending := rest } := by
  simp only [step, h]

/-- With no command waiting the part idles (log entry 2). -/
theorem step_of_pending_nil {s : State} (h : s.pending = []) : step s = .next s := by
  simp only [step, h]

/-- Settles O1: the two shapes of the queue; a front command's run does not see the queue it was taken from,
which the rest overwrites. -/
theorem stepRunsFrontCommand : Obligations.StepRunsFrontCommand := by
  unfold Obligations.StepRunsFrontCommand
  constructor
  · intro c rest s
    exact step_of_pending_cons (s := { s with pending := c :: rest }) rfl
  · intro s h
    exact step_of_pending_nil h

end Sys2Proof.Machine
